-- ==== Sys2Proof/Word.lean ====
section
/-! DEFINITION. The word types of the KD-640's links: bytes of the command link and the page store,
32-bit words of the head link, the 16-bit registers of CRC-16 and of the band sum. -/

namespace Sys2Proof

/-- One byte of a frame, of a payload or of the page store. -/
abbrev Byte := BitVec 8

/-- One word of the head link and of a ring slot (R68, R148). -/
abbrev Word := BitVec 32

/-- The register of CRC-16 (00_scope, Conventions), and of a band's running sum (R30). -/
abbrev Half := BitVec 16

end Sys2Proof
end

