-- ==== Sys2Proof/Syntax.lean ====
section
/-! DEFINITION. The commands of the model: one constructor of `Instr` for each row of
spec/opcode_table.json, the events on the part's links and lines, the commands LP takes, the completions
of DRAM operations and the expiries of its timers. -/

namespace Sys2Proof

/-- A head return record (R161). The channel readings are in channel order, channel 0 first. -/
structure HeadRecord where
  plateLoaded : Bool
  drumReady   : Bool
  carriage    : BitVec 16
  readings    : List (BitVec 10)
  deriving DecidableEq, Repr

/-- The order in which the end of a DRAM operation and the requests its completion makes the clients raise
are taken: R77 allows either where a request arrives together with the end (log entry 8). -/
inductive EndOrder where
  | endFirst
  | askFirst
  deriving DecidableEq, Repr

/-- The steps of the part. A command kind (`pageOpen`, ...) carries no operand: its frame stands at the head
of LP's command queue, and the step is LP's taking of it (R9). -/
inductive Instr where
  /-- HARDWARE_RESET (R196) -/
  | hardwareReset
  /-- RESET_RELEASE (R196) -/
  | resetRelease
  /-- FRAME_RECEIVED (R6): the frame's last byte -/
  | frameReceived (b : Byte)
  /-- FRAME_TIMER_EXPIRY (R5) -/
  | frameTimerExpiry
  /-- WATCHDOG_EXPIRY (R18) -/
  | watchdogExpiry
  /-- BEGIN_TRANSMISSION (R15) -/
  | beginTransmission
  /-- FRAME_SENT (R15) -/
  | frameSent
  /-- TAG_ZERO (R10) -/
  | tagZero
  /-- UNKNOWN_KIND (R10) -/
  | unknownKind
  /-- STATUS (R199) -/
  | status
  /-- CONFIGURE (R193) -/
  | configure
  /-- RESTART (R197) -/
  | restart
  /-- PAGE_OPEN (R21) -/
  | pageOpen
  /-- PAGE_BAND (R27) -/
  | pageBand
  /-- PAGE_CLOSE (R35) -/
  | pageClose
  /-- PAGE_QUERY (R63) -/
  | pageQuery
  /-- PAGE_DROP (R60) -/
  | pageDrop
  /-- LINK_WRITE_BURST_DONE (R29) -/
  | linkWriteBurstDone (o : EndOrder)
  /-- RECEPTION_TIMEOUT (R39): the context whose timer expires -/
  | receptionTimeout (ctx : Nat)
  /-- SCREEN_BEGIN (R87) -/
  | screenBegin
  /-- SCREEN_TILE (R89) -/
  | screenTile
  /-- TILE_WRITE_BURST_DONE (R90) -/
  | tileWriteBurstDone (o : EndOrder)
  /-- SCREEN_END (R91) -/
  | screenEnd
  /-- SCREEN_QUERY (R99) -/
  | screenQuery
  /-- PLATE_QUEUE (R124) -/
  | plateQueue
  /-- PLATE_CANCEL (R139) -/
  | plateCancel
  /-- PLATE_QUERY (R142): PLATE.QUERY with an id other than 0 -/
  | plateQuery
  /-- PLATE_LIST (R143): PLATE.QUERY with id 0 -/
  | plateList
  /-- HEAD_SETUP (R145) -/
  | headSetup
  /-- CHANNEL_CLEAR (R170) -/
  | channelClear
  /-- MONITOR_TEST (R176) -/
  | monitorTest
  /-- FILL_BURST_DONE (R96) -/
  | fillBurstDone (o : EndOrder)
  /-- RU_READ_BURST_DONE (R107) -/
  | ruReadBurstDone (o : EndOrder)
  /-- RU_WRITE_BURST_DONE (R119) -/
  | ruWriteBurstDone (o : EndOrder)
  /-- REFRESH_DUE (R81) -/
  | refreshDue
  /-- REFRESH_OPERATION_DONE (R75) -/
  | refreshOperationDone
  /-- DRUM_INDEX (R150) -/
  | drumIndex
  /-- SLOT_CLK (R148) -/
  | slotClk
  /-- FETCH_ARRIVAL (R156) -/
  | fetchArrival (o : EndOrder)
  /-- INDEX_OVERDUE (R173) -/
  | indexOverdue
  /-- INDEX_LOST (R173) -/
  | indexLost
  /-- CLOCK_LOSS_EXPIRY (R174) -/
  | clockLossExpiry
  /-- HEAD_RETURN_RECORD (R162) -/
  | headReturnRecord (r : HeadRecord)
  /-- MONITOR_TEST_ABANDON (R178) -/
  | monitorTestAbandon
  /-- BYTE_RECEIVED (R3) -/
  | byteReceived (b : Byte)
  deriving DecidableEq, Repr

end Sys2Proof
end

