-- ==== Sys2Proof/Decode.lean ====
section
/-! DEFINITION. The host's reading of a command from a word of the opcode table. No row of
spec/opcode_table.json gives bits (98_reader: "n_rows_with_fixed": 0), so no word spells a command. -/

namespace Sys2Proof

/-- The command that a word of `nbits` bits spells by the table's bits: none, since the part has no
instruction words (00_scope, section 2) and no row of the table gives bits (log entry 2). -/
def decodeTableWord (_nbits _w : Nat) : Option Instr := none

end Sys2Proof
end

