-- ==== Sys2Proof/Machine/Bytes.lean ====
section
/-! DEFINITION. Bytes: the least-significant-byte-first coding of numbers (00_scope, Conventions), CRC-16, and
the cutting of a transfer at the 64-byte units of the store (R75). -/

namespace Sys2Proof.Machine

/-- A number below 256 as one byte. -/
def u8 (n : Nat) : List Byte := [BitVec.ofNat 8 n]

/-- A number below 65536 as two bytes, least significant first. -/
def u16 (n : Nat) : List Byte := [BitVec.ofNat 8 n, BitVec.ofNat 8 (n / 256)]

/-- A number below 2^32 as four bytes, least significant first. -/
def u32 (n : Nat) : List Byte :=
  [BitVec.ofNat 8 n, BitVec.ofNat 8 (n / 256), BitVec.ofNat 8 (n / 65536), BitVec.ofNat 8 (n / 16777216)]

/-- A flag, a mark or a truth value as one byte (R12). -/
def flagByte (b : Bool) : List Byte := [if b then 1 else 0]

/-- The byte at an offset of a payload, as a number. -/
def byteAt (p : List Byte) (i : Nat) : Nat := (p.getD i 0).toNat

/-- The two-byte field at an offset of a payload. -/
def halfAt (p : List Byte) (i : Nat) : Nat := byteAt p i + 256 * byteAt p (i + 1)

/-- The four-byte field at an offset of a payload. -/
def wordAt (p : List Byte) (i : Nat) : Nat := halfAt p i + 65536 * halfAt p (i + 2)

/-- One shift of CRC-16's register: x^16 + x^12 + x^5 + 1 with the bytes taken least significant bit first,
so that the register shifts towards its least significant bit (00_scope, Conventions; log entry 7). -/
def crcShift (c : Half) : Half := if c.getLsbD 0 then (c >>> 1) ^^^ 0x8408#16 else c >>> 1

/-- CRC-16 of one more byte. -/
def crcByte (c : Half) (b : Byte) : Half :=
  crcShift (crcShift (crcShift (crcShift (crcShift (crcShift (crcShift (crcShift (c ^^^ b.setWidth 16))))))))

/-- CRC-16 of more bytes, going on from register value `c`. -/
def crcFrom (c : Half) (bs : List Byte) : Half := bs.foldl crcByte c

/-- CRC-16 from its starting value FFFFh. -/
def crc16 (bs : List Byte) : Half := crcFrom 0xFFFF#16 bs

/-- The running sum of R30: the bytes' sum modulo 65536, going on from `acc`. -/
def sumFrom (acc : Half) (bs : List Byte) : Half := bs.foldl (fun a b => a + b.setWidth 16) acc

/-- A transfer to consecutive addresses cut into bursts at the 64-byte units of the store (R75). The first
argument bounds the number of bursts. -/
def cutUnits : Nat → Nat → List Byte → List (Nat × List Byte)
  | 0, _, _ => []
  | _ + 1, _, [] => []
  | f + 1, a, b :: bs =>
    let k := 64 - a % 64
    (a, (b :: bs).take k) :: cutUnits f (a + k) ((b :: bs).drop k)

/-- The bursts of a transfer of `bs` to address `a`. -/
def burstsOf (a : Nat) (bs : List Byte) : List (Nat × List Byte) := cutUnits bs.length a bs

/-- The two-byte values in a run of bytes, least significant byte first. -/
def halvesOf : List Byte → List Nat
  | lo :: hi :: r => (lo.toNat + 256 * hi.toNat) :: halvesOf r
  | _ => []

/-- The 32-bit words in a run of bytes, least significant byte first (R68). -/
def wordsOf : List Byte → List Word
  | a :: b :: c :: d :: r => (d ++ c ++ b ++ a : BitVec (8 + 8 + 8 + 8)) :: wordsOf r
  | _ => []

/-- A 32-bit word as four bytes, least significant first (R68). -/
def wordBytes (w : Word) : List Byte :=
  [w.extractLsb' 0 8, w.extractLsb' 8 8, w.extractLsb' 16 8, w.extractLsb' 24 8]

end Sys2Proof.Machine
end

