-- ==== Sys2Proof/Config.lean ====
section
/-! DEFINITION. The values the manual leaves open: constants with no body, so that no proof can rest on
any value of theirs. A byte of the store is applied to the state's draw number (`State.freeIndex`). -/

namespace Sys2Proof

/-- The byte that the DRAM gives at an address nothing has written since the last hardware reset: "the
DRAM's contents ... are not assured" (R85, R71). Arguments: the draw number and the address.
FREE VALUE, log entry 4. -/
opaque Config.unassuredByte : Nat → Nat → Byte

/-- What a merged refresh makes of a stored byte: "PSC then no longer vouches for the store" (section 4.5,
R65, R84). Arguments: the draw number, the address, the byte before the merge. It may be that byte.
FREE VALUE, log entry 5. -/
opaque Config.spoiledByte : Nat → Nat → Byte → Byte

/-- The 32 bits of a frame word: R149 gives its three fields and no bit positions. Arguments: the decision by its place
in R149's list (0 IDLE, 1 EXPOSE, 2 DWELL, 3 END), the sweep number, the step. FREE VALUE, log entry 26. -/
opaque Config.frameWord : Nat → Nat → Nat → Word

end Sys2Proof
end

