-- ==== Sys2Proof/Machine/State.lean ====
section
/-! DEFINITION. The state of the KD-640 as plain data, block by block in the order of the manual's chapters
(00_scope, section 3), the fault and refusal reasons, and the state after a hardware reset. -/

namespace Sys2Proof.Machine

/-! ## Named values -/

/-- The part's two states (R192). -/
inductive PartState where
  | unconfigured | ready
  deriving DecidableEq, Repr

/-- The states of a page entry (section 3.2), in the order of R12's coding. -/
inductive EntryState where
  | empty | receiving | complete | damaged | superseded
  deriving DecidableEq, Repr

/-- The states of a band record (R48), in the order of R12's coding. -/
inductive BandState where
  | expected | arriving | good | damaged | missing
  deriving DecidableEq, Repr

/-- The damage causes of a band (R48), in the order of R12's coding. -/
inductive DamageCause where
  | checksum | overrun | short | windowCount | windowBounds | trailing | missing | store
  deriving DecidableEq, Repr

/-- The mode of a busy reception context (section 2.2). -/
inductive ReceptionMode where
  | reception | repair
  deriving DecidableEq, Repr

/-- Why an entry was released (R59). -/
inductive ReleaseCause where
  | superseded | deferred | dropped
  deriving DecidableEq, Repr

/-- The states of a screen set (R86), in the order of R12's coding. -/
inductive SetState where
  | empty | loading | ready | bad | suspect
  deriving DecidableEq, Repr

/-- HOLD or RUN (R123). -/
inductive Policy where
  | hold | run
  deriving DecidableEq, Repr

/-- The states of a plate job (R123), in the order of R12's coding. -/
inductive JobState where
  | queued | arming | imaging | finished | failed | cancelled
  deriving DecidableEq, Repr

/-- How a job ended (R123), in the order of R12's coding. -/
inductive JobResult where
  | completed | stalled | headLost | clockLost | cancelled | fit | tile
  deriving DecidableEq, Repr

/-- The fit test that failed (R130), in the order of R12's coding. -/
inductive FitFault where
  | width | overlap | height | revolution
  deriving DecidableEq, Repr

/-- A finished plate's judgement (R186). -/
inductive Verdict where
  | good | marked | reject
  deriving DecidableEq, Repr

/-- A defect's severity (R182). -/
inductive Severity where
  | marked | reject
  deriving DecidableEq, Repr

/-- The kinds of defect (R180), in the order of R191's coding. -/
inductive DefectKind where
  | blankBand | decode | underrun | channel | drumSpeed | abort | overflow
  deriving DecidableEq, Repr

/-- The causes of an ABORT defect (R180), in the order of R191's coding. -/
inductive AbortCause where
  | cancelled | stalled | headLost | clockLost
  deriving DecidableEq, Repr

/-- The states of a ring slot (R147), in the order of R12's coding. -/
inductive RingState where
  | free | filling | ready | exposing
  deriving DecidableEq, Repr

/-- FULL or HALF (R145). -/
inductive Swath where
  | full | half
  deriving DecidableEq, Repr

/-- The decision of a revolution (R149). -/
inductive Decision where
  | idle | expose | dwell | endPlate
  deriving DecidableEq, Repr

/-- The states of a laser channel (R167). -/
inductive ChannelState where
  | ok | suspect | faulted
  deriving DecidableEq, Repr

/-- The clock a CLOCK_LOST note names (R175). -/
inductive ClockName where
  | slotClk | drumIndex
  deriving DecidableEq, Repr

/-- The phases of the raster unit (chapter 6). -/
inductive RuPhase where
  | idle | waiting | building | done
  deriving DecidableEq, Repr

/-! ## LP, the link port (chapter 1) -/

/-- The receive framer (section 1.2): hunting, or in a frame with the bytes kept so far, SYNC first. The frame
timer runs exactly in FRAME (R3, R5). -/
inductive Framer where
  | hunting
  | frame (bytes : List Byte)
  deriving DecidableEq, Repr

/-- A valid frame in the command queue (R8). -/
@[ext]
structure Frame where
  kind    : Byte
  tag     : Byte
  payload : List Byte
  deriving DecidableEq, Repr

/-- A finished reply (R11, R13): its payload begins with the result code. -/
@[ext]
structure Reply where
  kind    : Byte
  tag     : Byte
  payload : List Byte
  deriving DecidableEq, Repr

/-- Edition, section, page number and separation (R21). -/
@[ext]
structure PageKey where
  edition    : Nat
  section_   : Nat
  page       : Nat
  separation : Nat
  deriving DecidableEq, Repr

/-- The events of a PAGE.NOTE with the further fields of each (R37, R64). -/
inductive PageEvent where
  | closed | timedOut | repaired | repairEnded
  | superseded (byHandle byVersion refs : Nat)
  | released (cause : ReleaseCause) (blocks : Nat)
  | storeDamaged (marked : Nat)
  deriving DecidableEq, Repr

/-- A PAGE.NOTE (R37, R64). `listed` holds the indices of the first 8 bands that are not GOOD. -/
@[ext]
structure PageNote where
  event   : PageEvent
  handle  : Nat
  key     : PageKey
  version : Nat
  state   : EntryState
  damaged : Nat
  timeout : Bool
  listed  : List Nat
  deriving DecidableEq, Repr

/-- A PLATE.NOTE (R138). `bound` gives the handle and version bound to each slot. -/
inductive PlateNote where
  | started (id setIndex generation : Nat) (bound : List (Nat × Nat))
  | ended (id : Nat) (state : JobState) (result : Option JobResult) (fit : Option FitFault)
      (verdict : Option Verdict) (defects : Nat)
  deriving DecidableEq, Repr

/-- The events of a HEAD.NOTE with their fields (R175). -/
inductive HeadEvent where
  | channelFaulted (channel low high suspect reading job line : Nat)
  | clockLost (clock : ClockName) (job slotCount : Nat)
  | headState (plateLoaded drumReady wasLoaded wasReady : Bool) (carriage : Nat)
  deriving DecidableEq, Repr

/-- A report waiting in the report queue (R14). A HEAD.NOTE also carries the channel fault mask (R175). -/
inductive Report where
  | page (n : PageNote)
  | plate (n : PlateNote)
  | head (e : HeadEvent) (faultMask : Word)
  deriving DecidableEq, Repr

/-- LP's state (chapter 1, opening table). The watchdog runs or is stopped. Time itself is not state
(log entry 3). -/
@[ext]
structure Lp where
  framer          : Framer
  cmdQueue        : List Frame
  /-- The tags of the reserved places whose replies are not finished (R9, R13). -/
  replyReserved   : List Byte
  /-- The finished replies, oldest first (R13). -/
  replyFinished   : List Reply
  reports         : List Report
  /-- The frame being sent, if any (R15). -/
  tx              : Option (List Byte)
  linkErrors      : Nat
  overrun         : Bool
  reportsLost     : Bool
  watchdogPeriod  : Nat
  watchdogRunning : Bool
  unattended      : Bool
  linkLost        : Bool
  deriving DecidableEq, Repr

/-! ## Band coding (section 2.4) -/

/-- The fields of a window slice (section 2.4). -/
@[ext]
structure Slice where
  wx   : Nat
  y0   : Nat
  z    : Nat
  w    : Nat
  rows : Nat
  deriving DecidableEq, Repr

/-- Where a reading of a band's coding stands (R30): in line art, at the window count byte, in the seven
field bytes of a slice (those read so far), in its samples, ended correctly, or stopped at a fault. -/
inductive Scan where
  | lineArt (line pixels : Nat) (black : Bool) (long : Option Nat)
  | count
  | fields (slicesLeft : Nat) (got : List Byte)
  | samples (slicesLeft : Nat) (slice : Slice) (index : Nat)
  | done
  | fault (cause : DamageCause)
  deriving DecidableEq, Repr

/-! ## PRX, the page receiver (chapter 2) -/

/-- What a context holds of one band it covers (section 2.2). -/
@[ext]
structure BandProgress where
  band : Nat
  sum  : Half
  tail : Option Nat
  scan : Scan
  deriving DecidableEq, Repr

/-- A busy reception context (section 2.2). `bands` covers the bands not yet completed. -/
@[ext]
structure Context where
  handle  : Nat
  mode    : ReceptionMode
  running : Bool
  bands   : List BandProgress
  deriving DecidableEq, Repr

/-- The chunk in the chunk buffer (R29): whose it is, and the link-write bursts not yet asked for. -/
@[ext]
structure Chunk where
  handle : Nat
  band   : Nat
  last   : Bool
  bytes  : List Byte
  todo   : List (Nat × List Byte)
  deriving DecidableEq, Repr

/-- PRX's state: contexts 0..7, the chunk buffer, the reception timeout in seconds (R26, R29, R38). -/
@[ext]
structure Prx where
  contexts : List (Option Context)
  chunk    : Option Chunk
  timeout  : Option Nat
  deriving DecidableEq, Repr

/-! ## PDIR, the page directory (chapter 3) -/

/-- A band record in use (R48). Its index is its place in the entry's band list. -/
@[ext]
structure BandRecord where
  length   : Nat
  check    : Half
  received : Nat
  state    : BandState
  cause    : Option DamageCause
  head     : Option Nat
  deriving DecidableEq, Repr

/-- A page entry (R47). Its handle is its place in the directory, its band count the length of `bands`. -/
@[ext]
structure Entry where
  state        : EntryState
  key          : PageKey
  version      : Nat
  supersedes   : Option Nat
  width        : Nat
  stamp        : Nat
  bands        : List BandRecord
  refs         : Nat
  damaged      : Nat
  timeout      : Bool
  storeSuspect : Bool
  deriving DecidableEq, Repr

/-- PDIR's state: entries 0..63 and the open counter (R47, R49). The 8192 records of the pool (R48) are those
in the entries' band lists and, uncounted here, the free ones. -/
@[ext]
structure Pdir where
  entries : List Entry
  counter : Nat
  deriving DecidableEq, Repr

/-! ## PSC, the page store controller (chapter 4) -/

/-- The clients of the DRAM (R76). -/
inductive Client where
  | refresh | impFetch | ru | sctFill | prxWrite | sctTile
  deriving DecidableEq, Repr

/-- What an operation does (R75). -/
inductive Transfer where
  | refresh
  | read (addr len : Nat)
  | write (addr : Nat) (bytes : List Byte)
  deriving DecidableEq, Repr

/-- A request for the DRAM or the operation it becomes. `stale` marks one in flight whose client no longer
wants its completion (R78, R151). -/
@[ext]
structure Op where
  client : Client
  xfer   : Transfer
  stale  : Bool
  deriving DecidableEq, Repr

/-- The operation in flight. `ending` stands only within a completion whose clients ask before the end is
taken (`EndOrder.askFirst`), never between two steps. -/
inductive Flight where
  | idle
  | busy (op : Op)
  | ending
  deriving DecidableEq, Repr

/-- PSC's state (chapter 4, opening table). `links` lists the block link table's entries that do not hold
END, by rising block number (R69). `waiting` holds the waiting requests in arrival order, the next owner
among them (R77). The refresh timer runs exactly while it has an interval, in units of 0.1 µs (R80). -/
@[ext]
structure Psc where
  storeMiB        : Option Nat
  links           : List (Nat × Nat)
  poolHead        : Option Nat
  poolTail        : Option Nat
  freeCount       : Nat
  poolSize        : Nat
  inFlight        : Flight
  waiting         : List Op
  refreshInterval : Option Nat
  refreshMerged   : Bool
  deriving DecidableEq, Repr

/-! ## SCT, the screen table (chapter 5) -/

/-- A screen set record (R86). -/
@[ext]
structure ScreenSet where
  state      : SetState
  width      : Nat
  height     : Nat
  shift      : Nat
  curve      : List Nat
  minDot     : Nat
  maxDot     : Nat
  received   : Nat
  runCrc     : Half
  loadCrc    : Half
  failedCrc  : Half
  generation : Nat
  deriving DecidableEq, Repr

/-- The thresholds in the tile buffer (R90): the set they go to, and the bursts not yet asked for. -/
@[ext]
structure TileBuffer where
  setIndex : Nat
  bytes    : List Byte
  todo     : List (Nat × List Byte)
  deriving DecidableEq, Repr

/-- A tile cache fill (R96): its set and generation, its CRC register, the thresholds taken. -/
@[ext]
structure Fill where
  setIndex   : Nat
  generation : Nat
  crc        : Half
  taken      : Nat
  deriving DecidableEq, Repr

/-- SCT's state: sets 0..7, the tile cache from position 0 on, its tag, the tile buffer, the fill. -/
@[ext]
structure Sct where
  sets    : List ScreenSet
  cache   : List Nat
  tag     : Option (Nat × Nat)
  tileBuf : Option TileBuffer
  fill    : Option Fill
  deriving DecidableEq, Repr

/-! ## RU, the raster unit (chapter 6) -/

/-- A page slot of the job in hand (chapter 6, opening table). -/
@[ext]
structure RuSlot where
  number : Nat
  x0     : Nat
  handle : Nat
  width  : Nat
  bands  : Nat
  deriving DecidableEq, Repr

/-- The job in hand (chapter 6, opening table). -/
@[ext]
structure RuJob where
  wp       : Nat
  bp       : Nat
  top      : Nat
  setIndex : Nat
  slots    : List RuSlot
  deriving DecidableEq, Repr

/-- The decode context of the page slot in hand (chapter 6, opening table): the slot, its page band, the
band's declared length, the bytes read, the block that holds the next byte, and where the coding stands. -/
@[ext]
structure DecodeContext where
  slot   : RuSlot
  band   : Nat
  length : Nat
  read   : Nat
  block  : Option Nat
  scan   : Scan
  deriving DecidableEq, Repr

/-- RU's state (chapter 6, opening table). Column x of the band buffer is element x of `lineArt` and of
`screen`, one bit for each of the band's 64 lines. `rest` holds the page slots still to be placed, and
`write` the claimed slot being written (0 or 1) with the number of its next 16-word burst. -/
@[ext]
structure Ru where
  phase   : RuPhase
  job     : Option RuJob
  cursor  : Nat
  claimed : Option (Nat × Nat)
  lineArt : List (BitVec 64)
  screen  : List (BitVec 64)
  context : Option DecodeContext
  rest    : List RuSlot
  windows : List Slice
  write   : Option (Nat × Nat)
  deriving DecidableEq, Repr

/-! ## PSCH, the plate scheduler (chapter 7) -/

/-- A page slot of a job (R123): once bound, with the handle and version of its entry. -/
@[ext]
structure JobSlot where
  key   : PageKey
  x0    : Nat
  bound : Option (Nat × Nat)
  deriving DecidableEq, Repr

/-- A job record (R123). -/
@[ext]
structure Job where
  id              : Nat
  separation      : Nat
  setIndex        : Nat
  policy          : Policy
  top             : Nat
  bp              : Nat
  wp              : Nat
  slots           : List JobSlot
  state           : JobState
  generation      : Nat
  cancelRequested : Bool
  result          : Option JobResult
  fit             : Option FitFault
  verdict         : Option Verdict
  defects         : Nat
  deriving DecidableEq, Repr

/-- A defect record (R180). -/
@[ext]
structure Defect where
  kind      : DefectKind
  severity  : Severity
  firstLine : Nat
  lastLine  : Nat
  xRange    : Option (Nat × Nat)
  channel   : Option Nat
  slot      : Option Nat
  band      : Option Nat
  cause     : Option AbortCause
  count     : Nat
  deriving DecidableEq, Repr

/-- A record of the done history (R137): the job as it ended, and its defect list. -/
@[ext]
structure HistoryRecord where
  job     : Job
  defects : List Defect
  deriving DecidableEq, Repr

/-- PSCH's state (chapter 7, opening table): `armed` is the id of the job in ARMING or IMAGING. -/
@[ext]
structure Psch where
  queue   : List Job
  history : List HistoryRecord
  armed   : Option Nat
  fresh   : Bool
  deriving DecidableEq, Repr

/-! ## IMP, the imaging port (chapter 8) -/

/-- A revolution as IMP decided it (R149, R150), with the slot now running. `live` says that it was decided
for a job that is still IMAGING, `dark` that its remaining slots were darkened by a cut (R160). `driven` and
`lowChannel` give the channels it drives (R162): channel `lowChannel` exposes `firstLine`. -/
@[ext]
structure Revolution where
  decision   : Decision
  sweep      : Nat
  ringSlot   : Nat
  pass       : Nat
  firstLine  : Nat
  lastLine   : Nat
  driven     : Word
  lowChannel : Nat
  live       : Bool
  dark       : Bool
  slot       : Nat
  deriving DecidableEq, Repr

/-- The word on the head link (R148, R149). Its bytes there are `headLink`. -/
inductive HeadWord where
  | frame (decision : Decision) (sweep step : Nat)
  | raster (w : Word)
  deriving DecidableEq, Repr

/-- IMP's state (chapter 8, opening table). `prev` is the revolution before the one under way, which a head
return record describes (R162). `closing` is closing pending with the sweeps exposed kept at the cut. -/
@[ext]
structure Imp where
  nrev          : Nat
  lead          : Nat
  swath         : Swath
  half          : Nat
  dwellLimit    : Nat
  watermark     : Nat
  ring          : List RingState
  rev           : Revolution
  prev          : Revolution
  closing       : Option Nat
  exposed       : Nat
  firstExpose   : Bool
  dwellCount    : Nat
  steps         : Nat
  cancelPending : Bool
  endDecided    : Bool
  fifo          : List (Nat × Word)
  nextFetch     : Nat
  nextSend      : Nat
  refill        : Bool
  underrun      : Option (Nat × Nat)
  recordTaken   : Bool
  headWord      : HeadWord
  deriving DecidableEq, Repr

/-! ## HMON, the head monitor (chapter 9) -/

/-- What HMON holds of one channel (R165, R167). -/
@[ext]
structure Channel where
  low     : Nat
  high    : Nat
  enabled : Bool
  state   : ChannelState
  suspect : Nat
  deriving DecidableEq, Repr

/-- HMON's state (chapter 9, opening table). `nrev` is the Nrev that the revolution under way is measured against:
the value stored when it began, for a HEAD.SETUP's values "are used from the next DRUM_INDEX event on" (R146, R172,
R173). `clockLoss` is the clock-loss period in units of 10 µs, and the
timer runs exactly while it has one (R174). `test` is a pending MONITOR.TEST: its tag and the index events
counted. `highFailed` and `lowFailed` are the model's own: the comparators that have failed and never find a
value out of window (section 9.8, log entry 9). -/
@[ext]
structure Hmon where
  channels    : List Channel
  plateLoaded : Bool
  drumReady   : Bool
  nrev        : Nat
  slotCount   : Nat
  overdue     : Bool
  indexLost   : Bool
  tolerance   : Nat
  clockLoss   : Option Nat
  test        : Option (Byte × Nat)
  highFailed  : Word
  lowFailed   : Word
  deriving DecidableEq, Repr

/-! ## DREC, the defect recorder (chapter 10) -/

/-- The part of the plate that a page slot's page takes (R181): first and last x, first and last plate band. -/
@[ext]
structure SlotGeometry where
  firstX    : Nat
  lastX     : Nat
  firstBand : Nat
  lastBand  : Nat
  deriving DecidableEq, Repr

/-- DREC's state (chapter 10, opening table). -/
@[ext]
structure Drec where
  plateOpen   : Bool
  sweepHeight : Nat
  geometry    : List SlotGeometry
  list        : List Defect
  verdict     : Verdict
  mark        : Bool
  reject      : Bool
  deriving DecidableEq, Repr

/-! ## The machine -/

/-- The state of the part. `resetHeld` is RESET_N low for 1 µs or more (R196). `dram` lists the bytes of the
page store written since the last hardware reset, by rising address. `freeIndex` is the model's own: the
number of the draw of free values (log entries 4 and 5). `pending` is the queue of commands that are
waiting, first in, first out. -/
@[ext]
structure State where
  part      : PartState
  resetHeld : Bool
  lp        : Lp
  prx       : Prx
  pdir      : Pdir
  psc       : Psc
  dram      : List Host.Cell
  sct       : Sct
  ru        : Ru
  psch      : Psch
  imp       : Imp
  hmon      : Hmon
  drec      : Drec
  freeIndex : Nat
  pending   : List Instr
  deriving DecidableEq, Repr

/-- Why the machine stops with a fault: for no reason. No rule of the manual stops the part, so the type has no
constructor, and no step ends in a fault. -/
inductive Fault where
  deriving DecidableEq, Repr

/-- Why a command is refused. -/
inductive Refusal where
  /-- Raised by an arm of `exec` whose command has no meaning yet. Safe: nothing is claimed of it. -/
  | notModelled (mnemonic : String)
  deriving DecidableEq, Repr

/-! ## The state after a hardware reset -/

/-- LP after hardware reset (R19). -/
def Lp.reset : Lp where
  framer := .hunting
  cmdQueue := []
  replyReserved := []
  replyFinished := []
  reports := []
  tx := none
  linkErrors := 0
  overrun := false
  reportsLost := false
  watchdogPeriod := 0
  watchdogRunning := false
  unattended := false
  linkLost := false

/-- PRX after hardware reset (R26). -/
def Prx.reset : Prx where
  contexts := List.replicate 8 none
  chunk := none
  timeout := none

/-- An EMPTY entry: "the directory reports nothing of it but its state" (R47). -/
def Entry.empty : Entry where
  state := .empty
  key := ⟨0, 0, 0, 0⟩
  version := 0
  supersedes := none
  width := 0
  stamp := 0
  bands := []
  refs := 0
  damaged := 0
  timeout := false
  storeSuspect := false

/-- PDIR after hardware reset (R47, R49). -/
def Pdir.reset : Pdir where
  entries := List.replicate 64 Entry.empty
  counter := 0

/-- PSC after hardware reset (R85). -/
def Psc.reset : Psc where
  storeMiB := none
  links := []
  poolHead := none
  poolTail := none
  freeCount := 0
  poolSize := 0
  inFlight := .idle
  waiting := []
  refreshInterval := none
  refreshMerged := false

/-- An EMPTY set of the given generation: 0 in every other field (R86). -/
def ScreenSet.empty (generation : Nat) : ScreenSet where
  state := .empty
  width := 0
  height := 0
  shift := 0
  curve := List.replicate 17 0
  minDot := 0
  maxDot := 0
  received := 0
  runCrc := 0
  loadCrc := 0
  failedCrc := 0
  generation := generation

/-- SCT after hardware reset (R86, R100). The tile cache is listed up to the highest position any fill has
written. -/
def Sct.reset : Sct where
  sets := List.replicate 8 (ScreenSet.empty 0)
  cache := []
  tag := none
  tileBuf := none
  fill := none

/-- RU after hardware reset (R121). The contents of its buffers are not assured and not read before they are
written: they are listed empty (log entry 6). R121 states no value for the job in hand, the decode context, the slots
still to be placed and the place in the writing: there is none, as in IDLE (log entry 23). -/
def Ru.reset : Ru where
  phase := .idle
  job := none
  cursor := 0
  claimed := none
  lineArt := []
  screen := []
  context := none
  rest := []
  windows := []
  write := none

/-- PSCH after hardware reset (R123, R144). -/
def Psch.reset : Psch where
  queue := []
  history := []
  armed := none
  fresh := false

/-- An IDLE revolution that exposes nothing (R154, R164). -/
def Revolution.idle : Revolution where
  decision := .idle
  sweep := 0
  ringSlot := 0
  pass := 0
  firstLine := 0
  lastLine := 0
  driven := 0
  lowChannel := 0
  live := false
  dark := false
  slot := 0

/-- IMP after hardware reset (R146, R164). -/
def Imp.reset : Imp where
  nrev := 1024
  lead := 1
  swath := .full
  half := 0
  dwellLimit := 4
  watermark := 512
  ring := List.replicate 8 .free
  rev := Revolution.idle
  prev := Revolution.idle
  closing := none
  exposed := 0
  firstExpose := false
  dwellCount := 0
  steps := 0
  cancelPending := false
  endDecided := false
  fifo := []
  nextFetch := 0
  nextSend := 0
  refill := false
  underrun := none
  recordTaken := false
  headWord := .raster 0

/-- A channel after hardware reset: window 0..1023, enable 0, OK (R179). -/
def Channel.reset : Channel where
  low := 0
  high := 1023
  enabled := false
  state := .ok
  suspect := 0

/-- HMON after hardware reset (R179, and Nrev as R146 gives). -/
def Hmon.reset : Hmon where
  channels := List.replicate 32 Channel.reset
  plateLoaded := false
  drumReady := false
  nrev := 1024
  slotCount := 0
  overdue := false
  indexLost := false
  tolerance := 0
  clockLoss := none
  test := none
  highFailed := 0
  lowFailed := 0

/-- DREC after hardware reset (R181, R190). -/
def Drec.reset : Drec where
  plateOpen := false
  sweepHeight := 32
  geometry := []
  list := []
  verdict := .good
  mark := false
  reject := false

/-- The part as it runs when RESET_N has risen after a hardware reset (R196), with nothing pending. -/
def State.reset : State where
  part := .unconfigured
  resetHeld := false
  lp := Lp.reset
  prx := Prx.reset
  pdir := Pdir.reset
  psc := Psc.reset
  dram := []
  sct := Sct.reset
  ru := Ru.reset
  psch := Psch.reset
  imp := Imp.reset
  hmon := Hmon.reset
  drec := Drec.reset
  freeIndex := 0
  pending := []

end Sys2Proof.Machine
end

