-- ==== Sys2Proof/Machine/Ops.lean ====
section
/-! DEFINITION. The named operations every block's meaning goes through: sparse tables, the bytes of the page
store, the DRAM arbiter (chapter 4), the reply and report queues (chapter 1), and the tables of entries,
contexts, sets and ring slots. -/

namespace Sys2Proof.Machine

/-! ## Sparse tables, by rising key -/

/-- What a sparse table lists for a key. -/
def sparseGet {α : Type} (k : Nat) : List (Nat × α) → Option α
  | [] => none
  | (a, v) :: r => if a = k then some v else sparseGet k r

/-- The table with `v` listed for `k`. -/
def sparseSet {α : Type} (k : Nat) (v : α) : List (Nat × α) → List (Nat × α)
  | [] => [(k, v)]
  | (a, w) :: r =>
    if k < a then (k, v) :: (a, w) :: r
    else if k = a then (k, v) :: r
    else (a, w) :: sparseSet k v r

/-- The table with nothing listed for `k`. -/
def sparseErase {α : Type} (k : Nat) (m : List (Nat × α)) : List (Nat × α) := m.filter (fun c => c.1 != k)

/-- The canonical form of a sparse table: its keys strictly rise. -/
def sparseWf {α : Type} : List (Nat × α) → Bool
  | [] => true
  | [_] => true
  | (a, _) :: (b, w) :: r => decide (a < b) && sparseWf ((b, w) :: r)

/-- The canonical form of the page store's bytes: addresses strictly rise. An address that nothing has written
reads as no byte of its own but as a free value, so no listed byte equals it (log entry 4). -/
abbrev Memory.wf (m : List Host.Cell) : Bool := sparseWf m

/-! ## The bytes of the page store -/

/-- The byte a read gives at an address: the byte last written there, or, where nothing has been written since
the last hardware reset, a free value (R85; log entry 4). -/
def readByte (s : State) (a : Nat) : Byte :=
  match sparseGet a s.dram with
  | some b => b
  | none => Config.unassuredByte s.freeIndex a

/-- The bytes of a read burst (R75). -/
def readBytes (s : State) (a n : Nat) : List Byte := (List.range n).map (fun i => readByte s (a + i))

/-- The store with bytes written from address `a` on. -/
def storeBytes : Nat → List Byte → List Host.Cell → List Host.Cell
  | _, [], m => m
  | a, b :: bs, m => storeBytes (a + 1) bs (sparseSet a b m)

/-- The state after a write burst: its bytes are in the DRAM from its completion on (R75). -/
def writeBytes (a : Nat) (bs : List Byte) (s : State) : State := { s with dram := storeBytes a bs s.dram }

/-- A merged refresh's effect on the stored bytes: they are no longer assured (R65, R84; log entry 5). -/
def spoilStore (s : State) : State :=
  { s with
    dram := s.dram.map (fun c => (c.1, Config.spoiledByte s.freeIndex c.1 c.2))
    freeIndex := s.freeIndex + 1 }

/-- The number of bytes in a block (R67). -/
def blockBytes : Nat := 16384

/-- The DRAM address of a block's first byte (R67). A chain that holds the byte has a block for it, so "no block"
does not arise in a run; it stands for the address past the largest store. -/
def blockAddr : Option Nat → Nat
  | some b => b * blockBytes
  | none => 65536 * blockBytes

/-- The DRAM address of tile area t (R68). -/
def tileAddr (t : Nat) : Nat := t * 131072

/-- The DRAM address of ring slot k (R68). -/
def ringAddr (k : Nat) : Nat := 1048576 + k * 131072

/-! ## The DRAM arbiter (R76 to R79) -/

/-- The rank of a client's class (R76). -/
def Client.rank : Client → Nat
  | .refresh => 1
  | .impFetch => 2
  | .ru => 3
  | .sctFill => 3
  | .prxWrite => 4
  | .sctTile => 4

/-- The oldest request of the highest-ranked class among waiting requests in arrival order (R77). -/
def bestOf : List Op → Option Op
  | [] => none
  | op :: r =>
    match bestOf r with
    | none => some op
    | some o => if o.client.rank < op.client.rank then some o else some op

/-- The next owner of the DRAM: "always the waiting request of the highest-ranked class, and within that class
the oldest" (R77). -/
def Psc.nextOwner (p : Psc) : Option Op := bestOf p.waiting

/-- A request arrives at the arbiter (R77): it begins at once when no operation is in flight, and otherwise
waits. -/
def Psc.request (p : Psc) (op : Op) : Psc :=
  match p.inFlight with
  | .idle => { p with inFlight := .busy op }
  | _ => { p with waiting := p.waiting ++ [op] }

/-- The operation in flight ends and the next owner's begins (R77). -/
def Psc.endOperation (p : Psc) : Psc :=
  match p.nextOwner with
  | none => { p with inFlight := .idle }
  | some op => { p with inFlight := .busy op, waiting := p.waiting.erase op }

/-- A client withdraws its waiting request (R78). -/
def Psc.withdraw (p : Psc) (c : Client) : Psc :=
  { p with waiting := p.waiting.filter (fun o => o.client != c) }

/-- The burst of a client in flight, if it has one, will complete at a client that no longer wants it (R78). -/
def Psc.disown (p : Psc) (c : Client) : Psc :=
  match p.inFlight with
  | .busy op => if op.client = c then { p with inFlight := .busy { op with stale := true } } else p
  | _ => p

/-- Whether a client has a request waiting or an operation in flight: it has at most one (R76). -/
def Psc.engaged (p : Psc) (c : Client) : Bool :=
  p.waiting.any (fun o => o.client = c) ||
    match p.inFlight with
    | .busy op => op.client = c
    | _ => false

/-- A client asks for an operation. -/
def ask (c : Client) (x : Transfer) (s : State) : State :=
  { s with psc := s.psc.request ⟨c, x, false⟩ }

/-- A client withdraws its waiting request and disowns its burst in flight (R78). -/
def dropRequests (c : Client) (s : State) : State :=
  { s with psc := (s.psc.withdraw c).disown c }

/-- The operation in flight ends (R77). -/
def endOperation (s : State) : State := { s with psc := s.psc.endOperation }

/-- A completion (R75, R77): the end of the operation in flight and the client's own handling of it, in the
order that the step names (log entry 8). -/
def completion (o : EndOrder) (client : State → State) (s : State) : State :=
  match o with
  | .endFirst => client (endOperation s)
  | .askFirst => endOperation (client { s with psc := { s.psc with inFlight := .ending } })

/-! ## The report queue (R14) -/

/-- A block queues a report: lost, with REPORTS_LOST set, when 16 wait. -/
def Lp.queueReport (l : Lp) (r : Report) : Lp :=
  if l.reports.length < 16 then { l with reports := l.reports ++ [r] } else { l with reportsLost := true }

/-- A block queues a report (R14). -/
def report (r : Report) (s : State) : State := { s with lp := s.lp.queueReport r }

/-! ## The command and reply queues (R8 to R13) -/

/-- The places of the reply queue in use: reserved and finished together (R13). -/
def Lp.placesUsed (l : Lp) : Nat := l.replyReserved.length + l.replyFinished.length

/-- The conditions of R9 for taking the command at the head of the command queue, its presence apart. -/
def canTake (s : State) : Bool :=
  !s.resetHeld && s.prx.chunk.isNone && s.sct.tileBuf.isNone && decide (s.lp.placesUsed < 8)

/-- LP takes the command at the head of the command queue, if it may (R9) and the command is one that `p`
names: the frame, and the state with the frame removed. Its reply place is filled or reserved by the meaning
within the same step. -/
def takeCommand (p : Frame → Bool) (s : State) : Option (Frame × State) :=
  if canTake s then
    match s.lp.cmdQueue with
    | f :: r => if p f then some (f, { s with lp := { s.lp with cmdQueue := r } }) else none
    | [] => none
  else none

/-- The KIND of the reply to a command (R2). -/
def replyKind (kind : Byte) : Byte := kind + 0x80#8

/-- The reply to a command with its result code and fields is finished (R11, R13). -/
def answer (f : Frame) (code : Byte) (fields : List Byte) (s : State) : State :=
  { s with lp := { s.lp with
      replyFinished := s.lp.replyFinished ++ [⟨replyKind f.kind, f.tag, code :: fields⟩] } }

/-- The result codes (R11). -/
def rOk : Byte := 0x00
def rBusy : Byte := 0x01
def rInUse : Byte := 0x02
def rNoRoom : Byte := 0x03
def rStoreFull : Byte := 0x04
def rBadField : Byte := 0x05
def rNotOpen : Byte := 0x06
def rOutOfOrder : Byte := 0x07
def rStaleVersion : Byte := 0x08
def rVersionGap : Byte := 0x09
def rNotReady : Byte := 0x0A
def rUnknownKind : Byte := 0x0B
def rDamagedRef : Byte := 0x0C

/-- The kinds of command of R2. -/
def isCommandKind (k : Byte) : Bool :=
  [0x01, 0x02, 0x03, 0x10, 0x11, 0x12, 0x13, 0x14, 0x20, 0x21, 0x22, 0x23, 0x30, 0x31, 0x32, 0x40, 0x41,
    0x42].contains k.toNat

/-- A frame that LP hands to the owner of kind `k` (R2, R10): its tag is not 0. -/
def isCommand (k : Byte) (f : Frame) : Bool := f.tag != 0 && f.kind == k

/-- LP's taking of a command that `p` names, answered by `run` (R9). When no such command can be taken now,
the step does not come about and the state is unchanged (log entry 1). -/
def serve (p : Frame → Bool) (run : Frame → State → State) (s : State) :
    Host.Outcome State Fault Refusal :=
  match takeCommand p s with
  | some (f, t) => .next (run f t)
  | none => .next s

/-- A command that is answered NOT_READY in UNCONFIGURED (R192) and otherwise handled by its owner. -/
def whenReady (run : Frame → State → State) (f : Frame) (s : State) : State :=
  match s.part with
  | .unconfigured => answer f rNotReady [] s
  | .ready => run f s

/-! ## Tables -/

/-- The entry of a handle (R47). -/
def entry (s : State) (h : Nat) : Entry := s.pdir.entries.getD h Entry.empty

/-- PDIR writes an entry. -/
def setEntry (h : Nat) (e : Entry) (s : State) : State :=
  { s with pdir := { s.pdir with entries := s.pdir.entries.set h e } }

/-- The band record of an entry's band, if it has one. -/
def bandOf (s : State) (h b : Nat) : Option BandRecord := (entry s h).bands[b]?

/-- PDIR writes a band record. -/
def setBand (h b : Nat) (r : BandRecord) (s : State) : State :=
  setEntry h { entry s h with bands := (entry s h).bands.set b r } s

/-- The context of an index (R26). -/
def contextAt (s : State) (i : Nat) : Option Context := s.prx.contexts.getD i none

/-- PRX writes a context. -/
def setContext (i : Nat) (c : Option Context) (s : State) : State :=
  { s with prx := { s.prx with contexts := s.prx.contexts.set i c } }

/-- The index of the busy context that serves an entry, if one does (R26). -/
def contextOf (s : State) (h : Nat) : Option Nat :=
  s.prx.contexts.findIdx? (fun c => match c with | some x => x.handle == h | none => false)

/-- The lowest-numbered free context (R25, R41). -/
def freeContext (s : State) : Option Nat := s.prx.contexts.findIdx? Option.isNone

/-- The free band records of the pool of 8192 (R48). -/
def freeRecords (s : State) : Nat := 8192 - (s.pdir.entries.map (fun e => e.bands.length)).sum

/-- A screen set record (R86). -/
def screenSet (s : State) (t : Nat) : ScreenSet := s.sct.sets.getD t (ScreenSet.empty 0)

/-- SCT writes a screen set record. -/
def setScreenSet (t : Nat) (x : ScreenSet) (s : State) : State :=
  { s with sct := { s.sct with sets := s.sct.sets.set t x } }

/-- The state of a ring slot (R147). -/
def ringState (s : State) (k : Nat) : RingState := s.imp.ring.getD k .free

/-- IMP changes the state of a ring slot. -/
def setRing (k : Nat) (r : RingState) (s : State) : State :=
  { s with imp := { s.imp with ring := s.imp.ring.set k r } }

/-- The job in the plate queue with an id (R123). -/
def jobOf (s : State) (id : Nat) : Option Job := s.psch.queue.find? (fun j => j.id == id)

/-- PSCH rewrites the job of an id in the plate queue. -/
def updateJob (id : Nat) (f : Job → Job) (s : State) : State :=
  { s with psch := { s.psch with queue := s.psch.queue.map (fun j => if j.id == id then f j else j) } }

/-- The armed job (R126). -/
def armedJob (s : State) : Option Job := s.psch.armed.bind (jobOf s)

/-- The job in IMAGING, if one is (R126). -/
def imagingJob (s : State) : Option Job := (armedJob s).filter (fun j => j.state == .imaging)

/-- The jobs in the plate queue that name a screen set (R93, R99). -/
def jobsNaming (s : State) (t : Nat) : Nat := s.psch.queue.countP (fun j => j.setIndex == t)

end Sys2Proof.Machine
end

