-- ==== Sys2Proof/Machine/Flags.lean ====
section
/-! DEFINITION. Flags, masks and level lines: the link flags (R16), the channel fault and enable masks (R167,
R170, R177), ATTN (R14), and the verdict lines (R189). -/

namespace Sys2Proof.Machine

/-- ATTN "is high while the report queue holds at least one report and low while it is empty" (R14). -/
def attn (s : State) : Bool := !s.lp.reports.isEmpty

/-- The flags byte of STATUS (R199): COMMAND_OVERRUN in bit 0, REPORTS_LOST in bit 1, REFRESH_MERGED in bit 2. -/
def statusFlags (s : State) : Nat :=
  (if s.lp.overrun then 1 else 0) + (if s.lp.reportsLost then 2 else 0) + (if s.psc.refreshMerged then 4 else 0)

/-- A channel mask with bit k the k-th truth value, k = 0..31 (R12). -/
def maskOf (bits : List Bool) : Word :=
  bits.reverse.foldl (fun (acc : Word) b => (acc <<< 1) ||| (if b then 1#32 else 0#32)) 0#32

/-- The channel fault mask (R167). -/
def faultMask (s : State) : Word := maskOf (s.hmon.channels.map (fun c => c.state == .faulted))

/-- The channels enabled (R165). -/
def enableMask (s : State) : Word := maskOf (s.hmon.channels.map (fun c => c.enabled))

/-- The link error count after one more discard: "At 65535 it stays at 65535" (R7). -/
def countLinkError (n : Nat) : Nat := if n < 65535 then n + 1 else n

/-- A count of slots after one more, "held at 131071" (R172). -/
def countSlot (n : Nat) : Nat := if n < 131071 then n + 1 else n

/-- A merge count after one more defect, which "stays at 65535" (R184). -/
def countMerged (n : Nat) : Nat := if n < 65535 then n + 1 else n

/-- The worse of two severities (R184). -/
def Severity.worse : Severity → Severity → Severity
  | .reject, _ => .reject
  | .marked, t => t

/-- The worse of a verdict and a severity: GOOD below MARKED below REJECT (R186). -/
def Verdict.raise : Verdict → Severity → Verdict
  | .reject, _ => .reject
  | _, .reject => .reject
  | _, .marked => .marked

/-- The rank of a verdict (R186). -/
def Verdict.rank : Verdict → Nat
  | .good => 0
  | .marked => 1
  | .reject => 2

/-- The verdict lines as DREC drives them when it fixes a verdict (R189). -/
def driveVerdict (s : State) : State :=
  { s with drec := { s.drec with
      mark := s.drec.verdict == .marked
      reject := s.drec.verdict == .reject } }

end Sys2Proof.Machine
end

