-- ==== Sys2Proof/Machine/Coding.lean ====
section
/-! DEFINITION. The coding of replies and reports into payload bytes (R12, R191), and of a message into a frame
(R1). Where a rule gives a field no range or a list no count, log entries 10 and 11 say what is sent. -/

namespace Sys2Proof.Machine

/-! ## Named values, coded 1, 2, 3, ... in the order of R12's table, 0 for none -/

/-- R12, entry state. -/
def EntryState.code : EntryState → Nat
  | .empty => 1 | .receiving => 2 | .complete => 3 | .damaged => 4 | .superseded => 5

/-- R12, band state. -/
def BandState.code : BandState → Nat
  | .expected => 1 | .arriving => 2 | .good => 3 | .damaged => 4 | .missing => 5

/-- R12, damage cause. -/
def DamageCause.code : DamageCause → Nat
  | .checksum => 1 | .overrun => 2 | .short => 3 | .windowCount => 4
  | .windowBounds => 5 | .trailing => 6 | .missing => 7 | .store => 8

/-- R12, reception held. -/
def ReceptionMode.code : ReceptionMode → Nat
  | .reception => 1 | .repair => 2

/-- R12, PAGE.NOTE event. -/
def PageEvent.code : PageEvent → Nat
  | .closed => 1 | .timedOut => 2 | .repaired => 3 | .repairEnded => 4
  | .superseded _ _ _ => 5 | .released _ _ => 6 | .storeDamaged _ => 7

/-- R12, release cause. -/
def ReleaseCause.code : ReleaseCause → Nat
  | .superseded => 1 | .deferred => 2 | .dropped => 3

/-- R12, screen set state. -/
def SetState.code : SetState → Nat
  | .empty => 1 | .loading => 2 | .ready => 3 | .bad => 4 | .suspect => 5

/-- R12, job state. -/
def JobState.code : JobState → Nat
  | .queued => 1 | .arming => 2 | .imaging => 3 | .finished => 4 | .failed => 5 | .cancelled => 6

/-- R12, job result. -/
def JobResult.code : JobResult → Nat
  | .completed => 1 | .stalled => 2 | .headLost => 3 | .clockLost => 4 | .cancelled => 5 | .fit => 6 | .tile => 7

/-- R12, fit fault. -/
def FitFault.code : FitFault → Nat
  | .width => 1 | .overlap => 2 | .height => 3 | .revolution => 4

/-- R12, ring slot state. -/
def RingState.code : RingState → Nat
  | .free => 1 | .filling => 2 | .ready => 3 | .exposing => 4

/-- R12, clock lost. -/
def ClockName.code : ClockName → Nat
  | .slotClk => 1 | .drumIndex => 2

/-- R124: "0 HOLD, 1 RUN". -/
def Policy.code : Policy → Nat
  | .hold => 0 | .run => 1

/-- R191: 1 MARKED, 2 REJECT, "with 0 for GOOD". -/
def Verdict.code : Verdict → Nat
  | .good => 0 | .marked => 1 | .reject => 2

/-- R191: 1 MARKED, 2 REJECT. -/
def Severity.code : Severity → Nat
  | .marked => 1 | .reject => 2

/-- R191, kind. -/
def DefectKind.code : DefectKind → Nat
  | .blankBand => 1 | .decode => 2 | .underrun => 3 | .channel => 4 | .drumSpeed => 5 | .abort => 6 | .overflow => 7

/-- R191, abort cause. -/
def AbortCause.code : AbortCause → Nat
  | .cancelled => 1 | .stalled => 2 | .headLost => 3 | .clockLost => 4

/-- R199: 0 UNCONFIGURED, 1 READY. -/
def PartState.code : PartState → Nat
  | .unconfigured => 0 | .ready => 1

/-- A named value or none: "with 0 for none or absent" (R12). -/
def codeOr0 {α : Type} (code : α → Nat) : Option α → Nat
  | none => 0
  | some v => code v

/-- A page key in four bytes (R12). -/
def PageKey.bytes (k : PageKey) : List Byte := u8 k.edition ++ u8 k.section_ ++ u8 k.page ++ u8 k.separation

/-- A channel mask in four bytes (R12). -/
def maskBytes (m : Word) : List Byte := u32 m.toNat

/-- A list after the count that gives its length (R12). -/
def listBytes {α : Type} (enc : α → List Byte) (l : List α) : List Byte := u8 l.length ++ l.flatMap enc

/-! ## Reports -/

/-- The handle and version of the superseding entry and the reference count of the superseded one (R64): 0 in the
note of another event. -/
def PageEvent.supersededBytes : PageEvent → List Byte
  | .superseded h v r => u8 h ++ u16 v ++ u8 r
  | .closed => u8 0 ++ u16 0 ++ u8 0
  | .timedOut => u8 0 ++ u16 0 ++ u8 0
  | .repaired => u8 0 ++ u16 0 ++ u8 0
  | .repairEnded => u8 0 ++ u16 0 ++ u8 0
  | .released _ _ => u8 0 ++ u16 0 ++ u8 0
  | .storeDamaged _ => u8 0 ++ u16 0 ++ u8 0

/-- The cause of a release and the blocks it returned (R64): 0 in the note of another event. -/
def PageEvent.releasedBytes : PageEvent → List Byte
  | .released c n => u8 c.code ++ u16 n
  | .closed => u8 0 ++ u16 0
  | .timedOut => u8 0 ++ u16 0
  | .repaired => u8 0 ++ u16 0
  | .repairEnded => u8 0 ++ u16 0
  | .superseded _ _ _ => u8 0 ++ u16 0
  | .storeDamaged _ => u8 0 ++ u16 0

/-- The number of bands marked by store damage (R64): 0 in the note of another event. -/
def PageEvent.damagedBytes : PageEvent → List Byte
  | .storeDamaged n => u16 n
  | .closed => u16 0
  | .timedOut => u16 0
  | .repaired => u16 0
  | .repairEnded => u16 0
  | .superseded _ _ _ => u16 0
  | .released _ _ => u16 0

/-- The further fields of a PAGE.NOTE, in the order in which R64 lists the events. "A field that the owning rule
gives only when a condition holds is sent as 0 when the condition fails, so that it keeps its place" (R12). -/
def PageEvent.bytes (e : PageEvent) : List Byte := e.supersededBytes ++ e.releasedBytes ++ e.damagedBytes

/-- A PAGE.NOTE's payload (R37, R64). -/
def PageNote.payload (n : PageNote) : List Byte :=
  u8 n.event.code ++ u8 n.handle ++ n.key.bytes ++ u16 n.version ++ u8 n.state.code ++ u16 n.damaged ++
    flagByte n.timeout ++ listBytes u16 n.listed ++ n.event.bytes

/-- The set index, generation and bound slots of a STARTED note (R138). -/
def startedBytes (setIndex generation : Nat) (bound : List (Nat × Nat)) : List Byte :=
  u8 setIndex ++ u16 generation ++ listBytes (fun b => u8 b.1 ++ u16 b.2) bound

/-- A PLATE.NOTE's payload (R138): the event, the job id, the fields of STARTED and those of ENDED. The fields of the
event that the note does not carry are 0, and the list of slots is empty (R12, log entry 11). -/
def PlateNote.payload : PlateNote → List Byte
  | .started id t g bound => u8 1 ++ u16 id ++ startedBytes t g bound ++ [0, 0, 0, 0, 0]
  | .ended id st r f v d =>
    u8 2 ++ u16 id ++ startedBytes 0 0 [] ++ u8 st.code ++ u8 (codeOr0 JobResult.code r) ++
      u8 (codeOr0 FitFault.code f) ++ u8 (codeOr0 Verdict.code v) ++ u8 d

/-- The fields of a CHANNEL_FAULTED note (R175). -/
def channelBytes (k lo hi sus rd job line : Nat) : List Byte :=
  u8 k ++ u16 lo ++ u16 hi ++ u16 sus ++ u16 rd ++ u16 job ++ u16 line

/-- The fields of a CLOCK_LOST note (R175): the clock's code, the job id and the slot count. -/
def clockBytes (clock job n : Nat) : List Byte := u8 clock ++ u16 job ++ u32 n

/-- The fields of a HEAD_STATE note (R175). -/
def headStateBytes (pl dr wl wr : Bool) (n : Nat) : List Byte :=
  flagByte pl ++ flagByte dr ++ flagByte wl ++ flagByte wr ++ u16 n

/-- A HEAD.NOTE's event and the fields of the three events in R175's order, the fault mask apart. Those of the events
that the note does not carry are 0 (R12). -/
def HeadEvent.bytes : HeadEvent → List Byte
  | .channelFaulted k lo hi sus rd job line =>
    u8 1 ++ channelBytes k lo hi sus rd job line ++ clockBytes 0 0 0 ++ headStateBytes false false false false 0
  | .clockLost c job n =>
    u8 2 ++ channelBytes 0 0 0 0 0 0 0 ++ clockBytes c.code job n ++ headStateBytes false false false false 0
  | .headState pl dr wl wr n =>
    u8 3 ++ channelBytes 0 0 0 0 0 0 0 ++ clockBytes 0 0 0 ++ headStateBytes pl dr wl wr n

/-- The kind of a report (R2). -/
def Report.kind : Report → Byte
  | .page _ => 0xC0
  | .plate _ => 0xC1
  | .head _ _ => 0xC2

/-- A report's payload. -/
def Report.payload : Report → List Byte
  | .page n => n.payload
  | .plate n => n.payload
  | .head e m => e.bytes ++ maskBytes m

/-! ## Frames -/

/-- A message as one frame (R1): SYNC, LENGTH, KIND, TAG, payload, and the CRC of all but SYNC. -/
def frameBytes (kind tag : Byte) (payload : List Byte) : List Byte :=
  let body := u16 payload.length ++ [kind, tag] ++ payload
  (0xA7 : Byte) :: (body ++ u16 (crc16 body).toNat)

/-- A finished reply as a frame (R1, R11). -/
def Reply.frame (r : Reply) : List Byte := frameBytes r.kind r.tag r.payload

/-- A report as a frame: "a report always carries TAG 0" (R2). -/
def Report.frame (r : Report) : List Byte := frameBytes r.kind 0 r.payload

/-! ## Records in replies -/

/-- A defect record in 18 bytes (R191). -/
def Defect.bytes (d : Defect) : List Byte :=
  let presence := (if d.xRange.isSome then 1 else 0) + (if d.channel.isSome then 2 else 0) +
    (if d.slot.isSome then 4 else 0) + (if d.band.isSome then 8 else 0) + (if d.cause.isSome then 16 else 0)
  u8 d.kind.code ++ u8 d.severity.code ++ u8 presence ++ u16 d.firstLine ++ u16 d.lastLine ++
    u16 (d.xRange.getD (0, 0)).1 ++ u16 (d.xRange.getD (0, 0)).2 ++ u8 (d.channel.getD 0) ++ u8 (d.slot.getD 0) ++
    u16 (d.band.getD 0) ++ u8 (codeOr0 AbortCause.code d.cause) ++ u16 d.count

/-- A page slot of a job record: its key and x0, and the handle and version bound to it, 0 before (R12, R123). -/
def JobSlot.bytes (t : JobSlot) : List Byte :=
  t.key.bytes ++ u16 t.x0 ++ u8 (t.bound.getD (0, 0)).1 ++ u16 (t.bound.getD (0, 0)).2

/-- Every field of a job record, in the order of R123's table. Its defect count is entered at the job's end (R188) and
is 0 until then (log entry 28). -/
def Job.bytes (j : Job) : List Byte :=
  u16 j.id ++ u8 j.separation ++ u8 j.setIndex ++ u8 j.policy.code ++ u16 j.top ++ u16 j.bp ++ u16 j.wp ++
    listBytes JobSlot.bytes j.slots ++ u8 j.state.code ++ u16 j.generation ++ flagByte j.cancelRequested ++
    u8 (codeOr0 JobResult.code j.result) ++ u8 (codeOr0 FitFault.code j.fit) ++
    u8 (codeOr0 Verdict.code j.verdict) ++ u8 j.defects

end Sys2Proof.Machine
end

