-- ==== Sys2Proof/Machine/BandCoding.lean ====
section
/-! DEFINITION. The band coding (section 2.4) read byte by byte: one reader shared by PRX's structural check
(R30 to R33) and by RU's decoding (R107 to R109). -/

namespace Sys2Proof.Machine

/-- Where the reading of a band begins: "byte 0 of the band, in line 0 of the line art, in white, with no
pixels" (R107). -/
def Scan.start : Scan := .lineArt 0 0 false none

/-- What one byte of a band gives its reader. -/
inductive ScanEvent where
  | none
  /-- A run of `length` pixels from page x `start` on line `line`, black or white. -/
  | run (line start length : Nat) (black : Bool)
  /-- The fields of a slice have been read and found sound. -/
  | slice (sl : Slice)
  /-- The sample in row `row` and column `col` of a slice. -/
  | sample (sl : Slice) (row col : Nat) (value : Byte)
  deriving DecidableEq, Repr

/-- A run code's run is applied: it may not bring the line's pixel count above the page width (R31). -/
def scanRun (width line pixels : Nat) (black : Bool) (length : Nat) : Scan × ScanEvent :=
  if width < pixels + length then (.fault .overrun, .none)
  else (.lineArt line (pixels + length) (!black) none, .run line pixels length black)

/-- After the fields or samples of a slice, or after the count byte: the next slice, or the correct end. -/
def scanSlices : Nat → Scan
  | 0 => .done
  | n + 1 => .fields (n + 1) []

/-- The check of a slice's fields as they arrive (R32): of the fields read so far, those just completed. -/
def sliceFieldsSound (got : List Byte) : Bool :=
  let z := (got.getD 3 0).toNat
  let w := (got.getD 4 0).toNat + 256 * (got.getD 5 0).toNat
  let rows := (got.getD 6 0).toNat
  let y0 := (got.getD 2 0).toNat
  match got.length with
  | 4 => z == 1 || z == 2 || z == 4 || z == 8
  | 6 => decide (1 ≤ w ∧ w ≤ 4096)
  | 7 => decide (1 ≤ rows ∧ rows ≤ 64 ∧ y0 + rows * z ≤ 64)
  | _ => true

/-- A slice from its seven field bytes (section 2.4). -/
def sliceOf (got : List Byte) : Slice where
  wx := (got.getD 0 0).toNat + 256 * (got.getD 1 0).toNat
  y0 := (got.getD 2 0).toNat
  z := (got.getD 3 0).toNat
  w := (got.getD 4 0).toNat + 256 * (got.getD 5 0).toNat
  rows := (got.getD 6 0).toNat

/-- The reader takes one byte of a band of a page `width` pixels wide (R31, R32, R33). -/
def scanByte (width : Nat) (sc : Scan) (b : Byte) : Scan × ScanEvent :=
  match sc with
  | .lineArt line pixels black (some code) =>
    scanRun width line pixels black (240 + (code - 240) * 256 + b.toNat)
  | .lineArt line pixels black none =>
    if b.toNat = 255 then
      (if line = 63 then .count else .lineArt (line + 1) 0 false none, .none)
    else if 240 ≤ b.toNat then (.lineArt line pixels black (some b.toNat), .none)
    else scanRun width line pixels black b.toNat
  | .count => (if 16 < b.toNat then .fault .windowCount else scanSlices b.toNat, .none)
  | .fields left got =>
    let got' := got ++ [b]
    if !sliceFieldsSound got' then (.fault .windowBounds, .none)
    else if got'.length = 7 then (.samples left (sliceOf got') 0, .slice (sliceOf got'))
    else (.fields left got', .none)
  | .samples left sl i =>
    (if i + 1 < sl.w * sl.rows then .samples left sl (i + 1) else scanSlices (left - 1),
      .sample sl (i / sl.w) (i % sl.w) b)
  | .done => (.fault .trailing, .none)
  | .fault c => (.fault c, .none)

/-- PRX's structural check carried through the bytes of a chunk (R30): "it stops" at its first fault. -/
def scanChunk (width : Nat) (sc : Scan) (bs : List Byte) : Scan := bs.foldl (fun a b => (scanByte width a b).1) sc

/-- What the check finds of a band whose bytes have all arrived (R33): its fault, SHORT when it still expects
more, or none. -/
def scanVerdict : Scan → Option DamageCause
  | .done => none
  | .fault c => some c
  | .lineArt _ _ _ _ => some .short
  | .count => some .short
  | .fields _ _ => some .short
  | .samples _ _ _ => some .short

end Sys2Proof.Machine
end

