-- ==== Sys2Proof/Machine/Pool.lean ====
section
/-! DEFINITION. PSC's block link table and free pool (section 4.2): building, lending, and the walk that returns
a chain. -/

namespace Sys2Proof.Machine

/-- A block's entry of the block link table: the next block, or END (R69). -/
def Psc.link (p : Psc) (b : Nat) : Option Nat := sparseGet b p.links

/-- PSC writes an entry of the block link table (R69). -/
def Psc.setLink (p : Psc) (b : Nat) (next : Option Nat) : Psc :=
  match next with
  | some n => { p with links := sparseSet b n p.links }
  | none => { p with links := sparseErase b p.links }

/-- R70: the pool is built for a store of `mib` MiB: every pool block in ascending order. Entries at or above
the store's blocks keep what they held (R74). -/
def Psc.buildPool (p : Psc) (mib : Nat) : Psc :=
  let n := mib * 64
  { p with
    storeMiB := some mib
    links := (List.range' 128 (n - 129)).map (fun b => (b, b + 1)) ++ p.links.filter (fun c => decide (n ≤ c.1))
    poolHead := some 128
    poolTail := some (n - 1)
    freeCount := n - 128
    poolSize := n - 128 }

/-- R71: PSC lends the head block of the pool and writes END in its entry. None when no block is free. -/
def Psc.lend (p : Psc) : Option (Nat × Psc) :=
  if p.freeCount = 0 then none
  else
    match p.poolHead with
    | none => none
    | some b =>
      let q := { p with
        poolHead := if p.freeCount = 1 then none else p.link b
        poolTail := if p.freeCount = 1 then none else p.poolTail
        freeCount := p.freeCount - 1 }
      some (b, q.setLink b none)

/-- R72: one block rejoins the pool at its tail. -/
def Psc.rejoin (p : Psc) (b : Nat) : Psc :=
  let q := match p.poolTail with
    | some t => p.setLink t (some b)
    | none => { p with poolHead := some b }
  { q.setLink b none with poolTail := some b, freeCount := p.freeCount + 1 }

/-- R72: the walk of a chain from a block. The first argument bounds the blocks walked. The result counts
them. -/
def Psc.walk : Nat → Nat → Psc → Psc × Nat
  | 0, _, p => (p, 0)
  | f + 1, b, p =>
    match p.link b with
    | none => (p.rejoin b, 1)
    | some n => ((Psc.walk f n (p.rejoin b)).1, (Psc.walk f n (p.rejoin b)).2 + 1)

/-- R72: a chain is returned to the pool. The block link table has 65536 entries (R69), and no chain is
longer. -/
def Psc.returnChain (p : Psc) : Option Nat → Psc × Nat
  | none => (p, 0)
  | some b => Psc.walk 65536 b p

/-- PDIR or PRX returns a chain (R72): the state after it, and the blocks returned. -/
def returnChain (head : Option Nat) (s : State) : State × Nat :=
  ({ s with psc := (s.psc.returnChain head).1 }, (s.psc.returnChain head).2)

end Sys2Proof.Machine
end

