-- ==== Sys2Proof/Machine/Directory.lean ====
section
/-! DEFINITION. PRX and PDIR: the ends of receptions and repairs, supersession, binding, release and store
damage (chapters 2 and 3), and the writing of a chunk. -/

namespace Sys2Proof.Machine

/-! ## What the directory answers -/

/-- An entry in RECEIVING, COMPLETE or DAMAGED. -/
def Entry.current (e : Entry) : Bool := e.state == .receiving || e.state == .complete || e.state == .damaged

/-- An entry in COMPLETE or DAMAGED: a closed version that resolves (R55). -/
def Entry.closed (e : Entry) : Bool := e.state == .complete || e.state == .damaged

/-- The bands of an entry that are not GOOD, in band order. -/
def Entry.notGood (e : Entry) : List Nat :=
  e.bands.zipIdx.filterMap (fun p => if p.1.state == .good then none else some p.2)

/-- R55: the entry that a page key resolves to. -/
def resolve (s : State) (k : PageKey) : Option Nat :=
  s.pdir.entries.findIdx? (fun e => e.closed && e.key == k)

/-- R52, R51: another entry of the key, in RECEIVING, COMPLETE or DAMAGED, whose version is higher. -/
def newerHeld (s : State) (h : Nat) : Bool :=
  s.pdir.entries.zipIdx.any fun p =>
    p.2 != h && p.1.current && p.1.key == (entry s h).key && decide ((entry s h).version < p.1.version)

/-! ## PAGE.NOTE -/

/-- The note of an event of an entry, with the entry's fields as given (R37, R64). -/
def pageNote (ev : PageEvent) (h : Nat) (st : EntryState) (e : Entry) : Report :=
  .page { event := ev, handle := h, key := e.key, version := e.version, state := st, damaged := e.damaged,
          timeout := e.timeout, listed := e.notGood.take 8 }

/-- PDIR queues a note of an entry as it now stands. -/
def noteEntry (ev : PageEvent) (h : Nat) (s : State) : State :=
  report (pageNote ev h (entry s h).state (entry s h)) s

/-! ## Chunk buffer and contexts -/

/-- R46: the chunk buffer is emptied when it holds a chunk of the entry. The bursts not yet begun are not
written, and one in flight is finished. -/
def emptyChunkOf (h : Nat) (s : State) : State :=
  match s.prx.chunk with
  | some c =>
    if c.handle = h then
      let t := dropRequests .prxWrite s
      { t with prx := { t.prx with chunk := none } }
    else s
  | none => s

/-- The context that serves an entry, if one does, is freed and its timer stopped (R26). -/
def freeContextOf (h : Nat) (s : State) : State :=
  match contextOf s h with
  | some i => setContext i none s
  | none => s

/-- PRX asks for the next burst of the chunk buffer, unless it has a request or burst already (R29, R76). -/
def prxPump (s : State) : State :=
  match s.prx.chunk with
  | some c =>
    match c.todo with
    | (a, bs) :: r =>
      if s.psc.engaged .prxWrite then s
      else ask .prxWrite (.write a bs) { s with prx := { s.prx with chunk := some { c with todo := r } } }
    | [] => s
  | none => s

/-! ## Ends of receptions and repairs -/

/-- A band still EXPECTED or ARRIVING becomes MISSING, and its partial chain is returned (R35, R44). -/
def missBand (h : Nat) (s : State) (b : Nat) : State :=
  match bandOf s h b with
  | some r =>
    if r.state = .expected ∨ r.state = .arriving then
      setBand h b { r with state := .missing, cause := some .missing, head := none } (returnChain r.head s).1
    else s
  | none => s

/-- Every band not completed becomes MISSING, in band order (R35, R44). -/
def missBands (h : Nat) (s : State) : State := (List.range (entry s h).bands.length).foldl (missBand h) s

/-- R44: an open repair of an entry is ended, with the note of its end if it has one. A chunk of the entry in
the chunk buffer is dropped (R46). -/
def endRepair (h : Nat) (note : Option PageEvent) (s : State) : State :=
  let t := freeContextOf h (missBands h (emptyChunkOf h s))
  match note with
  | some ev => noteEntry ev h t
  | none => t

/-- One band's chain returned at a release: the state, and the blocks returned so far. -/
def releaseBand (h : Nat) (p : State × Nat) (b : Nat) : State × Nat :=
  match bandOf p.1 h b with
  | some r => ((returnChain r.head p.1).1, p.2 + (returnChain r.head p.1).2)
  | none => p

/-- R59, step 2: every chain of an entry is returned in band order. -/
def releaseChains (h : Nat) (s : State) : State × Nat :=
  (List.range (entry s h).bands.length).foldl (releaseBand h) (s, 0)

/-- R59: an entry is released. The note carries the state EMPTY and the fields held just before (R64). -/
def releaseEntry (h : Nat) (cause : ReleaseCause) (s : State) : State :=
  let e := entry s h
  let t := releaseChains h (freeContextOf h (emptyChunkOf h s))
  setEntry h Entry.empty (report (pageNote (.released cause t.2) h .empty e) t.1)

/-- The blocks that a release of the entry returns (R62, R72). -/
def releaseCount (h : Nat) (s : State) : Nat := (releaseChains h (freeContextOf h (emptyChunkOf h s))).2

/-- R52: an entry in COMPLETE or DAMAGED is retired by the close of `by_`. -/
def retire (by_ h : Nat) (s : State) : State :=
  let t := match contextOf s h with
    | some _ => endRepair h none s
    | none => s
  let u := setEntry h { entry t h with state := .superseded } t
  let v := noteEntry (.superseded by_ (entry u by_).version (entry u h).refs) h u
  if (entry v h).refs = 0 then releaseEntry h .superseded v else v

/-- One entry's share of R52: it is retired when it is another closed version of the closing entry's key. -/
def retireIfOlder (by_ : Nat) (s : State) (h : Nat) : State :=
  if h ≠ by_ ∧ (entry s h).closed = true ∧ (entry s h).key = (entry s by_).key then retire by_ h s else s

/-- R52, R53: every other entry of the key in COMPLETE or DAMAGED is retired, in handle order. -/
def supersede (by_ : Nat) (s : State) : State := (List.range s.pdir.entries.length).foldl (retireIfOlder by_) s

/-- The state in which a closing entry ends (R35, R51): SUPERSEDED when a newer version is held, or is being
opened (`byOpen`). -/
def closedState (s : State) (h : Nat) (byOpen : Bool) : EntryState :=
  if byOpen || newerHeld s h then .superseded
  else if (entry s h).notGood.isEmpty then .complete
  else .damaged

/-- R35, R39, R23: a reception ends. -/
def closeReception (ev : PageEvent) (byOpen : Bool) (h : Nat) (s : State) : State :=
  let t := missBands h s
  let u := setEntry h { entry t h with state := closedState t h byOpen, damaged := (entry t h).notGood.length } t
  let v := noteEntry ev h (freeContextOf h u)
  if (entry v h).state = .superseded then releaseEntry h .superseded v else supersede h v

/-- R35, R44: what PAGE.CLOSE and the reception timeout do to an entry in RECEIVING or with an open repair. -/
def closeEntry (ev : PageEvent) (h : Nat) (s : State) : State :=
  if (entry s h).state = .receiving then closeReception ev false h s else endRepair h (some ev) s

/-! ## Completion of a band -/

/-- The progress a context holds of a band it covers (section 2.2). -/
def Context.progress (c : Context) (b : Nat) : BandProgress :=
  (c.bands.find? (fun p => p.band == b)).getD ⟨b, 0, none, Scan.start⟩

/-- Whether a context covers a band. -/
def Context.covers (c : Context) (b : Nat) : Bool := c.bands.any (fun p => p.band == b)

/-- Whether a band of an entry is under repair (R41, R42). -/
def underRepair (s : State) (h b : Nat) : Bool :=
  match (contextOf s h).bind (contextAt s) with
  | some c => c.mode == .repair && c.covers b
  | none => false

/-- R34: what a band is judged: the cause of its damage, or none when it is GOOD. -/
def bandVerdict (p : BandProgress) (r : BandRecord) : Option DamageCause :=
  if p.sum + r.check ≠ 0 then some .checksum else scanVerdict p.scan

/-- R34, R42, R43: a band completes and is judged. The context is that of index `i`. -/
def completeBand (i h b : Nat) (s : State) : State :=
  match contextAt s i, bandOf s h b with
  | some c, some r =>
    let t := setContext i (some { c with bands := c.bands.filter (fun p => p.band != b) }) s
    match bandVerdict (c.progress b) r with
    | some cause =>
      let u := setBand h b { r with state := .damaged, cause := some cause } t
      if c.mode = .reception then setEntry h { entry u h with damaged := (entry u h).damaged + 1 } u else u
    | none =>
      let u := setBand h b { r with state := .good, cause := none } t
      if c.mode = .reception then u
      else
        let v := setEntry h { entry u h with damaged := (entry u h).damaged - 1 } u
        if (entry v h).damaged = 0 then
          noteEntry .repaired h (setContext i none (setEntry h { entry v h with state := .complete } v))
        else v
  | _, _ => s

/-- R29: the chunk buffer has drained. The reception timer starts anew, and a LAST chunk completes its band. -/
def drainChunk (c : Chunk) (s : State) : State :=
  let t := { s with prx := { s.prx with chunk := none } }
  match contextOf t c.handle with
  | none => t
  | some i =>
    let u := match contextAt t i with
      | some x => setContext i (some { x with running := true }) t
      | none => t
    if c.last then completeBand i c.handle c.band u else u

/-- PRX's handling of a link-write burst's completion (R29, R46). -/
def prxBurstDone (stale : Bool) (s : State) : State :=
  if stale then prxPump s
  else
    match s.prx.chunk with
    | some c => if c.todo.isEmpty then drainChunk c s else prxPump s
    | none => s

/-! ## The placing of a chunk -/

/-- R28: whether a chunk of `len` bytes at a band's offset needs a new block. -/
def needsBlock (offset len : Nat) : Bool :=
  decide (offset % blockBytes = 0 ∨ offset / blockBytes ≠ (offset + len - 1) / blockBytes)

/-- R28: the bursts that write a chunk: to the end of the band's present last block, and on in the new one. -/
def chunkBursts (offset : Nat) (tail new : Option Nat) (bs : List Byte) : List (Nat × List Byte) :=
  if offset % blockBytes = 0 then burstsOf (blockAddr new) bs
  else
    burstsOf (blockAddr tail + offset % blockBytes) (bs.take (blockBytes - offset % blockBytes)) ++
      burstsOf (blockAddr new) (bs.drop (blockBytes - offset % blockBytes))

/-- R28, R71: the block a chunk needs is lent and linked behind the band's chain. The result is none when the
free pool is empty, and otherwise the new block, if one was needed, and the state. -/
def takeBlock (needed : Bool) (tail : Option Nat) (s : State) : Option (Option Nat × State) :=
  if needed then
    match s.psc.lend with
    | none => none
    | some (b, p) =>
      match tail with
      | some t => some (some b, { s with psc := p.setLink t (some b) })
      | none => some (some b, { s with psc := p })
  else some (none, s)

/-- R27 to R30: an accepted chunk is placed. None when it needs a block and the pool is empty (STORE_FULL). -/
def placeChunk (i h b offset : Nat) (last : Bool) (bs : List Byte) (s : State) : Option State :=
  match contextAt s i, bandOf s h b with
  | some c, some r =>
    let p := c.progress b
    match takeBlock (needsBlock offset bs.length) p.tail s with
    | none => none
    | some (new, t) =>
      let p' : BandProgress :=
        { band := b, sum := sumFrom p.sum bs, tail := new.or p.tail,
          scan := scanChunk (entry s h).width p.scan bs }
      let c' := { c with
        running := false
        bands := c.bands.map (fun q => if q.band == b then p' else q) }
      let r' := { r with
        received := r.received + bs.length
        state := if r.state = .expected then .arriving else r.state
        head := r.head.or new }
      let u := setBand h b r' (setContext i (some c') t)
      some (prxPump { u with prx := { u.prx with
        chunk := some ⟨h, b, last, bs, chunkBursts offset p.tail new bs⟩ } })
  | _, _ => none

/-- R41: a repair is opened for a band, or the band joins the open repair, in the context of index `i`. The
band's old chain is returned and the band restarts. -/
def openRepair (i h b : Nat) (s : State) : State :=
  match bandOf s h b with
  | some r =>
    let t := setBand h b { r with state := .arriving, cause := none, received := 0, head := none } (returnChain r.head s).1
    let fresh : BandProgress := ⟨b, 0, none, Scan.start⟩
    match contextAt s i with
    | some c => setContext i (some { c with bands := c.bands ++ [fresh] }) t
    | none => setContext i (some ⟨h, .repair, true, [fresh]⟩) t
  | none => s

/-- The reception timer of a context is started for its full period (R38). -/
def startTimer (i : Nat) (s : State) : State :=
  match contextAt s i with
  | some c => setContext i (some { c with running := true }) s
  | none => s

/-! ## Store damage and binding -/

/-- R65: the GOOD bands of an unbound entry become DAMAGED with cause STORE. -/
def markStore (h : Nat) (s : State) : State :=
  let e := entry s h
  let n := e.bands.countP (fun r => r.state == .good)
  if n = 0 then s
  else
    let e' := { e with
      bands := e.bands.map (fun r => if r.state == .good then { r with state := .damaged, cause := some .store } else r)
      damaged := e.damaged + n
      state := if e.state = .complete then .damaged else e.state }
    noteEntry (.storeDamaged n) h (setEntry h e' s)

/-- R65, R66: one entry's share of a merged refresh. -/
def damageEntry (s : State) (h : Nat) : State :=
  if (entry s h).state = .empty then s
  else if (entry s h).refs = 0 then markStore h s
  else setEntry h { entry s h with storeSuspect := true } s

/-- R65: PSC reports a merged refresh, and PDIR marks every entry that is not EMPTY in handle order. -/
def damageStore (s : State) : State := (List.range s.pdir.entries.length).foldl damageEntry s

/-- R56: an entry is bound. An open repair of it is ended first. -/
def bindEntry (s : State) (h : Nat) : State :=
  let t := match contextOf s h with
    | some _ => endRepair h (some .repairEnded) s
    | none => s
  setEntry h { entry t h with refs := (entry t h).refs + 1 } t

/-- R58, R66: an entry is unbound. -/
def unbindEntry (s : State) (h : Nat) : State :=
  let t := setEntry h { entry s h with refs := (entry s h).refs - 1 } s
  if (entry t h).state = .superseded then releaseEntry h .deferred t
  else if (entry t h).storeSuspect then markStore h (setEntry h { entry t h with storeSuspect := false } t)
  else t

end Sys2Proof.Machine
end

