-- ==== Sys2Proof/Machine/Screening.lean ====
section
/-! DEFINITION. The screening computation (section 6.5) and the clamping of a set's curve and thresholds (R88,
R90): integer arithmetic on non-negative numbers. -/

namespace Sys2Proof.Machine

/-- R114: the tone curve maps a sample to a screen value. -/
def toneCurve (curve : List Nat) (s : Nat) : Nat :=
  let c := fun k => curve.getD k 0
  if s < 240 then
    c (s / 16) + ((c (s / 16 + 1) - c (s / 16)) * (s % 16) + 8) / 16
  else
    c 15 + ((c 16 - c 15) * (s - 240) + 7) / 15

/-- R115: the dot clamps turn v into the screened value v'. -/
def dotClamp (m mm v : Nat) : Nat :=
  if v = 0 then 0
  else if v < m then (if m ≤ 2 * v then m else 0)
  else if v ≤ mm then v
  else if mm + 4095 ≤ 2 * v then 4095 else mm

/-- The screened value of a sample under a set (R114, R115). -/
def screenedValue (x : ScreenSet) (sample : Nat) : Nat := dotClamp x.minDot x.maxDot (toneCurve x.curve sample)

/-- R116: the tile cache position of the threshold for plate pixel (x, y). -/
def thresholdPosition (t : ScreenSet) (x y : Nat) : Nat :=
  (y % t.height) * t.width + (x + t.shift * (y / t.height)) % t.width

/-- R117: the screened bit of a plate pixel covered by a sample. -/
def screenedBit (t : ScreenSet) (cache : List Nat) (sample x y : Nat) : Bool :=
  decide (cache.getD (thresholdPosition t x y) 0 ≤ screenedValue t sample)

/-- R90: a threshold as it is stored, 1..4095. -/
def clampThreshold (v : Nat) : Nat := if v = 0 then 1 else if 4095 < v then 4095 else v

/-- R88, steps 2 and 3, point by point behind a stored predecessor. -/
def clampCurveFrom : Nat → List Nat → List Nat
  | _, [] => []
  | prev, p :: r =>
    let q := if 4095 < p then 4095 else p
    let v := if q < prev then prev else q
    v :: clampCurveFrom v r

/-- R88: the curve as stored. C0 is stored as 0, whatever was sent. -/
def clampCurve : List Nat → List Nat
  | [] => []
  | _ :: r => 0 :: clampCurveFrom 0 r

/-- R88: how many points are stored with a value that differs from the value sent. -/
def curveChanges (sent stored : List Nat) : Nat := (sent.zip stored).countP (fun p => p.1 != p.2)

/-- A threshold placed in the tile cache (R96). A fill writes its positions in order, so a position lies at
most one past those written. -/
def cachePut (cache : List Nat) (i v : Nat) : List Nat :=
  if i < cache.length then cache.set i v else cache ++ List.replicate (i - cache.length) 0 ++ [v]

/-- Thresholds placed from position `i` on, each clamped (R96). -/
def cacheFill : Nat → List Nat → List Nat → List Nat
  | _, [], cache => cache
  | i, v :: r, cache => cacheFill (i + 1) r (cachePut cache i (clampThreshold v))

end Sys2Proof.Machine
end

