-- ==== Sys2Proof/Machine/Fill.lean ====
section
/-! DEFINITION. SCT's transfers: the writing of the tile buffer (R90) and the tile cache fill (R96 to R98). The
judgement of a fill, which ends or starts a job, is PSCH's and stands in Schedule.lean. -/

namespace Sys2Proof.Machine

/-- SCT asks for the next burst of the tile buffer, unless it has a request or burst already (R90, R76). -/
def tilePump (s : State) : State :=
  match s.sct.tileBuf with
  | some c =>
    match c.todo with
    | (a, bs) :: r =>
      if s.psc.engaged .sctTile then s
      else ask .sctTile (.write a bs) { s with sct := { s.sct with tileBuf := some { c with todo := r } } }
    | [] => s
  | none => s

/-- SCT's handling of a tile-write burst's completion (R90): the next burst, or the buffer has drained. -/
def tileBurstDone (s : State) : State :=
  match s.sct.tileBuf with
  | some c =>
    if c.todo.isEmpty then { s with sct := { s.sct with tileBuf := none } } else tilePump s
  | none => s

/-- The bytes of a set's thresholds in its tile area (R96). -/
def tileBytes (x : ScreenSet) : Nat := 2 * x.width * x.height

/-- SCT asks for the next burst of the fill, unless it has a request or burst already (R96, R76): one 64-byte
unit of the area, or the part of the last unit that holds thresholds. -/
def fillPump (s : State) : State :=
  match s.sct.fill with
  | some f =>
    if s.psc.engaged .sctFill ∨ tileBytes (screenSet s f.setIndex) ≤ 2 * f.taken then s
    else
      ask .sctFill
        (.read (tileAddr f.setIndex + 2 * f.taken) (min 64 (tileBytes (screenSet s f.setIndex) - 2 * f.taken))) s
  | none => s

/-- R96: a fill begins. The tag is INVALID from then on. -/
def beginFill (t generation : Nat) (s : State) : State :=
  fillPump { s with sct := { s.sct with tag := none, fill := some ⟨t, generation, 0xFFFF#16, 0⟩ } }

/-- R96: a fill burst's bytes are taken: the CRC covers the values as read, the cache holds them clamped. -/
def takeFill (f : Fill) (bs : List Byte) (s : State) : State :=
  { s with sct := { s.sct with
      cache := cacheFill f.taken (halvesOf bs) s.sct.cache
      fill := some { f with
        crc := crcFrom f.crc ((halvesOf bs).flatMap u16)
        taken := f.taken + (halvesOf bs).length } } }

/-- R97: every threshold of the set has been taken. -/
def fillComplete (s : State) (f : Fill) : Bool := decide (tileBytes (screenSet s f.setIndex) ≤ 2 * f.taken)

/-- R98: a fill in progress is dropped. The tag stays INVALID. -/
def dropFill (s : State) : State :=
  match s.sct.fill with
  | some _ =>
    let t := dropRequests .sctFill s
    { t with sct := { t.sct with fill := none } }
  | none => s

end Sys2Proof.Machine
end

