-- ==== Sys2Proof/Machine/Defects.lean ====
section
/-! DEFINITION. DREC, the defect recorder (chapter 10): severity, the defect list with its merging and its
OVERFLOW record, the verdict accumulator, and the opening and closing of a plate. -/

namespace Sys2Proof.Machine

/-- A defect as a block hands it: merge count 1, severity still to be set (R180). -/
def Defect.handed (kind : DefectKind) (first last : Nat) (xRange : Option (Nat × Nat)) (channel slot band : Option Nat)
    (cause : Option AbortCause) : Defect where
  kind := kind
  severity := .marked
  firstLine := first
  lastLine := last
  xRange := xRange
  channel := channel
  slot := slot
  band := band
  cause := cause
  count := 1

/-- R182: an underrun's x range meets the page of a slot that has a page band in the plate band of its lines. -/
def underrunTouchesPage (geometry : List SlotGeometry) (d : Defect) : Bool :=
  match d.xRange with
  | none => false
  | some (x0, x1) =>
    geometry.any fun g =>
      decide (g.firstBand ≤ d.firstLine / 64 ∧ d.firstLine / 64 ≤ g.lastBand ∧ g.firstX ≤ x1 ∧ x0 ≤ g.lastX)

/-- R182: the severity of a defect as handed. -/
def severityOf (geometry : List SlotGeometry) (d : Defect) : Severity :=
  match d.kind with
  | .blankBand => .marked
  | .underrun => if underrunTouchesPage geometry d then .reject else .marked
  | .decode => .reject
  | .channel => .reject
  | .drumSpeed => .reject
  | .abort => .reject
  | .overflow => .reject

/-- R184: whether a defect merges with the last record of the list. -/
def merges (sweepHeight : Nat) (d r : Defect) : Bool :=
  r.kind == d.kind && r.channel == d.channel && r.slot == d.slot &&
    decide (d.firstLine ≤ r.lastLine + sweepHeight)

/-- The span of two optional x ranges (R184). -/
def spanX : Option (Nat × Nat) → Option (Nat × Nat) → Option (Nat × Nat)
  | some (a, b), some (c, d) => some (min a c, max b d)
  | some r, none => some r
  | none, o => o

/-- R184: the record after it absorbs a defect of its own kind. -/
def absorb (d r : Defect) : Defect :=
  { r with
    firstLine := min r.firstLine d.firstLine
    lastLine := max r.lastLine d.lastLine
    xRange := spanX r.xRange d.xRange
    severity := r.severity.worse d.severity
    count := countMerged r.count }

/-- R185: the OVERFLOW record after it absorbs a defect of any kind. -/
def absorbOverflow (d r : Defect) : Defect :=
  { r with
    firstLine := min r.firstLine d.firstLine
    lastLine := max r.lastLine d.lastLine
    severity := r.severity.worse d.severity
    count := countMerged r.count }

/-- R185: the OVERFLOW record as it is created. -/
def overflowRecord (d : Defect) : Defect where
  kind := .overflow
  severity := d.severity
  firstLine := d.firstLine
  lastLine := d.lastLine
  xRange := none
  channel := none
  slot := none
  band := none
  cause := none
  count := 1

/-- The list with its last record rewritten. -/
def mapLast (f : Defect → Defect) (l : List Defect) : List Defect :=
  match l.getLast? with
  | none => l
  | some r => l.dropLast ++ [f r]

/-- Whether the defect merges with the last record, if the list has one. -/
def mergesLast (sweepHeight : Nat) (d : Defect) (l : List Defect) : Bool :=
  match l.getLast? with
  | none => false
  | some r => merges sweepHeight d r

/-- R183: the defect list after a defect, by the first case that holds. -/
def placeDefect (sweepHeight : Nat) (d : Defect) (l : List Defect) : List Defect :=
  if mergesLast sweepHeight d l then mapLast (absorb d) l
  else if 24 ≤ l.length then mapLast (absorbOverflow d) l
  else if l.length = 23 then l ++ [overflowRecord d]
  else l ++ [d]

/-- R183, R186: DREC takes a defect while a plate is open, and discards it otherwise (R181). -/
def Drec.take (r : Drec) (d : Defect) : Drec :=
  if r.plateOpen then
    let d' := { d with severity := severityOf r.geometry d }
    { r with list := placeDefect r.sweepHeight d' r.list, verdict := r.verdict.raise d'.severity }
  else r

/-- A block hands DREC a defect. -/
def handDefect (d : Defect) (s : State) : State := { s with drec := s.drec.take d }

/-- R181: the plate opens, with the sweep height of the swath. -/
def openPlate (s : State) : State :=
  { s with drec := { s.drec with
      plateOpen := true
      sweepHeight := match s.imp.swath with | .full => 32 | .half => 16
      geometry := []
      list := []
      verdict := .good } }

/-- R188: the verdict is fixed. The lines are driven and the plate is closed. -/
def fixVerdict (s : State) : State :=
  let t := driveVerdict s
  { t with drec := { t.drec with plateOpen := false } }

/-- R181: a job that ends without reaching IMAGING closes its plate, and nothing else changes. -/
def closePlate (s : State) : State := { s with drec := { s.drec with plateOpen := false } }

end Sys2Proof.Machine
end

