-- ==== Sys2Proof/Machine/Raster.lean ====
section
/-! DEFINITION. RU, the raster unit (chapter 6): the claim of ring slots, the placing of pages, the decoding and
screening of page bands, the writing of sweeps, and its stop. -/

namespace Sys2Proof.Machine

/-! ## Pixels of the band buffer: one column for each plate x, one bit for each of 64 lines -/

/-- A column with the bit of one line given a value. -/
def setLine (c : BitVec 64) (line : Nat) (v : Bool) : BitVec 64 :=
  if v then c ||| (1#64 <<< line) else c &&& ~~~(1#64 <<< line)

/-- R108: a black run sets the line-art bits of its pixels. -/
def paintRun (x len line : Nat) (cols : List (BitVec 64)) : List (BitVec 64) :=
  cols.mapIdx fun i c => if x ≤ i ∧ i < x + len then setLine c line true else c

/-- R111: the line-art bits of one line within a page's x range become white. -/
def whitenLine (x len line : Nat) (cols : List (BitVec 64)) : List (BitVec 64) :=
  cols.mapIdx fun i c => if x ≤ i ∧ i < x + len then setLine c line false else c

/-- R110: the screened bits of one column's pixels that a sample covers. `x` is the plate x, `top` the plate
line of the band's line 0. -/
def paintColumn (t : ScreenSet) (cache : List Nat) (value x top firstLine z : Nat) (c : BitVec 64) : BitVec 64 :=
  (List.range z).foldl
    (fun c k => setLine c (firstLine + k) (screenedBit t cache value x (top + firstLine + k))) c

/-- R110: a sample is applied to the pixels it covers whose page x is below the page width. -/
def paintSample (t : ScreenSet) (cache : List Nat) (slot : RuSlot) (sl : Slice) (row col value top : Nat)
    (cols : List (BitVec 64)) : List (BitVec 64) :=
  cols.mapIdx fun i c =>
    if slot.x0 + sl.wx + col * sl.z ≤ i ∧ i < slot.x0 + sl.wx + col * sl.z + sl.z ∧ i < slot.x0 + slot.width then
      paintColumn t cache value i top (sl.y0 + row * sl.z) sl.z c
    else c

/-- R118: word x of a sweep of the band: bit i is the output bit of line 32h + i (R112). -/
def sweepWord (ru : Ru) (h x : Nat) : Word :=
  ((ru.lineArt.getD x 0) ||| (ru.screen.getD x 0)).extractLsb' (32 * h) 32

/-- The words of one burst of a sweep: the 16 from word 16g on, up to word Wp − 1 (R119). -/
def sweepBurst (ru : Ru) (wp h g : Nat) : List Byte :=
  (List.range (min 16 (wp - 16 * g))).flatMap (fun k => wordBytes (sweepWord ru h (16 * g + k)))

/-! ## Reading a page band -/

/-- One event of the reader applied to the band buffer and the window list (R108 to R110). -/
def applyEvent (t : ScreenSet) (cache : List Nat) (slot : RuSlot) (top : Nat) (ev : ScanEvent) (ru : Ru) : Ru :=
  match ev with
  | .none => ru
  | .run line start len black =>
    if black then { ru with lineArt := paintRun (slot.x0 + start) len line ru.lineArt } else ru
  | .slice sl => { ru with windows := ru.windows ++ [sl] }
  | .sample sl row col v => { ru with screen := paintSample t cache slot sl row col v.toNat top ru.screen }

/-- The decoding of a burst's bytes, in order (R107). It stops at the correct end and at a fault, whose cause it
gives with the reader left where the fault was found. -/
def decodeBytes (t : ScreenSet) (cache : List Nat) (top : Nat) :
    List Byte → Ru → DecodeContext → Ru × DecodeContext × Option DamageCause
  | [], ru, c => (ru, c, none)
  | b :: bs, ru, c =>
    match c.scan with
    | .done => (ru, c, none)
    | sc =>
      match scanByte c.slot.width sc b with
      | (.fault cause, _) => (ru, { c with read := c.read + 1 }, some cause)
      | (sc', ev) =>
        decodeBytes t cache top bs (applyEvent t cache c.slot top ev ru) { c with scan := sc', read := c.read + 1 }

/-- The next burst RU needs (R107, R119), while it is BUILDING. -/
def ruNextBurst (s : State) : Option Transfer :=
  match s.ru.phase, s.ru.job with
  | .building, some j =>
    match s.ru.context, s.ru.write, s.ru.claimed with
    | some c, _, _ =>
      some (.read (blockAddr c.block + c.read % blockBytes) (min 64 (c.length - c.read)))
    | none, some (h, g), some (k0, k1) =>
      some (.write (ringAddr (if h = 0 then k0 else k1) + 64 * g) (sweepBurst s.ru j.wp h g))
    | none, _, _ => none
  | _, _ => none

/-- RU asks for its next burst, unless it has a request or burst already (R107, R119, R76). -/
def ruPump (s : State) : State :=
  if s.psc.engaged .ru then s
  else
    match ruNextBurst s with
    | some x => ask .ru x s
    | none => s

/-- The page band of a slot in a plate band, if it has one (R104). -/
def pageBandOf (top cursor : Nat) (slot : RuSlot) : Option Nat :=
  if top / 64 ≤ cursor ∧ cursor - top / 64 < slot.bands then some (cursor - top / 64) else none

/-- R105: the defect of a band left white. -/
def blankDefect (cursor : Nat) (slot : RuSlot) (b : Nat) : Defect :=
  Defect.handed .blankBand (64 * cursor) (64 * cursor + 63) (some (slot.x0, slot.x0 + slot.width - 1)) none
    (some slot.number) (some b) none

/-- R103 to R105: RU places the page slots that remain, up to the first whose band it must read. When none
remains, it writes the sweeps. -/
def ruPlace (top : Nat) : List RuSlot → State → State
  | [], s => ruPump { s with ru := { s.ru with context := none, rest := [], write := some (0, 0) } }
  | slot :: rest, s =>
    match pageBandOf top s.ru.cursor slot with
    | none => ruPlace top rest s
    | some b =>
      match bandOf s slot.handle b with
      | none => ruPlace top rest s
      | some r =>
        if r.state = .good then
          ruPump { s with ru := { s.ru with
            context := some ⟨slot, b, r.length, 0, r.head, Scan.start⟩
            rest := rest
            windows := [] } }
        else ruPlace top rest (handDefect (blankDefect s.ru.cursor slot b) s)

/-- The ring slots of a plate band (R102). -/
def slotsOfBand (j : Nat) : Nat × Nat := ((2 * j) % 8, (2 * j + 1) % 8)

/-- R102, R103: RU, while WAITING, claims both ring slots of its plate band when both are FREE, clears the band
buffer and begins BUILDING. -/
def ruLook (s : State) : State :=
  match s.ru.phase, s.ru.job with
  | .waiting, some j =>
    let k := slotsOfBand s.ru.cursor
    if ringState s k.1 = .free ∧ ringState s k.2 = .free then
      let t := setRing k.2 .filling (setRing k.1 .filling s)
      ruPlace j.top j.slots { t with ru := { t.ru with
        phase := .building
        claimed := some k
        lineArt := List.replicate j.wp 0
        screen := List.replicate j.wp 0
        context := none
        rest := []
        windows := []
        write := none } }
    else s
  | _, _ => s

/-- The line of the line art in which a reader stands, if it stands there. -/
def Scan.lineOf : Scan → Option Nat
  | .lineArt line _ _ _ => some line
  | .count => none
  | .fields _ _ => none
  | .samples _ _ _ => none
  | .done => none
  | .fault _ => none

/-- R111: a fault found while reading a GOOD band. The faulty line of line art is whitened, DREC is handed a
DECODE defect, and RU goes on to the next page slot. -/
def ruFault (top : Nat) (c : DecodeContext) (s : State) : State :=
  let j := s.ru.cursor
  let first := 64 * j + c.scan.lineOf.getD 0
  let d := Defect.handed .decode first (64 * j + 63) (some (c.slot.x0, c.slot.x0 + c.slot.width - 1)) none
    (some c.slot.number) (some c.band) none
  let t := match c.scan.lineOf with
    | some line => { s with ru := { s.ru with lineArt := whitenLine c.slot.x0 c.slot.width line s.ru.lineArt } }
    | none => s
  let u := { t with ru := { t.ru with context := none } }
  ruPlace top u.ru.rest (handDefect d u)

/-- RU's handling of a raster read burst's completion (R107 to R111). RU decodes the burst before it asks for the next
one, so that no request of the band waits at a fault (log entry 30). A burst that its job's end left behind is
discarded without decoding (R120). -/
def ruReadDone (stale : Bool) (bs : List Byte) (s : State) : State :=
  if stale then ruPump s
  else
    match s.ru.context, s.ru.job with
    | some c, some j =>
      let (ru, c', fault) := decodeBytes (screenSet s j.setIndex) s.sct.cache (64 * s.ru.cursor) bs s.ru c
      let t := { s with ru := { ru with context := some c' } }
      match fault with
      | some _ => ruFault j.top c' t
      | none =>
        if c'.scan = .done then
          if c'.read < c'.length then ruFault j.top c' t
          else ruPlace j.top t.ru.rest { t with ru := { t.ru with context := none } }
        else if c'.length ≤ c'.read then ruFault j.top c' t
        else
          ruPump { t with ru := { t.ru with context := some { c' with
            block := if c'.read % blockBytes = 0 then c'.block.bind t.psc.link else c'.block } } }
    | _, _ => s

/-- RU's handling of a raster write burst's completion (R119): the next burst, or the second slot is written and
both slots become READY. -/
def ruWriteDone (stale : Bool) (s : State) : State :=
  if stale then ruPump s
  else
    match s.ru.job, s.ru.write, s.ru.claimed with
    | some j, some (h, g), some (k0, k1) =>
      if 16 * (g + 1) < j.wp then ruPump { s with ru := { s.ru with write := some (h, g + 1) } }
      else if h = 0 then ruPump { s with ru := { s.ru with write := some (1, 0) } }
      else
        let t := setRing k1 .ready (setRing k0 .ready s)
        ruLook { t with ru := { t.ru with
          phase := if t.ru.cursor + 1 < j.bp then .waiting else .done
          cursor := t.ru.cursor + 1
          claimed := none
          write := none } }
    | _, _, _ => s

/-- A claimed ring slot that is FILLING is returned to FREE (R120). -/
def freeFilling (s : State) (k : Nat) : State := if ringState s k = .filling then setRing k .free s else s

/-- R120: RU stops at a job end. -/
def ruStop (s : State) : State :=
  let t := dropRequests .ru s
  let u := match t.ru.claimed with
    | some (k0, k1) => freeFilling (freeFilling t k0) k1
    | none => t
  { u with ru := { u.ru with
      phase := .idle
      job := none
      cursor := 0
      claimed := none
      context := none
      rest := []
      write := none } }

/-- R101: RU is handed a job, and looks for its first two ring slots. -/
def ruStart (j : RuJob) (s : State) : State :=
  ruLook { s with ru := { s.ru with
    phase := .waiting
    job := some j
    cursor := 0
    claimed := none
    context := none
    rest := []
    write := none } }

end Sys2Proof.Machine
end

