-- ==== Sys2Proof/Machine/Port.lean ====
section
/-! DEFINITION. IMP, the imaging port (chapter 8): the plate lines of a sweep, raster words, the sweep FIFO and
its refill runs, releases of ring slots, and the end of a plate. The decision at each index, which may end
the job, stands in Drum.lean. -/

namespace Sys2Proof.Machine

/-- The number of sweeps of a job (R150). -/
def sweepCount (swath : Swath) (bp : Nat) : Nat :=
  match swath with
  | .full => 2 * bp
  | .half => 4 * bp

/-- The ring slot of a sweep (R150). -/
def ringSlotOf (swath : Swath) (e : Nat) : Nat :=
  match swath with
  | .full => e % 8
  | .half => (e / 2) % 8

/-- The pass of a sweep (R150). -/
def passOf (swath : Swath) (e : Nat) : Nat :=
  match swath with
  | .full => 0
  | .half => e % 2

/-- The first plate line of a sweep (R150). -/
def firstLineOf (swath : Swath) (e : Nat) : Nat :=
  match swath with
  | .full => 32 * e
  | .half => 32 * (e / 2) + 16 * (e % 2)

/-- The lines by which the carriage advances after a sweep, and the lines of a sweep (R149, R150). -/
def sweepLines (swath : Swath) : Nat :=
  match swath with
  | .full => 32
  | .half => 16

/-- The lowest channel driven (R155, R162). -/
def lowChannelOf (swath : Swath) (half : Nat) : Nat :=
  match swath with
  | .full => 0
  | .half => 16 * half

/-- The channels an EXPOSE revolution drives (R162). -/
def drivenOf (swath : Swath) (half : Nat) : Word :=
  match swath with
  | .full => 0xFFFFFFFF#32
  | .half => 0xFFFF#32 <<< (16 * half)

/-- R155: the raster word made from a stored word. -/
def rasterWord (swath : Swath) (half pass : Nat) (w : Word) : Word :=
  match swath with
  | .full => w
  | .half => ((w >>> (16 * pass)) &&& 0xFFFF#32) <<< (16 * half)

/-! ## The sweep FIFO -/

/-- The plate width of the job whose sweep the revolution under way exposes: none when it exposes none. -/
def exposingWidth (s : State) : Option Nat :=
  if s.imp.rev.decision = .expose ∧ s.imp.rev.live = true then (imagingJob s).map Job.wp else none

/-- The words of the next fetch burst: to the end of its 64-byte unit, and of the sweep (R156). -/
def fetchCount (wp next : Nat) : Nat := min 16 (wp - next)

/-- R156: IMP goes on with its refill run. A run begins when none is active, the level is at the watermark or
below and words remain to be fetched. It asks for a burst when it has none waiting or in flight, and ends when
the burst would not fit or every word has been asked for. -/
def impPump (s : State) : State :=
  match exposingWidth s with
  | none => s
  | some wp =>
    let active := s.imp.refill || decide (s.imp.fifo.length ≤ s.imp.watermark)
    if wp ≤ s.imp.nextFetch then { s with imp := { s.imp with refill := false } }
    else if !active then s
    else if s.psc.engaged .impFetch then { s with imp := { s.imp with refill := true } }
    else
      let n := fetchCount wp s.imp.nextFetch
      if 2048 < s.imp.fifo.length + n then { s with imp := { s.imp with refill := false } }
      else
        ask .impFetch (.read (ringAddr s.imp.rev.ringSlot + 4 * s.imp.nextFetch) (4 * n))
          { s with imp := { s.imp with
              nextFetch := s.imp.nextFetch + n
              refill := decide (s.imp.nextFetch + n < wp) } }

/-- The plate x of the word at an address of a ring slot (R68). -/
def wordIndexAt (addr : Nat) : Nat := addr % 131072 / 4

/-- R156, R157: the words of an arrival that join the FIFO: those not below the next word to send. -/
def arrivingWords (nextSend addr : Nat) (bs : List Byte) : List (Nat × Word) :=
  ((wordsOf bs).zipIdx (wordIndexAt addr)).filterMap fun p => if nextSend ≤ p.2 then some (p.2, p.1) else none

/-- IMP's handling of a fetch burst's completion (R156). A stale burst's words are all discarded. -/
def fetchDone (stale : Bool) (addr : Nat) (bs : List Byte) (s : State) : State :=
  if stale then impPump s
  else
    impPump { s with imp := { s.imp with fifo := s.imp.fifo ++ arrivingWords s.imp.nextSend addr bs } }

/-- The FIFO is emptied, its refill run ends, and the fetch request is withdrawn, or its burst in flight made
stale (R151, R160). -/
def emptyFifo (s : State) : State :=
  let t := dropRequests .impFetch s
  { t with imp := { t.imp with fifo := [], refill := false } }

/-! ## Slots -/

/-- R157: an underrun at x. -/
def noteUnderrun (x : Nat) : Option (Nat × Nat) → Option (Nat × Nat)
  | none => some (x, x)
  | some (a, _) => some (a, x)

/-- R157: raster slot L + x of an EXPOSE revolution begins. The word goes out if the FIFO holds it, and otherwise
a dark word goes and an underrun is recorded. -/
def sendRaster (x : Nat) (s : State) : State :=
  match s.imp.fifo with
  | (y, w) :: r =>
    if y = x then
      impPump { s with imp := { s.imp with
        fifo := r
        nextSend := x + 1
        headWord := .raster (rasterWord s.imp.swath s.imp.half s.imp.rev.pass w) } }
    else
      impPump { s with imp := { s.imp with
        underrun := noteUnderrun x s.imp.underrun, nextSend := x + 1, headWord := .raster 0 } }
  | [] =>
    impPump { s with imp := { s.imp with
      underrun := noteUnderrun x s.imp.underrun, nextSend := x + 1, headWord := .raster 0 } }

/-- The plate x whose raster slot is the slot of the number, if it is one (R148): slots L..L+Wp−1 of an EXPOSE
revolution that has not been cut, below Nrev. -/
def rasterSlot (s : State) (slot : Nat) : Option Nat :=
  match exposingWidth s with
  | none => none
  | some wp =>
    if s.imp.rev.dark = false ∧ s.imp.lead ≤ slot ∧ slot < s.imp.lead + wp ∧ slot < s.imp.nrev then
      some (slot - s.imp.lead)
    else none

/-- R148: the next slot begins, and one word goes to the head. -/
def impSlot (s : State) : State :=
  let t := { s with imp := { s.imp with rev := { s.imp.rev with slot := countSlot s.imp.rev.slot } } }
  match rasterSlot t (s.imp.rev.slot + 1) with
  | some x => sendRaster x t
  | none => { t with imp := { t.imp with headWord := .raster 0 } }

/-! ## The head link (R148, R149) -/

/-- A decision by its place in R149's list. -/
def Decision.place : Decision → Nat
  | .idle => 0 | .expose => 1 | .dwell => 2 | .endPlate => 3

/-- The 32 bits of a word to the head. Those of a frame word are a free value (log entry 26). -/
def HeadWord.word : HeadWord → Word
  | .frame d sweep step => Config.frameWord d.place sweep step
  | .raster w => w

/-- The bytes on the head link for the slot under way: its one 32-bit word, "sent least significant byte first"
(R148). -/
def headLink (s : State) : List Byte := wordBytes s.imp.headWord.word

/-! ## The end of a plate -/

/-- R160: READY and EXPOSING slots become FREE. -/
def freeExposed (r : RingState) : RingState :=
  match r with
  | .ready => .free
  | .exposing => .free
  | .free => .free
  | .filling => .filling

/-- R160, R164: IMP leaves the plate on the drum. Where the plate is `cut`, the revolution is dark from there on and
closing pending is set with the sweeps exposed, so that an END revolution is owed to the head. -/
def leavePlate (cut : Bool) (s : State) : State :=
  let t := emptyFifo s
  { t with imp := { t.imp with
      rev := { t.imp.rev with dark := t.imp.rev.dark || cut, live := false }
      prev := { t.imp.prev with live := false }
      closing := if cut then some t.imp.exposed else t.imp.closing
      ring := t.imp.ring.map freeExposed
      underrun := none
      exposed := 0
      steps := 0
      dwellCount := 0
      firstExpose := false
      cancelPending := false
      endDecided := false } }

/-- R160: PSCH tells IMP that the job in IMAGING has ended. "If the decision is END, the END revolution goes on as it
is, and closing pending stays clear"; in any other revolution the plate is cut. -/
def plateEnd (s : State) : State := leavePlate (s.imp.rev.decision != .endPlate) s

/-- R132, R154: a job becomes IMAGING: every ring slot FREE, closing pending cleared, job progress begun. -/
def plateStart (s : State) : State :=
  { s with imp := { s.imp with
      ring := s.imp.ring.map (fun _ => .free)
      closing := none
      exposed := 0
      steps := 0
      dwellCount := 0
      firstExpose := false
      cancelPending := false
      endDecided := false } }

end Sys2Proof.Machine
end

