-- ==== Sys2Proof/Machine/Schedule.lean ====
section
/-! DEFINITION. PSCH, the plate scheduler (chapter 7): eligibility, the schedule test, arming with its fit check,
binding and tile check, the start of imaging, and the end of a job. -/

namespace Sys2Proof.Machine

/-! ## Eligibility (R127) -/

/-- The conditions of R127 that are the same for every job, `no job is armed` apart. -/
def partReady (s : State) : Bool :=
  !s.lp.unattended && s.hmon.plateLoaded && s.hmon.drumReady && s.psch.fresh && s.hmon.test.isNone

/-- R127: a page slot's key resolves to an entry that the policy accepts. -/
def slotReady (s : State) (p : Policy) (t : JobSlot) : Bool :=
  match resolve s t.key with
  | none => false
  | some h => (entry s h).state == .complete || ((entry s h).state == .damaged && p == .run)

/-- R127: a QUEUED job is eligible, no job being armed. -/
def eligible (s : State) (j : Job) : Bool :=
  j.state == .queued && partReady s && (screenSet s j.setIndex).state == .ready && j.slots.all (slotReady s j.policy)

/-! ## The fit check (R130) -/

/-- The handle, width and band count of the entry that a slot's key resolves to at this moment. -/
def resolvedPage (s : State) (t : JobSlot) : Nat × Nat × Nat :=
  let h := (resolve s t.key).getD 0
  (h, (entry s h).width, (entry s h).bands.length)

/-- Two ranges x0..x0 + width − 1 meet. -/
def rangesMeet (a wa b wb : Nat) : Bool := decide (a < b + wb ∧ b < a + wa)

/-- R130: the OVERLAP test's failure. -/
def slotsOverlap (s : State) (l : List JobSlot) : Bool :=
  match l with
  | [t, u] => rangesMeet t.x0 (resolvedPage s t).2.1 u.x0 (resolvedPage s u).2.1
  | _ => false

/-- R130: the first fit test that fails. -/
def fitFault (s : State) (j : Job) : Option FitFault :=
  if j.slots.any (fun t => decide (j.wp < t.x0 + (resolvedPage s t).2.1)) then some .width
  else if slotsOverlap s j.slots then some .overlap
  else if j.slots.any (fun t => decide (j.bp < j.top / 64 + (resolvedPage s t).2.2)) then some .height
  else if s.imp.nrev < s.imp.lead + j.wp then some .revolution
  else none

/-! ## The end of a job (R135) -/

/-- The handles a job has bound, each distinct entry once, in the order they were bound (R131). -/
def boundHandles (j : Job) : List Nat := (j.slots.filterMap (fun t => t.bound.map Prod.fst)).dedup

/-- R134, R135: the abort cause of a result. -/
def abortCause : JobResult → Option AbortCause
  | .cancelled => some .cancelled
  | .stalled => some .stalled
  | .headLost => some .headLost
  | .clockLost => some .clockLost
  | .completed => none
  | .fit => none
  | .tile => none

/-- R135, step 1: the ABORT defect of a job that reached IMAGING and ends otherwise than COMPLETED. -/
def handAbort (j : Job) (r : JobResult) (s : State) : State :=
  match abortCause r with
  | some c => handDefect (Defect.handed .abort 0 (64 * j.bp - 1) none none none none (some c)) s
  | none => s

/-- R135: the final state of a job that did not reach IMAGING: FAILED for result FIT or TILE, else CANCELLED. -/
def unimagedState : JobResult → JobState
  | .fit => .failed
  | .tile => .failed
  | .completed => .cancelled
  | .stalled => .cancelled
  | .headLost => .cancelled
  | .clockLost => .cancelled
  | .cancelled => .cancelled

/-- R137: a record enters the done history, which holds the last 8. -/
def pushHistory (r : HistoryRecord) (l : List HistoryRecord) : List HistoryRecord := (r :: l).take 8

/-- R138: the ENDED note of a job as it ended. -/
def endedNote (j : Job) : Report := .plate (.ended j.id j.state j.result j.fit j.verdict j.defects)

/-- R135, steps 5 and 6: the job leaves the plate queue for the done history, as the record given, and its
ENDED note is queued. -/
def archiveJob (j : Job) (defects : List Defect) (s : State) : State :=
  report (endedNote j)
    { s with psch := { s.psch with
        queue := s.psch.queue.filter (fun q => q.id != j.id)
        history := pushHistory ⟨j, defects⟩ s.psch.history
        armed := if s.psch.armed = some j.id then none else s.psch.armed } }

/-- The job record at the end of a job that reached IMAGING (R135, R188). -/
def imagedRecord (j : Job) (r : JobResult) (s : State) : Job :=
  { j with state := .finished, result := some r, verdict := some s.drec.verdict, defects := s.drec.list.length }

/-- The job record at the end of a job that did not (R135). -/
def unimagedRecord (j : Job) (r : JobResult) (f : Option FitFault) : Job :=
  { j with state := unimagedState r, result := some r, fit := f, verdict := none, defects := 0 }

/-- R135, step 4: the job's bound entries are unbound in the order they were bound. -/
def unbindJob (j : Job) (s : State) : State := (boundHandles j).foldl unbindEntry s

/-- R135, steps 1 to 6, for the armed job. The schedule test of step 7 follows in `endArmed`. -/
def endArmedJob (r : JobResult) (f : Option FitFault) (s : State) : State :=
  match armedJob s with
  | none => s
  | some j =>
    if j.state = .imaging then
      let t := fixVerdict (handAbort j r s)
      archiveJob (imagedRecord j r t) t.drec.list (unbindJob j (plateEnd (ruStop t)))
    else archiveJob (unimagedRecord j r f) [] (unbindJob j (dropFill (closePlate s)))

/-! ## Arming (R130 to R132) -/

/-- R130: the chosen job becomes the armed job in ARMING, and DREC opens a plate. -/
def beginArming (j : Job) (s : State) : State :=
  let t := updateJob j.id (fun q => { q with state := .arming }) (openPlate s)
  { t with psch := { t.psch with armed := some j.id } }

/-- R181: the part of the plate that a slot's page takes. -/
def slotGeometry (s : State) (j : Job) (t : JobSlot) : SlotGeometry :=
  let p := resolvedPage s t
  ⟨t.x0, t.x0 + p.2.1 - 1, j.top / 64, j.top / 64 + p.2.2 - 1⟩

/-- R131: a slot with the handle and version of its entry recorded. -/
def bindSlot (s : State) (t : JobSlot) : JobSlot :=
  let h := (resolvedPage s t).1
  { t with bound := some (h, (entry s h).version) }

/-- R131, R181: the job's pages are bound, each distinct entry once, and DREC takes the plate's geometry. -/
def bindJob (j : Job) (s : State) : State :=
  let handles := (j.slots.map (fun t => (resolvedPage s t).1)).dedup
  let geometry := j.slots.map (slotGeometry s j)
  let slots := j.slots.map (bindSlot s)
  let t := updateJob j.id (fun q => { q with slots := slots }) (handles.foldl bindEntry s)
  { t with drec := { t.drec with geometry := geometry } }

/-- R101: the page slots of the job in hand, slot 1 first. -/
def ruSlots (s : State) (j : Job) : List RuSlot :=
  j.slots.zipIdx.map fun p =>
    let h := (p.1.bound.getD (0, 0)).1
    ⟨p.2 + 1, p.1.x0, h, (entry s h).width, (entry s h).bands.length⟩

/-- R138: the STARTED note of a job. -/
def startedNote (j : Job) : Report :=
  .plate (.started j.id j.setIndex j.generation (j.slots.map (fun t => t.bound.getD (0, 0))))

/-- R132: the armed job's tile check has passed, and it becomes IMAGING. -/
def startImaging (s : State) : State :=
  match armedJob s with
  | none => s
  | some j =>
    let t := updateJob j.id (fun q => { q with state := .imaging }) s
    let u := plateStart { t with psch := { t.psch with fresh := false } }
    report (startedNote j) (ruStart ⟨j.wp, j.bp, j.top, j.setIndex, ruSlots u j⟩ u)

/-- R95, R132: the tile check of the armed job's set. It passes at once when the tag names the set's present
generation, and begins a fill otherwise. -/
def tileCheck (j : Job) (s : State) : State :=
  let g := (screenSet s j.setIndex).generation
  let t := updateJob j.id (fun q => { q with generation := g }) s
  if t.sct.tag = some (j.setIndex, g) then startImaging t else beginFill j.setIndex g t

/-- R129: the schedule test. A job whose fit check fails ends at once, and its end makes a further test. The first
argument bounds the jobs that can end so: each leaves the plate queue. -/
def scheduleFrom : Nat → State → State
  | 0, s => s
  | f + 1, s =>
    if s.psch.armed.isSome then s
    else
      match s.psch.queue.find? (eligible s) with
      | none => s
      | some j =>
        match fitFault s j with
        | some ff => scheduleFrom f (endArmedJob .fit (some ff) (beginArming j s))
        | none => tileCheck j (bindJob j (beginArming j s))

/-- R129: a schedule test. -/
def scheduleTest (s : State) : State := scheduleFrom (s.psch.queue.length + 1) s

/-- R135: the armed job ends, and a schedule test follows. -/
def endArmed (r : JobResult) (f : Option FitFault) (s : State) : State :=
  match armedJob s with
  | none => s
  | some _ => scheduleTest (endArmedJob r f s)

/-- R134: a report that ends the job in IMAGING. A report for a job no longer IMAGING is not acted on. -/
def endImaging (r : JobResult) (s : State) : State :=
  match imagingJob s with
  | none => s
  | some _ => endArmed r none s

/-! ## The judgement of a fill (R97) -/

/-- R97: the fill's last threshold has been taken. -/
def judgeFill (f : Fill) (s : State) : State :=
  let x := screenSet s f.setIndex
  let t := { s with sct := { s.sct with fill := none } }
  if f.crc = x.loadCrc then startImaging { t with sct := { t.sct with tag := some (f.setIndex, f.generation) } }
  else endArmed .tile none (setScreenSet f.setIndex { x with state := .suspect, failedCrc := f.crc } t)

/-- SCT's handling of a fill burst's completion (R96 to R98). A burst that a dropped fill left behind is
discarded. -/
def fillDone (stale : Bool) (bs : List Byte) (s : State) : State :=
  if stale then fillPump s
  else
    match s.sct.fill with
    | none => s
    | some f =>
      let t := takeFill f bs s
      match t.sct.fill with
      | none => t
      | some g => if fillComplete t g then judgeFill g t else fillPump t

end Sys2Proof.Machine
end

