-- ==== Sys2Proof/Machine/Operands.lean ====
section
/-! DEFINITION. The operand forms: the payload of each command kind read field by field, and the checks on its
fields that need no other state. -/

namespace Sys2Proof.Machine

/-- A page key in four bytes of a payload. -/
def keyAt (p : List Byte) (i : Nat) : PageKey := ⟨byteAt p i, byteAt p (i + 1), byteAt p (i + 2), byteAt p (i + 3)⟩

/-! ## PAGE.OPEN (R21) -/

/-- The parcel header. Each descriptor is a declared length and a check word. -/
structure ParcelHeader where
  key         : PageKey
  version     : Nat
  supersedes  : Option Nat
  width       : Nat
  descriptors : List (Nat × Half)
  deriving DecidableEq, Repr

/-- The band descriptors of a header of n bands. -/
def descriptorsAt (p : List Byte) (n : Nat) : List (Nat × Half) :=
  (List.range n).map (fun i => (wordAt p (16 + 6 * i), BitVec.ofNat 16 (halfAt p (20 + 6 * i))))

/-- R21: the header of a PAGE.OPEN, or none where a field fails (BAD_FIELD). -/
def parseOpen (p : List Byte) : Option ParcelHeader :=
  let n := halfAt p 14
  let version := halfAt p 8
  let sup := halfAt p 10
  let d := descriptorsAt p n
  if 16 ≤ p.length ∧ p.take 4 = [0x4B, 0x44, 0xB4, 0xBB] ∧ byteAt p 5 ≤ 31 ∧ 1 ≤ byteAt p 6 ∧ byteAt p 7 ≤ 3 ∧
      version ≤ 65534 ∧ (sup = 65535 ∨ sup < version) ∧ 64 ≤ halfAt p 12 ∧ halfAt p 12 ≤ 16384 ∧ 1 ≤ n ∧ n ≤ 384 ∧
      p.length = 16 + 6 * n ∧ d.all (fun x => decide (1 ≤ x.1 ∧ x.1 ≤ 1048576)) = true then
    some ⟨keyAt p 4, version, if sup = 65535 then none else some sup, halfAt p 12, d⟩
  else none

/-! ## PAGE.BAND (R27) -/

/-- The fields of a PAGE.BAND. -/
structure ChunkOperands where
  handle : Nat
  band   : Nat
  offset : Nat
  last   : Bool
  chunk  : List Byte
  deriving DecidableEq, Repr

/-- R27, first check: chunk length 1..4080, handle 0..63, flags 0 or 1. -/
def parseBand (p : List Byte) : Option ChunkOperands :=
  if 9 ≤ p.length ∧ p.length ≤ 4088 ∧ byteAt p 0 ≤ 63 ∧ byteAt p 7 ≤ 1 then
    some ⟨byteAt p 0, halfAt p 1, wordAt p 3, byteAt p 7 == 1, p.drop 8⟩
  else none

/-! ## PAGE.CLOSE, PAGE.QUERY, PAGE.DROP (R35, R60, R63) -/

/-- R35: the handle of a PAGE.CLOSE (log entry 12: a payload of another length is BAD_FIELD). -/
def parseClose (p : List Byte) : Option Nat := if p.length = 1 ∧ byteAt p 0 ≤ 63 then some (byteAt p 0) else none

/-- R63: the handle and first band index of a PAGE.QUERY. -/
def parsePageQuery (p : List Byte) : Option (Nat × Nat) :=
  if p.length = 3 ∧ byteAt p 0 ≤ 63 then some (byteAt p 0, halfAt p 1) else none

/-- R60: the handle, page key and version of a PAGE.DROP. -/
def parseDrop (p : List Byte) : Option (Nat × PageKey × Nat) :=
  if p.length = 7 ∧ byteAt p 0 ≤ 63 then some (byteAt p 0, keyAt p 1, halfAt p 5) else none

/-! ## Screen sets (R87, R89, R91, R99) -/

/-- The fields of a SCREEN.BEGIN. -/
structure ScreenShape where
  setIndex : Nat
  width    : Nat
  height   : Nat
  shift    : Nat
  minDot   : Nat
  maxDot   : Nat
  curve    : List Nat
  deriving DecidableEq, Repr

/-- R87, first check: payload of 45 bytes, set index 0..7. -/
def parseScreenBegin (p : List Byte) : Option ScreenShape :=
  if p.length = 45 ∧ byteAt p 0 ≤ 7 then
    some ⟨byteAt p 0, halfAt p 1, halfAt p 3, halfAt p 5, halfAt p 7, halfAt p 9,
      (List.range 17).map (fun i => halfAt p (11 + 2 * i))⟩
  else none

/-- R87, third and fourth checks: the shape and the dot clamps. -/
def ScreenShape.sound (x : ScreenShape) : Bool :=
  decide (1 ≤ x.width ∧ x.width ≤ 2048 ∧ 1 ≤ x.height ∧ x.height ≤ 256 ∧ x.width * x.height ≤ 65536 ∧
    x.shift ≤ x.width - 1 ∧ x.minDot ≤ 4094 ∧ 1 ≤ x.maxDot ∧ x.maxDot ≤ 4095 ∧ x.minDot < x.maxDot)

/-- R89, first check: the set index, the starting index and the thresholds of a SCREEN.TILE. -/
def parseTile (p : List Byte) : Option (Nat × Nat × List Nat) :=
  if p.length % 2 = 1 ∧ 5 ≤ p.length ∧ p.length ≤ 4083 ∧ byteAt p 0 ≤ 7 then
    some (byteAt p 0, halfAt p 1, halvesOf (p.drop 3))
  else none

/-- R91: the set index and the expected CRC of a SCREEN.END. -/
def parseScreenEnd (p : List Byte) : Option (Nat × Half) :=
  if p.length = 3 ∧ byteAt p 0 ≤ 7 then some (byteAt p 0, BitVec.ofNat 16 (halfAt p 1)) else none

/-- R99: the set index of a SCREEN.QUERY. -/
def parseScreenQuery (p : List Byte) : Option Nat :=
  if p.length = 1 ∧ byteAt p 0 ≤ 7 then some (byteAt p 0) else none

/-! ## Plates (R124, R139, R142, R143) -/

/-- The page slot at an offset of a PLATE.QUEUE. -/
def jobSlotAt (p : List Byte) (i : Nat) : JobSlot := ⟨keyAt p i, halfAt p (i + 4), none⟩

/-- R124, first check, for one slot. -/
def jobSlotSound (separation : Nat) (t : JobSlot) : Bool :=
  decide (t.key.section_ ≤ 31 ∧ 1 ≤ t.key.page ∧ t.key.separation = separation ∧ t.x0 ≤ 32767)

/-- R124, first check: with two slots, the two x0 differ. -/
def x0sDiffer (l : List JobSlot) : Bool :=
  match l with
  | [t, u] => t.x0 != u.x0
  | _ => true

/-- R124, R125: the job of a PLATE.QUEUE as it is queued, or none where a field fails its first check. Its defect
count is 0 until the job ends (log entry 28). -/
def parseQueue (p : List Byte) : Option Job :=
  let k := byteAt p 11
  let slots := (List.range k).map (fun i => jobSlotAt p (12 + 6 * i))
  if 12 ≤ p.length ∧ (k = 1 ∨ k = 2) ∧ p.length = 12 + 6 * k ∧ 1 ≤ halfAt p 0 ∧ byteAt p 2 ≤ 3 ∧ byteAt p 3 ≤ 7 ∧
      byteAt p 4 ≤ 1 ∧ halfAt p 5 % 64 = 0 ∧ halfAt p 5 ≤ 32704 ∧ 1 ≤ halfAt p 7 ∧ halfAt p 7 ≤ 512 ∧
      64 ≤ halfAt p 9 ∧ halfAt p 9 ≤ 32768 ∧ slots.all (jobSlotSound (byteAt p 2)) = true ∧ x0sDiffer slots = true then
    some { id := halfAt p 0, separation := byteAt p 2, setIndex := byteAt p 3,
           policy := if byteAt p 4 = 0 then .hold else .run, top := halfAt p 5, bp := halfAt p 7, wp := halfAt p 9,
           slots := slots, state := .queued, generation := 0, cancelRequested := false, result := none, fit := none,
           verdict := none, defects := 0 }
  else none

/-- R139, R142: the job id of a PLATE.CANCEL or a PLATE.QUERY. -/
def parseJobId (p : List Byte) : Option Nat := if p.length = 2 then some (halfAt p 0) else none

/-- R143: a PLATE.QUERY with id 0, which lists the jobs. -/
def isListQuery (p : List Byte) : Bool := parseJobId p == some 0

/-! ## Head and part (R145, R170, R193) -/

/-- The fields of a HEAD.SETUP. -/
structure HeadSettings where
  nrev       : Nat
  lead       : Nat
  swath      : Nat
  half       : Nat
  dwellLimit : Nat
  watermark  : Nat
  enables    : Word
  windows    : List (Nat × Nat)
  deriving DecidableEq, Repr

/-- R145, first check: payload of 140 bytes. -/
def parseHeadSetup (p : List Byte) : Option HeadSettings :=
  if p.length = 140 then
    some ⟨halfAt p 0, byteAt p 2, byteAt p 3, byteAt p 4, byteAt p 5, halfAt p 6, BitVec.ofNat 32 (wordAt p 8),
      (List.range 32).map (fun k => (halfAt p (12 + 4 * k), halfAt p (14 + 4 * k)))⟩
  else none

/-- R145, third and fourth checks. -/
def HeadSettings.sound (x : HeadSettings) : Bool :=
  decide (1024 ≤ x.nrev ∧ 1 ≤ x.lead ∧ x.lead ≤ 255 ∧ x.swath ≤ 1 ∧ x.half ≤ 1) &&
    x.windows.all (fun w => decide (w.1 ≤ 1023 ∧ w.2 ≤ 1023 ∧ w.1 ≤ w.2))

/-- R146: the dwell limit as stored. -/
def clampDwell (n : Nat) : Nat := if n = 0 then 1 else if 15 < n then 15 else n

/-- R146: the FIFO watermark as stored. -/
def clampWatermark (n : Nat) : Nat :=
  let v := if n < 64 then 64 else if 1984 < n then 1984 else n
  v / 64 * 64

/-- R170: the channel mask of a CHANNEL.CLEAR. -/
def parseMask (p : List Byte) : Option Word := if p.length = 4 then some (BitVec.ofNat 32 (wordAt p 0)) else none

/-- The six values of a CONFIGURE, as sent or as stored (R193). -/
structure Settings where
  storeMiB  : Nat
  interval  : Nat
  watchdog  : Nat
  reception : Nat
  tolerance : Nat
  clockLoss : Nat
  deriving DecidableEq, Repr

/-- R193, first check: payload of 7 bytes. -/
def parseConfigure (p : List Byte) : Option Settings :=
  if p.length = 7 then some ⟨halfAt p 0, byteAt p 2, byteAt p 3, byteAt p 4, byteAt p 5, byteAt p 6⟩ else none

/-- R193, third and fourth checks: the store size and the refresh interval. -/
def Settings.sound (x : Settings) : Bool :=
  [64, 128, 256, 512, 1024].contains x.storeMiB && decide (10 ≤ x.interval ∧ x.interval ≤ 159)

/-- R193: the tuning values are clamped. -/
def Settings.clamped (x : Settings) : Settings :=
  { x with
    watchdog := if 60 < x.watchdog then 60 else x.watchdog
    reception := if x.reception = 0 then 1 else x.reception
    clockLoss := if x.clockLoss = 0 then 1 else x.clockLoss }

end Sys2Proof.Machine
end

