-- ==== Sys2Proof/Machine/Head.lean ====
section
/-! DEFINITION. The head commands and head return records (chapters 8 and 9): HEAD.SETUP, CHANNEL.CLEAR,
MONITOR.TEST, the check for head loss, the judging of readings, and the completion of a test. -/

namespace Sys2Proof.Machine

/-- The channel of a number. -/
def channelAt (s : State) (k : Nat) : Channel := s.hmon.channels.getD k Channel.reset

/-- HMON rewrites a channel. -/
def setChannel (k : Nat) (c : Channel) (s : State) : State :=
  { s with hmon := { s.hmon with channels := s.hmon.channels.set k c } }

/-! ## HEAD.SETUP (R145, R146, R165) -/

/-- R146, R165: the windows and enables stored, each channel's state and suspect reading kept. -/
def storeWindows (x : HeadSettings) (l : List Channel) : List Channel :=
  l.mapIdx fun k c =>
    { c with low := (x.windows.getD k (0, 0)).1, high := (x.windows.getD k (0, 0)).2, enabled := x.enables.getLsbD k }

/-- R146: an accepted HEAD.SETUP stores its values. -/
def storeHead (x : HeadSettings) (s : State) : State :=
  { s with
    imp := { s.imp with
      nrev := x.nrev
      lead := x.lead
      swath := if x.swath = 0 then .full else .half
      half := x.half
      dwellLimit := clampDwell x.dwellLimit
      watermark := clampWatermark x.watermark }
    hmon := { s.hmon with channels := storeWindows x s.hmon.channels } }

/-- R145, R176: a job is ARMING or IMAGING, or a MONITOR.TEST is pending. -/
def headBusy (s : State) : Bool := s.psch.armed.isSome || s.hmon.test.isSome

/-- HEAD.SETUP as IMP and HMON take it, "in UNCONFIGURED as in READY" (R145). -/
def runHeadSetup (f : Frame) (s : State) : State :=
  match parseHeadSetup f.payload with
  | none => answer f rBadField [] s
  | some x =>
    if headBusy s then answer f rBusy [] s
    else if x.sound then
      answer f rOk (u8 (clampDwell x.dwellLimit) ++ u16 (clampWatermark x.watermark)) (storeHead x s)
    else answer f rBadField [] s

/-- HEAD_SETUP (R145). -/
def execHeadSetup (s : State) : Host.Outcome State Fault Refusal := serve (isCommand 0x40) runHeadSetup s

/-! ## CHANNEL.CLEAR (R170) -/

/-- R170: a channel named in the mask that is SUSPECT or FAULTED becomes OK. -/
def clearChannel (m : Word) (k : Nat) (c : Channel) : Channel :=
  if m.getLsbD k = true ∧ c.state ≠ .ok then { c with state := .ok, suspect := 0 } else c

/-- R170: the mask of the channels whose state the command changes. -/
def clearedMask (m : Word) (s : State) : Word :=
  maskOf (s.hmon.channels.mapIdx (fun k c => m.getLsbD k && c.state != .ok))

/-- R170: the channels after a CHANNEL.CLEAR. -/
def clearChannels (m : Word) (s : State) : State :=
  { s with hmon := { s.hmon with channels := s.hmon.channels.mapIdx (clearChannel m) } }

/-- CHANNEL.CLEAR as HMON takes it in READY (R170). -/
def runChannelClear (f : Frame) (s : State) : State :=
  match parseMask f.payload with
  | none => answer f rBadField [] s
  | some m =>
    let t := clearChannels m s
    answer f rOk (maskBytes (clearedMask m s) ++ maskBytes (faultMask t)) t

/-- CHANNEL_CLEAR (R170). -/
def execChannelClear (s : State) : Host.Outcome State Fault Refusal :=
  serve (isCommand 0x41) (whenReady runChannelClear) s

/-! ## MONITOR.TEST (R176 to R178) -/

/-- MONITOR.TEST as HMON takes it in READY (R176): accepted as pending, its reply place reserved, or refused. -/
def runMonitorTest (f : Frame) (s : State) : State :=
  if !f.payload.isEmpty then answer f rBadField [] s
  else if headBusy s then answer f rBusy [] s
  else
    { s with
      lp := { s.lp with replyReserved := s.lp.replyReserved ++ [f.tag] }
      hmon := { s.hmon with test := some (f.tag, 0) } }

/-- MONITOR_TEST (R176). -/
def execMonitorTest (s : State) : Host.Outcome State Fault Refusal :=
  serve (isCommand 0x42) (whenReady runMonitorTest) s

/-- A pending test ends: its reply is finished in its reserved place, it is no longer pending, and a schedule test
follows (R177, R178, R129). -/
def finishTest (code : Byte) (fields : List Byte) (s : State) : State :=
  match s.hmon.test with
  | none => s
  | some (tag, _) =>
    scheduleTest { s with
      lp := { s.lp with
        replyReserved := s.lp.replyReserved.erase tag
        replyFinished := s.lp.replyFinished ++ [⟨replyKind 0x42, tag, code :: fields⟩] }
      hmon := { s.hmon with test := none } }

/-- R178: a pending test is abandoned, with reply NOT_READY and no further fields. -/
def abandonTest (s : State) : State := finishTest rNotReady [] s

/-- R177: the mask of the enabled channels for which `p` holds. -/
def enabledMask (s : State) (p : Nat → Channel → Bool) : Word :=
  maskOf (s.hmon.channels.mapIdx (fun k c => c.enabled && p k c))

/-- R177: the five masks of a completed test: the channels tested, those whose high and low sides failed to
trip, and those whose high and low sides were untestable. -/
def testFields (s : State) : List Byte :=
  maskBytes (enabledMask s (fun _ _ => true)) ++
    maskBytes (enabledMask s (fun k c => c.high != 1023 && s.hmon.highFailed.getLsbD k)) ++
    maskBytes (enabledMask s (fun k c => c.low != 0 && s.hmon.lowFailed.getLsbD k)) ++
    maskBytes (enabledMask s (fun _ c => c.high == 1023)) ++
    maskBytes (enabledMask s (fun _ c => c.low == 0))

/-! ## Head return records (R161 to R171) -/

/-- R163: the carriage sweep count is neither the steps ordered nor, when that is at least 1, one less. -/
def carriageWrong (count steps : Nat) : Bool := count != steps && !(decide (1 ≤ steps) && count == steps - 1)

/-- R163: a record that shows the loss of the head. -/
def showsLoss (r : HeadRecord) (steps : Nat) : Bool :=
  !r.drumReady || !r.plateLoaded || carriageWrong r.carriage.toNat steps

/-- R163: IMP checks a record while a job is IMAGING without END decided. -/
def checkHead (r : HeadRecord) (s : State) : State :=
  if (imagingJob s).isSome = true ∧ s.imp.endDecided = false ∧ showsLoss r s.imp.steps = true then
    endImaging .headLost s
  else s

/-- R171, step 2: a plate loaded rise makes DREC drive both lines low (R189). -/
def clearLines (s : State) : State := { s with drec := { s.drec with mark := false, reject := false } }

/-- R171: the record's plate loaded and drum ready values are compared with those held, and a change is stored
and told. -/
def takeHeadState (r : HeadRecord) (s : State) : State :=
  if r.plateLoaded = s.hmon.plateLoaded ∧ r.drumReady = s.hmon.drumReady then s
  else
    let rise := r.plateLoaded && !s.hmon.plateLoaded
    let t := { s with hmon := { s.hmon with plateLoaded := r.plateLoaded, drumReady := r.drumReady } }
    let note : Report :=
      .head (.headState r.plateLoaded r.drumReady s.hmon.plateLoaded s.hmon.drumReady r.carriage.toNat) (faultMask t)
    let u := report note t
    let v := if rise then clearLines u else u
    scheduleTest (if rise then { v with psch := { v.psch with fresh := true } } else v)

/-- R165, section 9.8: a reading is found out of a channel's window by the comparator of its side, unless that
comparator has failed. -/
def outOfWindow (m : Hmon) (k : Nat) (c : Channel) (reading : Nat) : Bool :=
  (decide (c.high < reading) && !m.highFailed.getLsbD k) || (decide (reading < c.low) && !m.lowFailed.getLsbD k)

/-- The plate line that a channel exposed in a revolution (R169). -/
def lineOfChannel (v : Revolution) (k : Nat) : Nat := v.firstLine + k - v.lowChannel

/-- R166, R167, R168: the reading of channel k is judged against the described revolution `v`. `job` is the id of
the job IMAGING when the record was taken, or 0. -/
def judgeReading (r : HeadRecord) (v : Revolution) (job : Nat) (s : State) (k : Nat) : State :=
  match r.readings[k]? with
  | none => s
  | some x =>
    let c := channelAt s k
    if v.driven.getLsbD k = true ∧ c.enabled = true then
      match c.state with
      | .ok =>
        if outOfWindow s.hmon k c x.toNat then setChannel k { c with state := .suspect, suspect := x.toNat } s else s
      | .suspect =>
        if outOfWindow s.hmon k c x.toNat then
          let t := setChannel k { c with state := .faulted } s
          let line := if v.live then lineOfChannel v k else 65535
          report (.head (.channelFaulted k c.low c.high c.suspect x.toNat job line) (faultMask t)) t
        else setChannel k { c with state := .ok } s
      | .faulted => s
    else s

/-- R169: the CHANNEL defect of a driven FAULTED channel. -/
def handChannel (v : Revolution) (s : State) (k : Nat) : State :=
  if v.driven.getLsbD k = true ∧ (channelAt s k).state = .faulted then
    handDefect (Defect.handed .channel (lineOfChannel v k) (lineOfChannel v k) none (some k) none none none) s
  else s

/-- R166 to R169: the readings are judged in channel order, and then the CHANNEL defects are handed in channel
order, when the described revolution was an EXPOSE revolution whose job is still IMAGING. -/
def judgeRecord (r : HeadRecord) (v : Revolution) (job : Nat) (s : State) : State :=
  if v.decision = .expose then
    let t := (List.range 32).foldl (judgeReading r v job) s
    if v.live then (List.range 32).foldl (handChannel v) t else t
  else s

/-- R162, R163, R166, R171, R177: IMP takes a record and hands it to HMON with the description of the revolution
before. -/
def takeRecord (r : HeadRecord) (s : State) : State :=
  let job := ((imagingJob s).map Job.id).getD 0
  let t := checkHead r { s with imp := { s.imp with recordTaken := true } }
  let u := takeHeadState r t
  if u.hmon.test.isSome then finishTest rOk (testFields u) u else judgeRecord r t.imp.prev job u

/-- HEAD_RETURN_RECORD (R162): the first record of a revolution is taken, a further one is discarded. While the
part is held in reset no record is taken (R196). -/
def execHeadReturnRecord (r : HeadRecord) (s : State) : Host.Outcome State Fault Refusal :=
  if s.resetHeld = true ∨ s.imp.recordTaken = true then .next s else .next (takeRecord r s)

end Sys2Proof.Machine
end

