-- ==== Sys2Proof/Machine/Drum.lean ====
section
/-! DEFINITION. The drum's events (chapters 8 and 9): the index with its closing of a revolution and its decision,
the slot clock with the overdue and the lost index, the clock-loss timer, and a test's fourth index. -/

namespace Sys2Proof.Machine

/-! ## Closing a revolution (R151, R172) -/

/-- R158: the UNDERRUN defect of the revolution that ends. -/
def handUnderrun (s : State) : State :=
  match s.imp.underrun with
  | some x =>
    handDefect (Defect.handed .underrun s.imp.rev.firstLine s.imp.rev.lastLine (some x) none none none none) s
  | none => s

/-- The DRUM_SPEED defect of the revolution under way (R172). -/
def handDrumSpeed (s : State) : State :=
  handDefect (Defect.handed .drumSpeed s.imp.rev.firstLine s.imp.rev.lastLine none none none none none) s

/-- R172: the revolution that ends is short. -/
def shortRevolution (s : State) : Bool := decide (s.hmon.slotCount < s.hmon.nrev - s.hmon.tolerance)

/-- R151, steps 2 and 3: the sweep is counted and its ring slot released at its last exposing revolution. -/
def releaseSweep (s : State) : State :=
  let t := { s with imp := { s.imp with exposed := s.imp.exposed + 1, steps := s.imp.steps + 1 } }
  if t.imp.swath = .full ∨ t.imp.rev.pass = 1 then ruLook (setRing t.imp.rev.ringSlot .free t) else t

/-- R151: the closing of an EXPOSE revolution of a job still IMAGING. -/
def closeExpose (s : State) : State :=
  let t := handUnderrun s
  emptyFifo (releaseSweep (if shortRevolution t then handDrumSpeed t else t))

/-- R151: the revolution that has just ended is closed. -/
def closeRevolution (s : State) : State :=
  let t := if s.imp.rev.decision = .expose ∧ s.imp.rev.live = true then closeExpose s else s
  { t with imp := { t.imp with recordTaken := false, underrun := none } }

/-- R172, R178: HMON at an index. The revolution that begins is measured against the stored Nrev (R146). -/
def hmonIndex (s : State) : State :=
  { s with hmon := { s.hmon with
      nrev := s.imp.nrev
      slotCount := 1
      overdue := false
      indexLost := false
      test := s.hmon.test.map (fun p => (p.1, p.2 + 1)) } }

/-! ## The decision (R152 to R154) -/

/-- A revolution that exposes nothing begins with its frame word in slot 0 (R148, R149). -/
def beginRevolution (d : Decision) (sweep : Nat) (live : Bool) (s : State) : State :=
  { s with imp := { s.imp with
      prev := s.imp.rev
      rev := { Revolution.idle with decision := d, sweep := sweep, live := live }
      headWord := .frame d sweep 0 } }

/-- An EXPOSE revolution of the sweep next to be exposed (R149, R150, R152): its frame word goes in slot 0 and its
refill run begins (R156). -/
def beginExpose (s : State) : State :=
  let m := s.imp
  let e := m.exposed
  impPump { s with imp := { m with
      prev := m.rev
      rev := {
        decision := .expose
        sweep := e
        ringSlot := ringSlotOf m.swath e
        pass := passOf m.swath e
        firstLine := firstLineOf m.swath e
        lastLine := firstLineOf m.swath e + sweepLines m.swath - 1
        driven := drivenOf m.swath m.half
        lowChannel := lowChannelOf m.swath m.half
        live := true
        dark := false
        slot := 0 }
      headWord := .frame .expose e (sweepLines m.swath)
      firstExpose := true
      dwellCount := 0
      nextSend := 0
      nextFetch := 0
      refill := true } }

/-- R152: an END decision for the job in IMAGING, and its report to PSCH. -/
def decideEnd (r : JobResult) (s : State) : State :=
  let t := beginRevolution .endPlate s.imp.exposed true s
  endImaging r { t with imp := { t.imp with endDecided := true } }

/-- R153: the ring slot of the sweep next to be exposed is not READY. -/
def decideDwell (s : State) : State :=
  if s.imp.firstExpose then
    let t := { s with imp := { s.imp with dwellCount := s.imp.dwellCount + 1 } }
    if t.imp.dwellCount ≤ t.imp.dwellLimit then beginRevolution .dwell t.imp.exposed true t else decideEnd .stalled t
  else beginRevolution .dwell s.imp.exposed true s

/-- R152: the decision for the job in IMAGING, by the first case that holds. -/
def decideImaging (j : Job) (s : State) : State :=
  let e := s.imp.exposed
  let k := ringSlotOf s.imp.swath e
  if s.imp.endDecided then beginRevolution .endPlate e true s
  else if s.imp.cancelPending then decideEnd .cancelled s
  else if e = sweepCount s.imp.swath j.bp then decideEnd (if j.cancelRequested then .cancelled else .completed) s
  else if s.imp.swath = .half ∧ e % 2 = 1 then beginExpose s
  else if ringState s k = .ready then beginExpose (setRing k .exposing s)
  else decideDwell s

/-- R154: the decision when no job is IMAGING: a closing END when one is owed, and IDLE otherwise. -/
def decideIdle (s : State) : State :=
  match s.imp.closing with
  | some e =>
    let t := beginRevolution .endPlate e false s
    { t with imp := { t.imp with closing := none } }
  | none => beginRevolution .idle 0 false s

/-- R150: IMP decides the revolution that begins. -/
def decideRevolution (s : State) : State :=
  match imagingJob s with
  | some j => decideImaging j s
  | none => decideIdle s

/-- R178: the fourth index event after a test's acceptance, with no record since, abandons it. -/
def abandonIfFourth (s : State) : State :=
  match s.hmon.test with
  | some (_, n) => if 4 ≤ n then abandonTest s else s
  | none => s

/-- A DRUM_INDEX event (R150): the revolution that ended is closed and judged, and the one that begins decided
and framed. A test that has waited through four indices is abandoned then (log entry 13). -/
def indexEvent (s : State) : State := abandonIfFourth (decideRevolution (hmonIndex (closeRevolution s)))

/-- DRUM_INDEX (R150). While the part is held in reset the event is not taken (R196). -/
def execDrumIndex (s : State) : Host.Outcome State Fault Refusal :=
  if s.resetHeld then .next s else .next (indexEvent s)

/-- MONITOR_TEST_ABANDON (R178): the DRUM_INDEX event that is the fourth since a pending test's acceptance. Where
no test is pending with three indices counted, the step does not come about (log entries 1 and 14). -/
def execMonitorTestAbandon (s : State) : Host.Outcome State Fault Refusal :=
  if s.resetHeld = false ∧ (s.hmon.test.map Prod.snd) = some 3 then .next (indexEvent s) else .next s

/-! ## The slot clock (R148, R172, R173) -/

/-- R173: the slot count at which the revolution's index is overdue. -/
def overdueBound (s : State) : Nat := s.hmon.nrev + s.hmon.tolerance + 1

/-- An EXPOSE revolution of a job still IMAGING is under way (R172, R173). -/
def exposingNow (s : State) : Bool := s.imp.rev.decision == .expose && s.imp.rev.live

/-- R173: the index is overdue. -/
def markOverdue (s : State) : State :=
  let t := { s with hmon := { s.hmon with overdue := true } }
  if exposingNow t then handDrumSpeed t else t

/-- R173, R174: HMON's clock-loss report to PSCH, which ends the job in IMAGING, and its note. Nothing is
reported with no job IMAGING. -/
def reportClockLoss (clock : ClockName) (s : State) : State :=
  match imagingJob s with
  | none => s
  | some j =>
    let t := endImaging .clockLost s
    report (.head (.clockLost clock j.id t.hmon.slotCount) (faultMask t)) t

/-- R173: the index is taken as lost. -/
def markLost (s : State) : State :=
  reportClockLoss .drumIndex { s with hmon := { s.hmon with indexLost := true } }

/-- R172, R173: HMON counts a slot, once the first index has set the count to 1 (R179, log entry 15), and acts
on the two bounds. -/
def hmonSlot (s : State) : State :=
  if s.hmon.slotCount = 0 then s
  else
    let t := { s with hmon := { s.hmon with slotCount := countSlot s.hmon.slotCount } }
    let u := if t.hmon.slotCount = overdueBound t ∧ t.hmon.overdue = false then markOverdue t else t
    if u.hmon.slotCount = 2 * u.hmon.nrev ∧ u.hmon.indexLost = false then markLost u else u

/-- A SLOT_CLK event (R148): the next slot begins, and HMON counts it. The clock-loss timer, restarted by the
event (R174), runs as before (log entry 3). -/
def slotEvent (s : State) : State := hmonSlot (impSlot s)

/-- SLOT_CLK (R148). While the part is held in reset the event is not taken (R196). -/
def execSlotClk (s : State) : Host.Outcome State Fault Refusal :=
  if s.resetHeld then .next s else .next (slotEvent s)

/-- INDEX_OVERDUE (R173): the SLOT_CLK event that brings the slot count to Nrev + tolerance + 1 with overdue clear.
In any other state the step does not come about (log entries 1 and 14). -/
def execIndexOverdue (s : State) : Host.Outcome State Fault Refusal :=
  if s.resetHeld = false ∧ s.hmon.slotCount ≠ 0 ∧ s.hmon.slotCount + 1 = overdueBound s ∧ s.hmon.overdue = false then
    .next (slotEvent s)
  else .next s

/-- INDEX_LOST (R173): the SLOT_CLK event that brings the slot count to 2·Nrev in a revolution not yet reported.
In any other state the step does not come about (log entries 1 and 14). -/
def execIndexLost (s : State) : Host.Outcome State Fault Refusal :=
  if s.resetHeld = false ∧ s.hmon.slotCount ≠ 0 ∧ s.hmon.slotCount + 1 = 2 * s.hmon.nrev ∧ s.hmon.indexLost = false then
    .next (slotEvent s)
  else .next s

/-! ## The clock-loss timer (R174) -/

/-- CLOCK_LOSS_EXPIRY (R174): the timer, which runs once CONFIGURE has given its period, expires and is started
again. A job in IMAGING ends, and a pending test is abandoned (R178). -/
def execClockLossExpiry (s : State) : Host.Outcome State Fault Refusal :=
  if s.resetHeld = true ∨ s.hmon.clockLoss = none then .next s
  else .next (abandonTest (reportClockLoss .slotClk s))

end Sys2Proof.Machine
end

