-- ==== Sys2Proof/Machine/Link.lean ====
section
/-! DEFINITION. LP's own steps (chapter 1): bytes and frames in, the frame timer, the watchdog, frames out, and
the commands that LP answers itself. -/

namespace Sys2Proof.Machine

/-- A frame is discarded: one link error, and the framer hunts (R4, R5, R6, R7). -/
def discardFrame (s : State) : State :=
  { s with lp := { s.lp with framer := .hunting, linkErrors := countLinkError s.lp.linkErrors } }

/-- R8: a valid frame enters the tail of the command queue, or, when the queue holds 8, is discarded and sets
COMMAND_OVERRUN. -/
def Lp.offer (l : Lp) (f : Frame) : Lp :=
  if l.cmdQueue.length < 8 then { l with cmdQueue := l.cmdQueue ++ [f] } else { l with overrun := true }

/-- R6, R17, R18: a valid frame restarts the watchdog, clears UNATTENDED, lowers LINK_LOST, is offered to the
command queue, and the framer hunts. -/
def Lp.validFrame (l : Lp) (f : Frame) : Lp :=
  { l with
    framer := .hunting
    watchdogRunning := decide (l.watchdogPeriod ≠ 0)
    unattended := false
    linkLost := false }.offer f

/-- A valid frame (R6). The clearing of UNATTENDED is an event of the schedule (R18, R129). -/
def acceptFrame (f : Frame) (s : State) : State :=
  let t := { s with lp := s.lp.validFrame f }
  if s.lp.unattended then scheduleTest t else t

/-- The LENGTH of the frame whose first bytes these are, SYNC first (R1). -/
def frameLength (bs : List Byte) : Nat := halfAt bs 1

/-- R6: a complete frame is judged by its CRC over LENGTH, KIND, TAG and payload. -/
def frameSound (bs : List Byte) : Bool :=
  crc16 ((bs.drop 1).take (4 + frameLength bs)) == BitVec.ofNat 16 (halfAt bs (5 + frameLength bs))

/-- The KIND, TAG and payload of a complete frame (R1). -/
def frameOf (bs : List Byte) : Frame := ⟨bs.getD 3 0, bs.getD 4 0, (bs.drop 5).take (frameLength bs)⟩

/-- The framer takes a byte (R3, R4, R6). -/
def receiveByte (b : Byte) (s : State) : State :=
  match s.lp.framer with
  | .hunting => if b = 0xA7#8 then { s with lp := { s.lp with framer := .frame [b] } } else s
  | .frame bytes =>
    let bs := bytes ++ [b]
    if bs.length = 3 ∧ 4096 < frameLength bs then discardFrame s
    else if 3 ≤ bs.length ∧ bs.length = 7 + frameLength bs then
      if frameSound bs then acceptFrame (frameOf bs) s else discardFrame s
    else { s with lp := { s.lp with framer := .frame bs } }

/-- Whether the next byte is its frame's last (R6). -/
def lastByteDue (s : State) : Bool :=
  match s.lp.framer with
  | .hunting => false
  | .frame bytes => decide (3 ≤ bytes.length ∧ bytes.length + 1 = 7 + frameLength bytes)

/-- BYTE_RECEIVED (R3, R4): a byte arrives before its frame's last. Where it proves to be the last, the framer
takes it as R6 gives (log entry 1). While the part is held in reset no byte is received (R196). -/
def execByteReceived (b : Byte) (s : State) : Host.Outcome State Fault Refusal :=
  if s.resetHeld then .next s else .next (receiveByte b s)

/-- FRAME_RECEIVED (R6): the frame's last byte arrives before its timer expires. Where no frame awaits its last
byte, the step does not come about (log entry 1). -/
def execFrameReceived (b : Byte) (s : State) : Host.Outcome State Fault Refusal :=
  if s.resetHeld ∨ lastByteDue s = false then .next s else .next (receiveByte b s)

/-- FRAME_TIMER_EXPIRY (R5): the timer runs while the framer is in FRAME. -/
def execFrameTimerExpiry (s : State) : Host.Outcome State Fault Refusal :=
  match s.lp.framer with
  | .hunting => .next s
  | .frame _ => if s.resetHeld then .next s else .next (discardFrame s)

/-- WATCHDOG_EXPIRY (R18). -/
def execWatchdogExpiry (s : State) : Host.Outcome State Fault Refusal :=
  if s.resetHeld ∨ s.lp.watchdogRunning = false then .next s
  else .next { s with lp := { s.lp with unattended := true, linkLost := true, watchdogRunning := false } }

/-- BEGIN_TRANSMISSION (R15): with the line free, the oldest finished reply begins, or else the report at the
head of the report queue. Beginning a frame removes it from its queue. -/
def execBeginTransmission (s : State) : Host.Outcome State Fault Refusal :=
  if s.resetHeld ∨ s.lp.tx.isSome then .next s
  else
    match s.lp.replyFinished, s.lp.reports with
    | r :: rest, _ => .next { s with lp := { s.lp with replyFinished := rest, tx := some r.frame } }
    | [], r :: rest => .next { s with lp := { s.lp with reports := rest, tx := some r.frame } }
    | [], [] => .next s

/-- FRAME_SENT (R15): the last byte of the outgoing frame is sent and the line is free. -/
def execFrameSent (s : State) : Host.Outcome State Fault Refusal :=
  if s.resetHeld then .next s else .next { s with lp := { s.lp with tx := none } }

/-- TAG_ZERO (R10): a taken command with TAG 0 is answered BAD_FIELD with TAG 0, whatever its KIND. -/
def execTagZero (s : State) : Host.Outcome State Fault Refusal :=
  serve (fun f => f.tag == 0) (fun f t => answer f rBadField [] t) s

/-- UNKNOWN_KIND (R10): a taken command with a non-zero TAG whose KIND is no command of R2. -/
def execUnknownKind (s : State) : Host.Outcome State Fault Refusal :=
  serve (fun f => f.tag != 0 && !isCommandKind f.kind) (fun f t => answer f rUnknownKind [] t) s

end Sys2Proof.Machine
end

