-- ==== Sys2Proof/Machine/Pages.lean ====
section
/-! DEFINITION. The page commands (chapters 2 and 3): PAGE.OPEN, PAGE.BAND, PAGE.CLOSE, PAGE.QUERY, PAGE.DROP,
and the reception timeout. -/

namespace Sys2Proof.Machine

/-- A schedule test follows where the event changed the state of an entry of the directory or released one
(R50, R129). -/
def testIfEntriesChanged (before s : State) : State :=
  if before.pdir.entries.map Entry.state = s.pdir.entries.map Entry.state then s else scheduleTest s

/-! ## PAGE.OPEN (R21 to R25) -/

/-- The better of two candidates for STALE_VERSION's reply: the one with the higher version (R22). -/
def higherVersion (s : State) (a : Option Nat) (h : Nat) : Option Nat :=
  match a with
  | none => some h
  | some g => if (entry s g).version < (entry s h).version then some h else some g

/-- R22: the entry that makes a PAGE.OPEN STALE_VERSION: of the entries of the key in RECEIVING, COMPLETE or
DAMAGED with a version not below the new one, that with the highest version. -/
def staleEntry (s : State) (k : PageKey) (version : Nat) : Option Nat :=
  ((List.range s.pdir.entries.length).filter fun h =>
    (entry s h).current && (entry s h).key == k && decide (version ≤ (entry s h).version)).foldl (higherVersion s) none

/-- R22: the predecessor that a supersedes field names is held. -/
def predecessorHeld (s : State) (k : PageKey) (v : Nat) : Bool :=
  s.pdir.entries.any (fun e => e.state != .empty && e.key == k && e.version == v)

/-- R23: the older reception of a key, if one is open. -/
def olderReception (s : State) (k : PageKey) : Option Nat :=
  s.pdir.entries.findIdx? (fun e => e.state == .receiving && e.key == k)

/-- R24: an entry, a context and n band records are free, those of an older reception of the key counted. -/
def roomFor (s : State) (older : Option Nat) (n : Nat) : Bool :=
  match older with
  | some h => decide (n ≤ freeRecords s + (entry s h).bands.length)
  | none => s.pdir.entries.any (fun e => e.state == .empty) && (freeContext s).isSome && decide (n ≤ freeRecords s)

/-- The band record of a descriptor (R25). -/
def freshBand (d : Nat × Half) : BandRecord := ⟨d.1, d.2, 0, .expected, none, none⟩

/-- R49: the open counter after an accepted PAGE.OPEN. -/
def nextStamp (n : Nat) : Nat := (n + 1) % 4294967296

/-- The entry that a PAGE.OPEN creates (R25). -/
def openedEntry (x : ParcelHeader) (stamp : Nat) : Entry where
  state := .receiving
  key := x.key
  version := x.version
  supersedes := x.supersedes
  width := x.width
  stamp := stamp
  bands := x.descriptors.map freshBand
  refs := 0
  damaged := 0
  timeout := false
  storeSuspect := false

/-- The context that serves a parcel from its opening on (R25, R38). -/
def openedContext (h n : Nat) : Context :=
  ⟨h, .reception, true, (List.range n).map (fun b => ⟨b, 0, none, Scan.start⟩)⟩

/-- R25: the page entry and the reception are created. The result names the handle. -/
def createEntry (x : ParcelHeader) (s : State) : Option (Nat × State) :=
  match s.pdir.entries.findIdx? (fun e => e.state == .empty), freeContext s with
  | some h, some i =>
    let stamp := nextStamp s.pdir.counter
    let t := { s with pdir := { s.pdir with counter := stamp } }
    some (h, setContext i (some (openedContext h x.descriptors.length)) (setEntry h (openedEntry x stamp) t))
  | _, _ => none

/-- R23: the older reception of the key, if one is open, is closed. -/
def closeOlder (older : Option Nat) (s : State) : State :=
  match older with
  | some h => closeReception .closed true h s
  | none => s

/-- PAGE.OPEN as PRX takes it in READY (R21 to R25). Its acceptance changes the state of an entry from EMPTY, so
a schedule test follows (R50, R129). -/
def runPageOpen (f : Frame) (s : State) : State :=
  match parseOpen f.payload with
  | none => answer f rBadField [] s
  | some x =>
    match staleEntry s x.key x.version with
    | some h => answer f rStaleVersion (u8 h ++ u16 (entry s h).version) s
    | none =>
      if x.supersedes.any (fun v => !predecessorHeld s x.key v) then answer f rVersionGap [] s
      else
        let older := olderReception s x.key
        if roomFor s older x.descriptors.length then
          match createEntry x (closeOlder older s) with
          | some (h, t) => scheduleTest (answer f rOk (u8 h) t)
          | none => answer f rNoRoom [] s
        else answer f rNoRoom [] s

/-- PAGE_OPEN (R21). -/
def execPageOpen (s : State) : Host.Outcome State Fault Refusal :=
  serve (isCommand 0x10) (whenReady runPageOpen) s

/-! ## PAGE.BAND (R27, R41) -/

/-- R27: the fields of the reply to an accepted chunk. -/
def chunkFields (s : State) (x : ChunkOperands) (opened : Bool) : List Byte :=
  u8 x.handle ++ u16 x.band ++ u32 (((bandOf s x.handle x.band).map BandRecord.received).getD 0) ++ flagByte opened

/-- R27: the offset + chunk length of a chunk passes the declared length, or LAST does not match it. -/
def chunkMisfits (x : ChunkOperands) (declared : Nat) : Bool :=
  decide (declared < x.offset + x.chunk.length) || x.last != decide (x.offset + x.chunk.length = declared)

/-- The placing of a chunk whose checks have passed (R27, R28), in the context of index `i`. A chunk refused
STORE_FULL leaves the state `refused`. -/
def acceptChunk (f : Frame) (x : ChunkOperands) (i : Nat) (opened : Bool) (refused s : State) : State :=
  match placeChunk i x.handle x.band x.offset x.last x.chunk s with
  | some t => answer f rOk (chunkFields t x opened) t
  | none => answer f rStoreFull [] refused

/-- R41: a repair opener. -/
def runOpener (f : Frame) (x : ChunkOperands) (r : BandRecord) (s : State) : State :=
  if (entry s x.handle).refs ≠ 0 then answer f rInUse [] s
  else if x.offset ≠ 0 then answer f rNotOpen [] s
  else if chunkMisfits x r.length then answer f rBadField [] s
  else
    match (contextOf s x.handle).or (freeContext s) with
    | none => answer f rNoRoom [] s
    | some i =>
      let t := openRepair i x.handle x.band s
      acceptChunk f x i true (startTimer i t) t

/-- R27: a chunk of a band that is open for it. -/
def runChunk (f : Frame) (x : ChunkOperands) (r : BandRecord) (s : State) : State :=
  if x.offset ≠ r.received then answer f rOutOfOrder [] s
  else if chunkMisfits x r.length then answer f rBadField [] s
  else
    match contextOf s x.handle with
    | none => answer f rNotOpen [] s
    | some i => acceptChunk f x i false s s

/-- R27, R41: a band of a DAMAGED entry that is DAMAGED or MISSING and not under repair. -/
def opensRepair (s : State) (h b : Nat) (r : BandRecord) : Bool :=
  (r.state == .damaged || r.state == .missing) && !underRepair s h b

/-- PAGE.BAND as PRX takes it in READY (R27). -/
def runPageBand (f : Frame) (s : State) : State :=
  match parseBand f.payload with
  | none => answer f rBadField [] s
  | some x =>
    let e := entry s x.handle
    if e.state ≠ .receiving ∧ e.state ≠ .damaged then answer f rNotOpen [] s
    else
      match bandOf s x.handle x.band with
      | none => answer f rBadField [] s
      | some r =>
        if e.state = .receiving ∨ underRepair s x.handle x.band = true then runChunk f x r s
        else if opensRepair s x.handle x.band r then runOpener f x r s
        else answer f rNotOpen [] s

/-- A link-write burst that an emptied chunk buffer has left behind is in flight (R46). -/
def staleLinkWrite (s : State) : Bool :=
  match s.psc.inFlight with
  | .busy op => op.client == .prxWrite && op.stale
  | _ => false

/-- R28, R71: the chunk that has just been taken was lent a block. -/
def lentBlock (t : State) : Bool :=
  match t.prx.chunk with
  | some c =>
    needsBlock (((bandOf t c.handle c.band).map BandRecord.received).getD 0 - c.bytes.length) c.bytes.length
  | none => false

/-- R46: a link-write burst left behind "ends before any block is taken again". A PAGE.BAND that would be lent a block
waits for that end at the head of the command queue (log entry 22). -/
def bandMayBeTaken (s : State) (f : Frame) : Bool := !(staleLinkWrite s && lentBlock (whenReady runPageBand f s))

/-- PAGE_BAND (R27). -/
def execPageBand (s : State) : Host.Outcome State Fault Refusal :=
  serve (fun f => isCommand 0x11 f && bandMayBeTaken s f) (whenReady runPageBand) s

/-! ## PAGE.CLOSE and the reception timeout (R35, R39) -/

/-- An entry in RECEIVING, or with an open repair (R35). -/
def closable (s : State) (h : Nat) : Bool := (entry s h).state == .receiving || (contextOf s h).isSome

/-- The state and the damaged band count of an entry in RECEIVING or under repair after its close (R35, R44). -/
def closeFields (s : State) (h : Nat) : List Byte :=
  if (entry s h).state = .receiving then
    let t := missBands h s
    u8 (closedState t h false).code ++ u16 (entry t h).notGood.length
  else u8 (entry s h).state.code ++ u16 (entry s h).damaged

/-- PAGE.CLOSE as PRX takes it in READY (R35). -/
def runPageClose (f : Frame) (s : State) : State :=
  match parseClose f.payload with
  | none => answer f rBadField [] s
  | some h =>
    if closable s h then
      testIfEntriesChanged s (answer f rOk (closeFields s h) (closeEntry .closed h s))
    else answer f rNotOpen [] s

/-- PAGE_CLOSE (R35). -/
def execPageClose (s : State) : Host.Outcome State Fault Refusal :=
  serve (isCommand 0x12) (whenReady runPageClose) s

/-- R39: the reception timer of a context expires. -/
def expireReception (c : Context) (s : State) : State :=
  let t := setEntry c.handle { entry s c.handle with timeout := true } s
  testIfEntriesChanged s (closeEntry .timedOut c.handle t)

/-- RECEPTION_TIMEOUT (R39): the timer of a busy context that runs. -/
def execReceptionTimeout (ctx : Nat) (s : State) : Host.Outcome State Fault Refusal :=
  if s.resetHeld then .next s
  else
    match contextAt s ctx with
    | some c => if c.running then .next (expireReception c s) else .next s
    | none => .next s

/-! ## PAGE.QUERY (R63) -/

/-- R63: what the reply says of one band. -/
def bandFields (s : State) (h : Nat) (p : BandRecord × Nat) : List Byte :=
  u8 p.1.state.code ++ u8 (codeOr0 DamageCause.code p.1.cause) ++ u32 p.1.received ++ flagByte (underRepair s h p.2)

/-- R63: the reception held: its code and its context's number, 0 and 0 for none. -/
def receptionFields (s : State) (h : Nat) : List Byte :=
  match contextOf s h with
  | none => u8 0 ++ u8 0
  | some i => u8 (codeOr0 (fun (c : Context) => c.mode.code) (contextAt s i)) ++ u8 i

/-- R63: the fields of a PAGE.QUERY reply for an entry that is not EMPTY. -/
def entryFields (s : State) (h first : Nat) : List Byte :=
  let e := entry s h
  u8 h ++ u8 e.state.code ++ e.key.bytes ++ u16 e.version ++ u16 (e.supersedes.getD 65535) ++ u16 e.width ++
    u16 e.bands.length ++ u32 e.stamp ++ u8 e.refs ++ u16 e.damaged ++ flagByte e.timeout ++
    flagByte e.storeSuspect ++ receptionFields s h ++ u16 first ++
    listBytes (bandFields s h) ((e.bands.zipIdx.drop first).take 64)

/-- PAGE.QUERY as PDIR takes it in READY (R63). -/
def runPageQuery (f : Frame) (s : State) : State :=
  match parsePageQuery f.payload with
  | none => answer f rBadField [] s
  | some (h, first) =>
    if (entry s h).state = .empty then answer f rOk (u8 h ++ u8 EntryState.empty.code) s
    else if (entry s h).bands.length ≤ first then answer f rBadField [] s
    else answer f rOk (entryFields s h first) s

/-- PAGE_QUERY (R63). -/
def execPageQuery (s : State) : Host.Outcome State Fault Refusal :=
  serve (isCommand 0x13) (whenReady runPageQuery) s

/-! ## PAGE.DROP (R60 to R62) -/

/-- PAGE.DROP as PDIR takes it in READY (R60, R61, R62). -/
def runPageDrop (f : Frame) (s : State) : State :=
  match parseDrop f.payload with
  | none => answer f rBadField [] s
  | some (h, k, v) =>
    let e := entry s h
    if e.state = .empty ∨ e.key ≠ k ∨ e.version ≠ v then answer f rNotOpen [] s
    else if e.refs ≠ 0 then answer f rInUse (u8 e.state.code) s
    else
      testIfEntriesChanged s (answer f rOk (u8 h ++ u16 (releaseCount h s)) (releaseEntry h .dropped s))

/-- PAGE_DROP (R60). -/
def execPageDrop (s : State) : Host.Outcome State Fault Refusal :=
  serve (isCommand 0x14) (whenReady runPageDrop) s

end Sys2Proof.Machine
end

