-- ==== Sys2Proof/Machine/Part.lean ====
section
/-! DEFINITION. The part as a whole (chapter 11): hardware reset, STATUS, CONFIGURE, RESTART. -/

namespace Sys2Proof.Machine

/-! ## Hardware reset (R196) -/

/-- The part held in reset. The comparators' health is no state a reset touches, and the store's contents are
not assured from here on: a new draw of free values (log entries 4 and 9). -/
def heldInReset (s : State) : State :=
  { State.reset with
    resetHeld := true
    hmon := { Hmon.reset with highFailed := s.hmon.highFailed, lowFailed := s.hmon.lowFailed }
    freeIndex := s.freeIndex + 1
    pending := s.pending }

/-- HARDWARE_RESET (R196): the low on RESET_N has lasted 1 µs, or power-on. -/
def execHardwareReset (s : State) : Host.Outcome State Fault Refusal := .next (heldInReset s)

/-- RESET_RELEASE (R196): RESET_N rises and the part runs. -/
def execResetRelease (s : State) : Host.Outcome State Fault Refusal := .next { s with resetHeld := false }

/-! ## STATUS (R199) -/

/-- The armed job's id and its state's code, 0 for none (R199). -/
def armedFields (s : State) : Nat × Nat :=
  match armedJob s with
  | some j => (j.id, j.state.code)
  | none => (0, 0)

/-- The fields of a STATUS reply in the order and widths of R199. -/
def statusFields (s : State) : List Byte :=
  u8 s.part.code ++ flagByte s.lp.unattended ++ u16 (s.psc.storeMiB.getD 0) ++ u16 s.psc.poolSize ++
    u16 s.psc.freeCount ++ u16 (freeRecords s) ++ u8 (s.pdir.entries.countP (fun e => e.state != .empty)) ++
    u8 s.psch.queue.length ++ u8 s.psch.history.length ++ u16 (armedFields s).1 ++ u8 (armedFields s).2 ++
    s.imp.ring.flatMap (fun r => u8 r.code) ++ maskBytes (faultMask s) ++ flagByte s.hmon.plateLoaded ++
    flagByte s.hmon.drumReady ++ flagByte s.psch.fresh ++ flagByte s.hmon.test.isSome ++ u16 s.lp.linkErrors ++
    u8 (statusFlags s)

/-- STATUS as its owner takes it (R199, R16). -/
def runStatus (f : Frame) (s : State) : State :=
  if f.payload.isEmpty then
    let t := answer f rOk (statusFields s) s
    { t with lp := { t.lp with overrun := false, reportsLost := false } }
  else answer f rBadField [] s

/-- STATUS (R199). -/
def execStatus (s : State) : Host.Outcome State Fault Refusal := serve (isCommand 0x01) runStatus s

/-! ## CONFIGURE (R193 to R195) -/

/-- The screen sets and the tag after a CONFIGURE that gives the store its size (R100): every set EMPTY with its
generation kept, the tag INVALID. -/
def emptySets (s : State) : State :=
  { s with sct := { s.sct with sets := s.sct.sets.map (fun x => ScreenSet.empty x.generation), tag := none } }

/-- PSC's part of CONFIGURE (R74, R80): the pool is built in UNCONFIGURED and when the store size changes, and
the refresh timer starts with the interval. -/
def Psc.configure (p : Psc) (x : Settings) (build : Bool) : Psc :=
  { (if build then p.buildPool x.storeMiB else p) with refreshInterval := some x.interval }

/-- R194, R195: an accepted CONFIGURE puts its stored values into use. -/
def applySettings (x : Settings) (s : State) : State :=
  let build := s.part == .unconfigured || s.psc.storeMiB != some x.storeMiB
  let t := if build then emptySets s else s
  { t with
    part := .ready
    psc := t.psc.configure x build
    lp := { t.lp with watchdogPeriod := x.watchdog, watchdogRunning := decide (x.watchdog ≠ 0) }
    prx := { t.prx with timeout := some x.reception }
    hmon := { t.hmon with tolerance := x.tolerance, clockLoss := some x.clockLoss } }

/-- R193: in READY, CONFIGURE needs every directory entry EMPTY and the plate queue empty. -/
def configureBusy (s : State) : Bool :=
  s.part == .ready && (s.pdir.entries.any (fun e => e.state != .empty) || !s.psch.queue.isEmpty)

/-- The fields of a CONFIGURE reply (R193): the state after the command and the six values as stored. -/
def settingsFields (x : Settings) : List Byte :=
  u8 PartState.ready.code ++ u16 x.storeMiB ++ u8 x.interval ++ u8 x.watchdog ++ u8 x.reception ++
    u8 x.tolerance ++ u8 x.clockLoss

/-- CONFIGURE as its owner takes it (R193). -/
def runConfigure (f : Frame) (s : State) : State :=
  match parseConfigure f.payload with
  | none => answer f rBadField [] s
  | some x =>
    if configureBusy s then answer f rBusy [] s
    else if x.sound then answer f rOk (settingsFields x.clamped) (applySettings x.clamped s)
    else answer f rBadField [] s

/-- CONFIGURE (R193). -/
def execConfigure (s : State) : Host.Outcome State Fault Refusal := serve (isCommand 0x02) runConfigure s

/-! ## RESTART (R197, R198) -/

/-- LP's part of RESTART (R20). -/
def Lp.restart (l : Lp) : Lp :=
  { l with cmdQueue := [], reports := [], linkErrors := 0, overrun := false, reportsLost := false }

/-- PSC's part of RESTART (R74, R83, R85). -/
def Psc.restart (p : Psc) : Psc :=
  match p.storeMiB with
  | some m => { p.buildPool m with refreshMerged := false }
  | none => { p with refreshMerged := false }

/-- A screen set after RESTART (R100): a set in LOADING becomes EMPTY. -/
def ScreenSet.restart (x : ScreenSet) : ScreenSet :=
  if x.state = .loading then ScreenSet.empty x.generation else x

/-- HMON's part of RESTART (R179). -/
def Hmon.restart (m : Hmon) : Hmon :=
  { m with channels := m.channels.map (fun c => { c with state := .ok, suspect := 0 }) }

/-- DREC's part of RESTART (R190). -/
def Drec.restart (r : Drec) (imaging : Bool) : Drec :=
  { r with
    mark := if imaging then false else r.mark
    reject := if imaging then true else r.reject
    list := []
    verdict := .good
    plateOpen := false }

/-- R197, R198: RESTART in READY. A job in IMAGING is cut without an end of R135, a job in ARMING has its fill
dropped. The plate is cut whatever the revolution's decision (R164, log entry 29). -/
def restartPart (s : State) : State :=
  let imaging := (imagingJob s).isSome
  let t := { s with drec := s.drec.restart imaging }
  let u := if imaging then leavePlate true (ruStop t) else t
  let v := dropFill (emptyFifo u)
  { v with
    lp := v.lp.restart
    prx := { v.prx with contexts := v.prx.contexts.map (fun _ => none), chunk := none }
    pdir := Pdir.reset
    psc := v.psc.restart
    sct := { v.sct with sets := v.sct.sets.map ScreenSet.restart, tag := none }
    psch := { v.psch with queue := [], history := [], armed := none }
    imp := { v.imp with ring := v.imp.ring.map (fun _ => .free) }
    hmon := v.hmon.restart }

/-- RESTART as its owner takes it (R197, R192). -/
def runRestart (f : Frame) (s : State) : State :=
  if f.payload.isEmpty then
    match s.part with
    | .unconfigured => answer f rOk [] s
    | .ready => answer f rOk [] (restartPart s)
  else answer f rBadField [] s

/-- RESTART (R197). -/
def execRestart (s : State) : Host.Outcome State Fault Refusal := serve (isCommand 0x03) runRestart s

end Sys2Proof.Machine
end

