-- ==== Sys2Proof/Machine/Plates.lean ====
section
/-! DEFINITION. The plate commands (chapter 7): PLATE.QUEUE, PLATE.CANCEL, PLATE.QUERY and its listing form. -/

namespace Sys2Proof.Machine

/-! ## PLATE.QUEUE (R124, R125) -/

/-- R124, last check: a slot's key resolves to a DAMAGED entry that holds no GOOD band at all. -/
def slotWhollyDamaged (s : State) (t : JobSlot) : Bool :=
  match resolve s t.key with
  | none => false
  | some h => (entry s h).state == .damaged && (entry s h).damaged == (entry s h).bands.length

/-- R124: the set is neither EMPTY nor LOADING. -/
def setNameable (s : State) (t : Nat) : Bool :=
  (screenSet s t).state != .empty && (screenSet s t).state != .loading

/-- R125: the job is appended to the tail of the plate queue. -/
def appendJob (j : Job) (s : State) : State := { s with psch := { s.psch with queue := s.psch.queue ++ [j] } }

/-- PLATE.QUEUE as PSCH takes it in READY (R124, R125). -/
def runPlateQueue (f : Frame) (s : State) : State :=
  match parseQueue f.payload with
  | none => answer f rBadField [] s
  | some j =>
    if (jobOf s j.id).isSome then answer f rBadField [] s
    else if 16 ≤ s.psch.queue.length then answer f rNoRoom [] s
    else if !setNameable s j.setIndex then answer f rNotReady [] s
    else if j.policy = .run ∧ j.slots.any (slotWhollyDamaged s) = true then answer f rDamagedRef [] s
    else
      let t := appendJob j s
      scheduleTest (answer f rOk (u16 j.id ++ u8 t.psch.queue.length) t)

/-- PLATE_QUEUE (R124). -/
def execPlateQueue (s : State) : Host.Outcome State Fault Refusal :=
  serve (isCommand 0x30) (whenReady runPlateQueue) s

/-! ## PLATE.CANCEL (R139 to R141) -/

/-- R139: a QUEUED job ends CANCELLED at once. -/
def cancelQueued (j : Job) (s : State) : State :=
  scheduleTest (archiveJob (unimagedRecord j .cancelled none) [] s)

/-- R141, R159: the job in IMAGING is marked for its cancel, and IMP is told. -/
def cancelImaging (j : Job) (s : State) : State :=
  let t := updateJob j.id (fun q => { q with cancelRequested := true }) s
  { t with imp := { t.imp with cancelPending := true } }

/-- R139 to R141: a cancel of a job in the plate queue. -/
def cancelJob (j : Job) (s : State) : State :=
  match j.state with
  | .imaging => cancelImaging j s
  | .arming => endArmed .cancelled none s
  | .queued => cancelQueued j s
  | .finished => cancelQueued j s
  | .failed => cancelQueued j s
  | .cancelled => cancelQueued j s

/-- PLATE.CANCEL as PSCH takes it in READY (R139). -/
def runPlateCancel (f : Frame) (s : State) : State :=
  match (parseJobId f.payload).bind (fun id => if id = 0 then none else jobOf s id) with
  | none => answer f rBadField [] s
  | some j => cancelJob j (answer f rOk (u16 j.id ++ u8 j.state.code) s)

/-- PLATE_CANCEL (R139). -/
def execPlateCancel (s : State) : Host.Outcome State Fault Refusal :=
  serve (isCommand 0x31) (whenReady runPlateCancel) s

/-! ## PLATE.QUERY (R142, R143) -/

/-- R142: a job in the plate queue, with its place in queue order from 1. -/
def queuePlace (s : State) (id : Nat) : Option (Job × Nat) :=
  (s.psch.queue.zipIdx 1).find? (fun p => p.1.id == id)

/-- R142: the newest record of an id in the done history, with its place from 1. -/
def historyPlace (s : State) (id : Nat) : Option (HistoryRecord × Nat) :=
  (s.psch.history.zipIdx 1).find? (fun p => p.1.job.id == id)

/-- R142: for a job in IMAGING, DREC's accumulator and the number of its records so far. -/
def progressFields (s : State) (j : Job) : List Byte :=
  if j.state = .imaging then u8 s.drec.verdict.code ++ u8 s.drec.list.length else u8 0 ++ u8 0

/-- R142: for a FINISHED job, its defect records in recording order (R191). -/
def recordFields (j : Job) (l : List Defect) : List Byte :=
  if j.state = .finished then l.flatMap Defect.bytes else []

/-- R142: the fields of a PLATE.QUERY reply, or none where no record has the id. The place is one byte, in the plate
queue or in the history as the job's state says (log entry 11). -/
def jobFields (s : State) (id : Nat) : Option (List Byte) :=
  match queuePlace s id with
  | some (j, n) => some (j.bytes ++ u8 n ++ progressFields s j)
  | none =>
    match historyPlace s id with
    | some (r, n) => some (r.job.bytes ++ u8 n ++ progressFields s r.job ++ recordFields r.job r.defects)
    | none => none

/-- PLATE.QUERY with an id other than 0, as PSCH takes it in READY (R142). -/
def runPlateQuery (f : Frame) (s : State) : State :=
  match (parseJobId f.payload).bind (jobFields s) with
  | some fields => answer f rOk fields s
  | none => answer f rBadField [] s

/-- PLATE_QUERY (R142): a PLATE.QUERY that is not the listing form. -/
def execPlateQuery (s : State) : Host.Outcome State Fault Refusal :=
  serve (fun f => isCommand 0x32 f && !isListQuery f.payload) (whenReady runPlateQuery) s

/-- R143: what the listing says of a job in the plate queue. -/
def queueItem (j : Job) : List Byte := u16 j.id ++ u8 j.state.code

/-- R143: what the listing says of a record in the done history. -/
def historyItem (r : HistoryRecord) : List Byte :=
  u16 r.job.id ++ u8 r.job.state.code ++ u8 (codeOr0 JobResult.code r.job.result) ++
    u8 (codeOr0 Verdict.code r.job.verdict)

/-- PLATE.QUERY with id 0, as PSCH takes it in READY (R143). -/
def runPlateList (f : Frame) (s : State) : State :=
  answer f rOk (listBytes queueItem s.psch.queue ++ listBytes historyItem s.psch.history) s

/-- PLATE_LIST (R143): a PLATE.QUERY with id 0. -/
def execPlateList (s : State) : Host.Outcome State Fault Refusal :=
  serve (fun f => isCommand 0x32 f && isListQuery f.payload) (whenReady runPlateList) s

end Sys2Proof.Machine
end

