-- ==== Sys2Proof/Machine/Screens.lean ====
section
/-! DEFINITION. The screen set commands (chapter 5): SCREEN.BEGIN, SCREEN.TILE, SCREEN.END, SCREEN.QUERY. -/

namespace Sys2Proof.Machine

/-- R88: the record of a set as an accepted SCREEN.BEGIN makes it, LOADING. -/
def loadingSet (x : ScreenShape) (old : ScreenSet) : ScreenSet where
  state := .loading
  width := x.width
  height := x.height
  shift := x.shift
  curve := clampCurve x.curve
  minDot := x.minDot
  maxDot := x.maxDot
  received := 0
  runCrc := 0xFFFF#16
  loadCrc := 0
  failedCrc := 0
  generation := old.generation

/-- SCREEN.BEGIN as SCT takes it in READY (R87, R88). A change of the set's state is an event of the schedule
(R86, R129). -/
def runScreenBegin (f : Frame) (s : State) : State :=
  match parseScreenBegin f.payload with
  | none => answer f rBadField [] s
  | some x =>
    if jobsNaming s x.setIndex ≠ 0 then answer f rInUse [] s
    else if x.sound then
      let y := loadingSet x (screenSet s x.setIndex)
      let fields := u8 x.setIndex ++ u16 y.generation ++ u8 (curveChanges x.curve y.curve)
      scheduleTest (answer f rOk fields (setScreenSet x.setIndex y s))
    else answer f rBadField [] s

/-- SCREEN_BEGIN (R87). -/
def execScreenBegin (s : State) : Host.Outcome State Fault Refusal :=
  serve (isCommand 0x20) (whenReady runScreenBegin) s

/-- R90: a set with more thresholds received, as they are stored. -/
def receiveThresholds (x : ScreenSet) (stored : List Nat) : ScreenSet :=
  { x with received := x.received + stored.length, runCrc := crcFrom x.runCrc (stored.flatMap u16) }

/-- SCREEN.TILE as SCT takes it in READY (R89, R90). -/
def runScreenTile (f : Frame) (s : State) : State :=
  match parseTile f.payload with
  | none => answer f rBadField [] s
  | some (t, start, sent) =>
    let x := screenSet s t
    if x.state ≠ .loading then answer f rNotOpen [] s
    else if start ≠ x.received then answer f rOutOfOrder [] s
    else if x.width * x.height < start + sent.length then answer f rBadField [] s
    else
      let stored := sent.map clampThreshold
      let y := receiveThresholds x stored
      let bytes := stored.flatMap u16
      let u := answer f rOk (u8 t ++ u32 y.received) (setScreenSet t y s)
      tilePump { u with sct := { u.sct with
        tileBuf := some ⟨t, bytes, burstsOf (tileAddr t + 2 * start) bytes⟩ } }

/-- SCREEN_TILE (R89). -/
def execScreenTile (s : State) : Host.Outcome State Fault Refusal :=
  serve (isCommand 0x21) (whenReady runScreenTile) s

/-- R92: the generation after a load that ended READY. -/
def nextGeneration (g : Nat) : Nat := if g = 65535 then 0 else g + 1

/-- R91: a load ends READY when every threshold was received and the CRC is the one expected. -/
def loadSound (x : ScreenSet) (expected : Half) : Bool :=
  decide (x.received = x.width * x.height) && x.runCrc == expected

/-- R91: the set as the end of its load leaves it. -/
def endedSet (x : ScreenSet) (expected : Half) : ScreenSet :=
  if loadSound x expected then
    { x with state := .ready, loadCrc := x.runCrc, generation := nextGeneration x.generation }
  else { x with state := .bad }

/-- R92: the tile cache tag after a load: INVALID when the generation of the set it names has wrapped. -/
def tagAfterLoad (tag : Option (Nat × Nat)) (t : Nat) (x : ScreenSet) (expected : Half) : Option (Nat × Nat) :=
  if loadSound x expected = true ∧ x.generation = 65535 ∧ tag.map Prod.fst = some t then none else tag

/-- SCREEN.END as SCT takes it in READY (R91, R92). -/
def runScreenEnd (f : Frame) (s : State) : State :=
  match parseScreenEnd f.payload with
  | none => answer f rBadField [] s
  | some (t, expected) =>
    let x := screenSet s t
    if x.state ≠ .loading then answer f rNotOpen [] s
    else
      let y := endedSet x expected
      let fields := u8 t ++ u8 y.state.code ++ u32 y.received ++ u16 y.runCrc.toNat
      let u := setScreenSet t y s
      let v := { u with sct := { u.sct with tag := tagAfterLoad u.sct.tag t x expected } }
      scheduleTest (answer f (if loadSound x expected then rOk else rBadField) fields v)

/-- SCREEN_END (R91). -/
def execScreenEnd (s : State) : Host.Outcome State Fault Refusal :=
  serve (isCommand 0x22) (whenReady runScreenEnd) s

/-- R99: the tile cache tag equals the set's index and present generation. -/
def tagNames (s : State) (t : Nat) : Bool := s.sct.tag == some (t, (screenSet s t).generation)

/-- R99: the fields of a SCREEN.QUERY reply. The curve points C0 to C16 are 17 fields, with no count before them (log
entry 11). -/
def setFields (s : State) (t : Nat) : List Byte :=
  let x := screenSet s t
  u8 t ++ u8 x.state.code ++ u16 x.width ++ u16 x.height ++ u16 x.shift ++ u16 x.minDot ++ u16 x.maxDot ++
    x.curve.flatMap u16 ++ u32 x.received ++ u16 x.runCrc.toNat ++ u16 x.loadCrc.toNat ++ u16 x.generation ++
    u16 x.failedCrc.toNat ++ flagByte (tagNames s t) ++ u8 (jobsNaming s t)

/-- SCREEN.QUERY as SCT takes it in READY (R99). -/
def runScreenQuery (f : Frame) (s : State) : State :=
  match parseScreenQuery f.payload with
  | none => answer f rBadField [] s
  | some t => answer f rOk (setFields s t) s

/-- SCREEN_QUERY (R99). -/
def execScreenQuery (s : State) : Host.Outcome State Fault Refusal :=
  serve (isCommand 0x23) (whenReady runScreenQuery) s

end Sys2Proof.Machine
end

