-- ==== Sys2Proof/Machine/StoreEvents.lean ====
section
/-! DEFINITION. The completions of DRAM operations and the refresh timer (chapter 4): each completion moves its
burst's bytes, and its client goes on. A burst, once begun, always ends (R75), also one that CONFIGURE has meanwhile
left past the end of a smaller store (log entry 16). -/

namespace Sys2Proof.Machine

/-- The completion of a write burst of a client (R75): its bytes are in the DRAM, and the client goes on. A burst in
flight at a merged refresh lands with its bytes as they were aimed (log entry 27). -/
def finishWrite (o : EndOrder) (addr : Nat) (bs : List Byte) (client : State → State) (s : State) :
    Host.Outcome State Fault Refusal :=
  .next (completion o client (writeBytes addr bs s))

/-- The completion of a read burst of a client: it delivers the bytes "as every burst that ended before it began left
them" (R75). The bytes are the store's at the completion, so a burst in flight at a merged refresh
delivers what the merge has left of them (log entry 27). -/
def finishRead (o : EndOrder) (addr len : Nat) (client : List Byte → State → State) (s : State) :
    Host.Outcome State Fault Refusal :=
  .next (completion o (client (readBytes s addr len)) s)

/-- PRX after a link-write burst: a band that completes GOOD can make its entry COMPLETE, a change of state on
which a schedule test follows (R43, R129). -/
def prxCompletion (stale : Bool) (s : State) : State := testIfEntriesChanged s (prxBurstDone stale s)

/-- LINK_WRITE_BURST_DONE (R29). -/
def execLinkWriteBurstDone (o : EndOrder) (s : State) : Host.Outcome State Fault Refusal :=
  match s.psc.inFlight with
  | .busy ⟨.prxWrite, .write a bs, stale⟩ => finishWrite o a bs (prxCompletion stale) s
  | _ => .next s

/-- TILE_WRITE_BURST_DONE (R90). -/
def execTileWriteBurstDone (o : EndOrder) (s : State) : Host.Outcome State Fault Refusal :=
  match s.psc.inFlight with
  | .busy ⟨.sctTile, .write a bs, _⟩ => finishWrite o a bs tileBurstDone s
  | _ => .next s

/-- FILL_BURST_DONE (R96). -/
def execFillBurstDone (o : EndOrder) (s : State) : Host.Outcome State Fault Refusal :=
  match s.psc.inFlight with
  | .busy ⟨.sctFill, .read a n, stale⟩ => finishRead o a n (fillDone stale) s
  | _ => .next s

/-- RU_READ_BURST_DONE (R107). -/
def execRuReadBurstDone (o : EndOrder) (s : State) : Host.Outcome State Fault Refusal :=
  match s.psc.inFlight with
  | .busy ⟨.ru, .read a n, stale⟩ => finishRead o a n (ruReadDone stale) s
  | _ => .next s

/-- RU_WRITE_BURST_DONE (R119). -/
def execRuWriteBurstDone (o : EndOrder) (s : State) : Host.Outcome State Fault Refusal :=
  match s.psc.inFlight with
  | .busy ⟨.ru, .write a bs, stale⟩ => finishWrite o a bs (ruWriteDone stale) s
  | _ => .next s

/-- FETCH_ARRIVAL (R156). -/
def execFetchArrival (o : EndOrder) (s : State) : Host.Outcome State Fault Refusal :=
  match s.psc.inFlight with
  | .busy ⟨.impFetch, .read a n, stale⟩ => finishRead o a n (fetchDone stale a) s
  | _ => .next s

/-! ## Refresh (R80 to R84) -/

/-- A refresh request waits unserved (R81, R82). -/
def refreshWaiting (s : State) : Bool := s.psc.waiting.any (fun o => o.client == .refresh)

/-- R82: two refreshes are merged. REFRESH_MERGED is set, the stored bytes are no longer assured, PDIR marks the
bands held, and a schedule test follows a change of an entry's state. -/
def mergeRefresh (s : State) : State :=
  testIfEntriesChanged s
    (damageStore (spoilStore { s with psc := { s.psc with refreshMerged := true } }))

/-- REFRESH_DUE (R81, R82): with no request waiting, PSC raises one, and otherwise the two merge. The timer runs
once CONFIGURE has given its interval. "At 1.3 µs and above no merge arises" (R82), so at those intervals a
refresh does not fall due on an unserved request (log entry 17). -/
def execRefreshDue (s : State) : Host.Outcome State Fault Refusal :=
  match s.psc.refreshInterval with
  | none => .next s
  | some n =>
    if refreshWaiting s then (if n < 13 then .next (mergeRefresh s) else .next s)
    else .next (ask .refresh .refresh s)

/-- REFRESH_OPERATION_DONE (R75, R77): the operation ends, and the next owner's begins. -/
def execRefreshOperationDone (s : State) : Host.Outcome State Fault Refusal :=
  match s.psc.inFlight with
  | .busy ⟨.refresh, .refresh, _⟩ => .next (endOperation s)
  | _ => .next s

end Sys2Proof.Machine
end

