-- ==== Sys2Proof/Machine/Dispatch.lean ====
section
/-! DEFINITION. The effect of each command on everything but the queue of waiting commands: one direct call of a
meaning for each constructor of `Instr`. -/

namespace Sys2Proof.Machine

def exec (i : Instr) (s : State) : Host.Outcome State Fault Refusal :=
  match i with
  | .hardwareReset => Sys2Proof.Machine.execHardwareReset s
  | .resetRelease => Sys2Proof.Machine.execResetRelease s
  | .frameReceived b => Sys2Proof.Machine.execFrameReceived b s
  | .frameTimerExpiry => Sys2Proof.Machine.execFrameTimerExpiry s
  | .watchdogExpiry => Sys2Proof.Machine.execWatchdogExpiry s
  | .beginTransmission => Sys2Proof.Machine.execBeginTransmission s
  | .frameSent => Sys2Proof.Machine.execFrameSent s
  | .tagZero => Sys2Proof.Machine.execTagZero s
  | .unknownKind => Sys2Proof.Machine.execUnknownKind s
  | .status => Sys2Proof.Machine.execStatus s
  | .configure => Sys2Proof.Machine.execConfigure s
  | .restart => Sys2Proof.Machine.execRestart s
  | .pageOpen => Sys2Proof.Machine.execPageOpen s
  | .pageBand => Sys2Proof.Machine.execPageBand s
  | .pageClose => Sys2Proof.Machine.execPageClose s
  | .pageQuery => Sys2Proof.Machine.execPageQuery s
  | .pageDrop => Sys2Proof.Machine.execPageDrop s
  | .linkWriteBurstDone o => Sys2Proof.Machine.execLinkWriteBurstDone o s
  | .receptionTimeout ctx => Sys2Proof.Machine.execReceptionTimeout ctx s
  | .screenBegin => Sys2Proof.Machine.execScreenBegin s
  | .screenTile => Sys2Proof.Machine.execScreenTile s
  | .tileWriteBurstDone o => Sys2Proof.Machine.execTileWriteBurstDone o s
  | .screenEnd => Sys2Proof.Machine.execScreenEnd s
  | .screenQuery => Sys2Proof.Machine.execScreenQuery s
  | .plateQueue => Sys2Proof.Machine.execPlateQueue s
  | .plateCancel => Sys2Proof.Machine.execPlateCancel s
  | .plateQuery => Sys2Proof.Machine.execPlateQuery s
  | .plateList => Sys2Proof.Machine.execPlateList s
  | .headSetup => Sys2Proof.Machine.execHeadSetup s
  | .channelClear => Sys2Proof.Machine.execChannelClear s
  | .monitorTest => Sys2Proof.Machine.execMonitorTest s
  | .fillBurstDone o => Sys2Proof.Machine.execFillBurstDone o s
  | .ruReadBurstDone o => Sys2Proof.Machine.execRuReadBurstDone o s
  | .ruWriteBurstDone o => Sys2Proof.Machine.execRuWriteBurstDone o s
  | .refreshDue => Sys2Proof.Machine.execRefreshDue s
  | .refreshOperationDone => Sys2Proof.Machine.execRefreshOperationDone s
  | .drumIndex => Sys2Proof.Machine.execDrumIndex s
  | .slotClk => Sys2Proof.Machine.execSlotClk s
  | .fetchArrival o => Sys2Proof.Machine.execFetchArrival o s
  | .indexOverdue => Sys2Proof.Machine.execIndexOverdue s
  | .indexLost => Sys2Proof.Machine.execIndexLost s
  | .clockLossExpiry => Sys2Proof.Machine.execClockLossExpiry s
  | .headReturnRecord r => Sys2Proof.Machine.execHeadReturnRecord r s
  | .monitorTestAbandon => Sys2Proof.Machine.execMonitorTestAbandon s
  | .byteReceived b => Sys2Proof.Machine.execByteReceived b s

end Sys2Proof.Machine
end

