-- ==== Sys2Proof/Machine/Step.lean ====
section
/-! DEFINITION. The step of the part: it takes the command at the front of the queue of waiting commands. -/

namespace Sys2Proof.Machine

/-- The state with the command that a word spells put at the front of the queue, and unchanged where the word
spells none (log entry 2). -/
def State.withFetchWord (s : State) (nbits w : Nat) : State :=
  match decodeTableWord nbits w with
  | some c => { s with pending := c :: s.pending }
  | none => s

/-- One step: the command at the front of the queue has its effect on the state with the queue's rest. On an
empty queue the part idles (log entry 18). -/
def step (s : State) : Host.Outcome State Fault Refusal :=
  match s.pending with
  | [] => .next s
  | c :: rest => exec c { s with pending := rest }

end Sys2Proof.Machine
end

