-- ==== Sys2Proof/Safety.lean ====
section
/-! DEFINITION. What holds of the part in every run, block by block, and what it is for the free pool to run
through a list of blocks: the terms that the statements are made in. -/

namespace Sys2Proof.Machine

/-! ## Taking a command and running an event -/

/-- Steps one after another, up to the first that stops. -/
def steps : Nat → State → Host.Outcome State Fault Refusal
  | 0, s => .next s
  | n + 1, s =>
    match step s with
    | .next t => steps n t
    | .fault r => .fault r
    | .refused r => .refused r

/-- Command `f` stands at the head of the command queue, `rest` behind it, and LP may take it (R9): the part runs,
neither buffer holds data of an earlier command, and the reply queue has a free place. -/
def takes (s : State) (f : Frame) (rest : List Frame) : Prop :=
  s.resetHeld = false ∧ s.prx.chunk = none ∧ s.sct.tileBuf = none ∧
    s.lp.replyReserved.length + s.lp.replyFinished.length < 8 ∧ s.lp.cmdQueue = f :: rest

/-- The state with the taken command removed from the command queue (R9). -/
def taken (s : State) (rest : List Frame) : State := { s with lp := { s.lp with cmdQueue := rest } }

/-- Command `f` is one that LP hands to the owner of kind `k`: its TAG is not 0 (R2, R10). -/
def ofKind (k : Byte) (f : Frame) : Prop := f.tag ≠ 0#8 ∧ f.kind = k

/-- A schedule test that changes nothing: a job is armed, or no queued job is eligible (R129). -/
def nothingToArm (s : State) : Prop := s.psch.armed.isSome = true ∨ ∀ j ∈ s.psch.queue, eligible s j = false

/-- The end of a burst in either order of R77: the end of its operation is taken first, or what its client asks for is.
`next` gives the state that the client's own handling leaves, with PSC as it stands when the client acts. -/
def atEnd (o : EndOrder) (s : State) (next : Psc → State) : State :=
  match o with
  | .endFirst => next s.psc.endOperation
  | .askFirst => endOperation (next { s.psc with inFlight := .ending })

/-! ## The store -/

/-- The page store's bytes and the block link table stand in their canonical form, by rising key. -/
def storeCanonical (s : State) : Prop := Memory.wf s.dram = true ∧ sparseWf s.psc.links = true

/-- The blocks of the list follow one another in the block link table, and the last holds END (R69). -/
def Psc.linked (p : Psc) : List Nat → Prop
  | [] => True
  | [b] => p.link b = none
  | b :: c :: r => p.link b = some c ∧ p.linked (c :: r)

/-- The free pool runs through the blocks of the list, head first, each once (R70). -/
def Psc.poolIs (p : Psc) (l : List Nat) : Prop :=
  p.poolHead = l.head? ∧ p.poolTail = l.getLast? ∧ p.freeCount = l.length ∧ l.Nodup ∧ p.linked l

/-- The chains that begin at the blocks of the list, returned to the pool one after another (R72). -/
def Psc.returnChains (p : Psc) (heads : List (Option Nat)) : Psc := heads.foldl (fun q h => (q.returnChain h).1) p

/-- PSC after a client has withdrawn its waiting request and disowned its burst in flight (R78). -/
def Psc.dropped (p : Psc) (c : Client) : Psc := (p.withdraw c).disown c

/-- A link-write burst that an emptied chunk buffer has left behind is in flight (R46). -/
def staleWriteInFlight (s : State) : Prop := ∃ op, s.psc.inFlight = .busy op ∧ op.client = .prxWrite ∧ op.stale = true

/-! ## The command link -/

/-- The bytes a framer in FRAME can hold: SYNC first, a LENGTH of at most 4096 once it is complete, and not yet
the frame's last byte (R3, R4). -/
def framerSound : Framer → Prop
  | .hunting => True
  | .frame bs => bs.head? = some 0xA7#8 ∧
      (bs.length < 3 ∨ (frameLength bs ≤ 4096 ∧ bs.length < 7 + frameLength bs))

/-- LP within its capacities (chapter 1, opening table). The places reserved are the pending test's alone (R13),
and LINK_LOST is high exactly while UNATTENDED is set (R18). -/
def linkSound (s : State) : Prop :=
  framerSound s.lp.framer ∧ s.lp.cmdQueue.length ≤ 8 ∧ s.lp.placesUsed ≤ 8 ∧ s.lp.reports.length ≤ 16 ∧
    s.lp.linkErrors ≤ 65535 ∧ s.lp.replyReserved = s.hmon.test.toList.map Prod.fst ∧
    s.lp.linkLost = s.lp.unattended

/-! ## Pages -/

/-- A band after the end of its reception (R35, R44): MISSING, with no chain, where it was EXPECTED or ARRIVING. -/
def BandRecord.missed (r : BandRecord) : BandRecord :=
  if r.state = .expected ∨ r.state = .arriving then { r with state := .missing, cause := some .missing, head := none }
  else r

/-- A band not yet completed (R48). -/
def BandRecord.isOpen (r : BandRecord) : Bool := r.state == .expected || r.state == .arriving

/-- An entry whose open bands have become MISSING (R35, R44). -/
def Entry.missed (e : Entry) : Entry := { e with bands := e.bands.map BandRecord.missed }

/-- The partial chains of an entry's open bands, in band order (R35, R44). -/
def Entry.openChains (e : Entry) : List (Option Nat) := (e.bands.filter BandRecord.isOpen).map BandRecord.head

/-- Every chain of an entry, in band order (R59). -/
def Entry.chains (e : Entry) : List (Option Nat) := e.bands.map BandRecord.head

/-- The number of an entry's GOOD bands. -/
def Entry.goodBands (e : Entry) : Nat := e.bands.countP (fun r => r.state == .good)

/-- An entry after a merged refresh has marked its GOOD bands (R65). -/
def Entry.marked (e : Entry) : Entry :=
  { e with
    bands := (e.bands.map (fun b => if b.state = .good then { b with state := .damaged, cause := some .store } else b))
    damaged := e.damaged + e.goodBands
    state := if e.state = .complete ∧ e.goodBands ≠ 0 then .damaged else e.state }

/-- The number of an entry's bands that are not GOOD (R35, R50). -/
def Entry.badBands (e : Entry) : Nat := e.bands.countP (fun r => r.state != .good)

/-- The indices of the first 8 bands of an entry, in band order, that are not GOOD (R37). -/
def Entry.firstBad (e : Entry) : List Nat :=
  ((List.range e.bands.length).filter (fun b => (e.bands[b]?).any (fun r => r.state != .good))).take 8

/-- An entry whose reception ends with no other version of its key held (R35): its bands missed, its damaged band
count taken, COMPLETE when every band is GOOD and DAMAGED otherwise. -/
def Entry.ended (e : Entry) : Entry :=
  let m := { e with bands := e.bands.map BandRecord.missed }
  { m with damaged := m.badBands, state := if m.badBands = 0 then .complete else .damaged }

/-- The PAGE.NOTE of an event of an entry as it stands (R37). -/
def Entry.noteOf (e : Entry) (ev : PageEvent) (h : Nat) : Report :=
  .page { event := ev, handle := h, key := e.key, version := e.version, state := e.state, damaged := e.damaged,
          timeout := e.timeout, listed := e.firstBad }

/-- The RELEASED note of an entry (R59, R64): the state EMPTY, and the fields held just before. -/
def Entry.releaseNote (e : Entry) (cause : ReleaseCause) (blocks h : Nat) : Report :=
  .page ⟨.released cause blocks, h, e.key, e.version, .empty, e.damaged, e.timeout, e.firstBad⟩

/-- PSC's state apart from the block link table and the pool's head, tail and free count: what the return of a chain
leaves alone (R72). -/
def Psc.poolAside (p q : Psc) : Prop :=
  { p with links := q.links, poolHead := q.poolHead, poolTail := q.poolTail, freeCount := q.freeCount } = q

/-- What an entry obeys by itself (R23, R34, R47, R50, R52, R59). EMPTY, it holds nothing. RECEIVING, it is not
bound and counts its DAMAGED bands, and its completed bands have arrived whole. COMPLETE, its bands are all GOOD.
DAMAGED, it counts its bands that are not GOOD, at least one, and none is EXPECTED. SUPERSEDED, it is bound. -/
def entrySound (e : Entry) : Prop :=
  match e.state with
  | .empty => e = Entry.empty
  | .receiving => e.refs = 0 ∧ e.damaged = e.bands.countP (fun r => r.state == .damaged) ∧
      ∀ r ∈ e.bands, r.state ≠ .missing ∧ (r.isOpen = false → r.received = r.length)
  | .complete => e.damaged = 0 ∧ ∀ r ∈ e.bands, r.state = .good
  | .damaged => e.damaged = e.badBands ∧ 1 ≤ e.damaged ∧ ∀ r ∈ e.bands, r.state ≠ .expected
  | .superseded => e.refs ≠ 0

/-- The contexts (R26, R41, R50, R57): a busy one is the only one of its entry, serves a RECEIVING entry as a reception
or an unbound DAMAGED one as a repair, and covers exactly the entry's open bands. Every RECEIVING entry has one, and
a DAMAGED entry without one has no open band. -/
def contextsSound (s : State) : Prop :=
  (∀ i c, s.prx.contexts[i]? = some (some c) → contextOf s c.handle = some i ∧
    (((entry s c.handle).state = .receiving ∧ c.mode = .reception) ∨
      ((entry s c.handle).state = .damaged ∧ c.mode = .repair ∧ (entry s c.handle).refs = 0)) ∧
    ∀ b r, bandOf s c.handle b = some r → (c.covers b = true ↔ r.isOpen = true)) ∧
  (∀ h, (entry s h).state = .receiving → (contextOf s h).isSome = true) ∧
  ∀ h, (entry s h).state = .damaged → contextOf s h = none → ∀ r ∈ (entry s h).bands, r.isOpen = false

/-- The chunk in the chunk buffer (R29, R38): its band is ARRIVING in a context whose timer is stopped, and has all its
bytes when the chunk was LAST. -/
def chunkSound (s : State) : Prop :=
  ∀ k, s.prx.chunk = some k → ∃ i c r, contextOf s k.handle = some i ∧ s.prx.contexts[i]? = some (some c) ∧
    c.running = false ∧ c.covers k.band = true ∧ bandOf s k.handle k.band = some r ∧ r.state = .arriving ∧
    (k.last = true → r.received = r.length)

/-- The directory's laws (R26, R50, R51): each entry's own, at most one entry of a key in COMPLETE or DAMAGED and at
most one in RECEIVING, and those of the contexts and of the chunk buffer. -/
def directorySound (s : State) : Prop :=
  (∀ h, entrySound (entry s h)) ∧
    (∀ g h, (entry s g).closed = true → (entry s h).closed = true → (entry s g).key = (entry s h).key → g = h) ∧
    (∀ g h, (entry s g).state = .receiving → (entry s h).state = .receiving →
      (entry s g).key = (entry s h).key → g = h) ∧
    contextsSound s ∧ chunkSound s

/-- The blocks of every band's chain, entry by entry in handle order, given the chain of each band. -/
def allChains (s : State) (chain : Nat → Nat → List Nat) : List Nat :=
  (List.range s.pdir.entries.length).flatMap (fun h => (List.range (entry s h).bands.length).flatMap (chain h))

/-- The pool law (R73, R74): the blocks of the free pool and of the bands' chains are together every pool block, each
once. A band's record holds its chain's head and the context that covers it the tail; an EXPECTED or MISSING band has
no chain. The pool size is what the store size gives. -/
def poolSound (s : State) : Prop :=
  (s.part = .unconfigured → s.psc.storeMiB = none) ∧
    (match s.psc.storeMiB with
      | none => s.psc.poolSize = 0
      | some m => 64 ≤ m ∧ m ≤ 1024 ∧ s.psc.poolSize + 128 = m * 64) ∧
    (∀ h b r, bandOf s h b = some r → r.state = .expected ∨ r.state = .missing → r.head = none) ∧
    ∃ (pool : List Nat) (chain : Nat → Nat → List Nat), s.psc.poolIs pool ∧
      (∀ h b r, bandOf s h b = some r → s.psc.linked (chain h b) ∧ r.head = (chain h b).head? ∧
        ∀ (i : Nat) (c : Context), s.prx.contexts[i]? = some (some c) → c.handle = h → c.covers b = true →
          (c.progress b).tail = (chain h b).getLast?) ∧
      (pool ++ allChains s chain).Perm (List.range' 128 s.psc.poolSize)

/-! ## Plate jobs and defects -/

/-- The state of a job in the plate queue (R123, R126): the armed job is ARMING or IMAGING, every other QUEUED. -/
def queueStateSound (armed : Option Nat) (j : Job) : Prop :=
  if armed = some j.id then j.state = .arming ∨ j.state = .imaging else j.state = .queued

/-- A record of the done history (R123, R136, R137): it has ended, has a verdict exactly when it is FINISHED, and
counts the defects it lists. -/
def historySound (r : HistoryRecord) : Prop :=
  (r.job.state = .finished ∨ r.job.state = .failed ∨ r.job.state = .cancelled) ∧
    (r.job.verdict.isSome = true ↔ r.job.state = .finished) ∧ r.job.result.isSome = true ∧
    r.defects.length = r.job.defects

/-- PSCH within its capacities, with the ids of the plate queue distinct and at most one job armed, which the
queue holds (R123, R124, R126, R137). -/
def scheduleSound (s : State) : Prop :=
  s.psch.queue.length ≤ 16 ∧ (s.psch.queue.map Job.id).Nodup ∧
    (∀ j ∈ s.psch.queue, queueStateSound s.psch.armed j) ∧
    (∀ id, s.psch.armed = some id → id ∈ s.psch.queue.map Job.id) ∧
    s.psch.history.length ≤ 8 ∧ ∀ r ∈ s.psch.history, historySound r

/-- The rank of a severity among the verdicts (R186). -/
def Severity.rank : Severity → Nat
  | .marked => 1
  | .reject => 2

/-- DREC's laws (R183, R185, R186, R189): at most 24 records, OVERFLOW in the 24th place alone, the accumulator
at least as severe as every record and GOOD exactly when there is none, and the lines never high together. -/
def recorderSound (r : Drec) : Prop :=
  r.list.length ≤ 24 ∧ (∀ i d, r.list[i]? = some d → (d.kind = .overflow ↔ i = 23)) ∧
    (∀ d ∈ r.list, d.severity.rank ≤ r.verdict.rank) ∧ (r.verdict = .good ↔ r.list = []) ∧
    ¬ (r.mark = true ∧ r.reject = true)

/-- The ring (R102, R119, R147, R151, R152): at most two slots FILLING, which are those that RU has claimed while it
is BUILDING, and at most one EXPOSING, the slot that the revolution under way exposes for a job in IMAGING. A fill is
in progress only for a job in ARMING (R96), and END is not decided between two events (R152). -/
def ringSound (s : State) : Prop :=
  s.imp.ring.countP (fun r => r == .filling) ≤ 2 ∧ s.imp.ring.countP (fun r => r == .exposing) ≤ 1 ∧
    (∀ k, ringState s k = .filling → ∃ k0 k1, s.ru.claimed = some (k0, k1) ∧ (k = k0 ∨ k = k1)) ∧
    (s.ru.claimed.isSome = true → s.ru.phase = .building) ∧
    (∀ k, ringState s k = .exposing →
      s.imp.rev.decision = .expose ∧ s.imp.rev.live = true ∧ k = s.imp.rev.ringSlot) ∧
    (s.imp.rev.live = true → ∃ j, imagingJob s = some j) ∧
    (s.imp.rev.decision = .expose → s.imp.rev.live = true →
      s.imp.rev.ringSlot = ringSlotOf s.imp.swath s.imp.exposed ∧
      s.imp.rev.pass = passOf s.imp.swath s.imp.exposed) ∧
    (s.sct.fill.isSome = true → ∃ j, armedJob s = some j ∧ j.state = .arming) ∧ s.imp.endDecided = false

/-! ## Settings and tables -/

/-- A screen set's curve and generation (R86, R88): 17 points, non-decreasing, C0 = 0, each at most 4095. -/
def setSound (x : ScreenSet) : Prop :=
  x.curve.length = 17 ∧ x.curve.head? = some 0 ∧ x.curve.Pairwise (· ≤ ·) ∧ (∀ c ∈ x.curve, c ≤ 4095) ∧
    x.generation ≤ 65535

/-- A channel's window (R165): low at most high, each at most 1023. -/
def windowSound (c : Channel) : Prop := c.low ≤ c.high ∧ c.high ≤ 1023

/-- The head settings as HEAD.SETUP stores them (R145, R146). -/
def headSettingsSound (m : Imp) : Prop :=
  1024 ≤ m.nrev ∧ 1 ≤ m.lead ∧ m.lead ≤ 255 ∧ m.half ≤ 1 ∧ 1 ≤ m.dwellLimit ∧ m.dwellLimit ≤ 15 ∧
    64 ≤ m.watermark ∧ m.watermark ≤ 1984 ∧ m.watermark % 64 = 0

/-- The CONFIGURE values (R193): none in UNCONFIGURED, each in its range in READY. -/
def configurationSound (s : State) : Prop :=
  match s.part with
  | .unconfigured =>
    s.psc.storeMiB = none ∧ s.psc.refreshInterval = none ∧ s.prx.timeout = none ∧ s.hmon.clockLoss = none ∧
      s.lp.watchdogPeriod = 0
  | .ready =>
    (∃ m, s.psc.storeMiB = some m ∧ m ∈ [64, 128, 256, 512, 1024]) ∧
      (∃ n, s.psc.refreshInterval = some n ∧ 10 ≤ n ∧ n ≤ 159) ∧
      (∃ n, s.prx.timeout = some n ∧ 1 ≤ n ∧ n ≤ 255) ∧
      (∃ n, s.hmon.clockLoss = some n ∧ 1 ≤ n ∧ n ≤ 255) ∧
      s.lp.watchdogPeriod ≤ 60 ∧ s.hmon.tolerance ≤ 255

/-- The tables at their sizes and the settings in their ranges. -/
def settingsSound (s : State) : Prop :=
  s.prx.contexts.length = 8 ∧ s.pdir.entries.length = 64 ∧ s.sct.sets.length = 8 ∧ s.imp.ring.length = 8 ∧
    s.hmon.channels.length = 32 ∧ (∀ x ∈ s.sct.sets, setSound x) ∧ (∀ c ∈ s.hmon.channels, windowSound c) ∧
    headSettingsSound s.imp ∧ 1024 ≤ s.hmon.nrev ∧ configurationSound s

end Sys2Proof.Machine
end

