-- ==== Sys2Proof/Certificates/Slice0/Obligations.lean ====
section
/-! DEFINITION. The statements for the provers, chapter by chapter. Where a statement gives the state after a command
as an update of the state before it, every field it does not name is unchanged: that is its frame. Where it gives
the state after only by some of its fields, it puts the fields that may change back and says the rest is as before. -/

open Sys2Proof Sys2Proof.Machine

/-! ## The step and the two resets -/

/-- A step runs the command at the front of the queue on the state with the queue's rest. That an empty queue idles is
the model's choice (log entry 18). -/
def Obligations.StepTakesTheFrontOfTheQueue : Prop :=
  (∀ (s : State) (c : Instr) (rest : List Instr), s.pending = c :: rest →
      step s = exec c { s with pending := rest }) ∧
    ∀ s : State, s.pending = [] → step s = .next s

/-- R196: a hardware reset leaves every block in its reset state, and the part runs when RESET_N rises. The
comparators' health, the draw number and the queue are the model's own (log entries 4 and 9). R196: while the part is
held in reset, with PSC as R85 leaves it, no event and no command has an effect. R19, R26, R47, R48, R49, R85, R86,
R100, R121, R144, R146, R164, R179, R181, R192: the values that the rules give for a hardware reset. -/
def Obligations.HardwareResetHoldsThePart : Prop :=
  ((∀ s : State, exec .hardwareReset s = .next { State.reset with
       resetHeld := true
       hmon := { Hmon.reset with highFailed := s.hmon.highFailed, lowFailed := s.hmon.lowFailed }
       freeIndex := s.freeIndex + 1
       pending := s.pending }) ∧
     ∀ s : State, exec .resetRelease s = .next { s with resetHeld := false }) ∧
  (∀ (c : Instr) (s : State), s.resetHeld = true → s.psc = Psc.reset → c ≠ .hardwareReset → c ≠ .resetRelease →
     exec c s = .next s) ∧
  (State.reset.part = .unconfigured ∧ State.reset.dram = [] ∧
    (State.reset.lp.framer = .hunting ∧ State.reset.lp.cmdQueue = [] ∧ State.reset.lp.replyReserved = [] ∧
      State.reset.lp.replyFinished = [] ∧ State.reset.lp.reports = [] ∧ attn State.reset = false ∧
      State.reset.lp.tx = none ∧ State.reset.lp.linkErrors = 0 ∧ State.reset.lp.overrun = false ∧
      State.reset.lp.reportsLost = false ∧ State.reset.lp.watchdogPeriod = 0 ∧
      State.reset.lp.watchdogRunning = false ∧ State.reset.lp.unattended = false ∧ State.reset.lp.linkLost = false) ∧
    (State.reset.prx.contexts = List.replicate 8 none ∧ State.reset.prx.chunk = none ∧
      State.reset.prx.timeout = none) ∧
    (State.reset.pdir.entries.length = 64 ∧ (∀ e ∈ State.reset.pdir.entries, e.state = .empty) ∧
      State.reset.pdir.counter = 0 ∧ freeRecords State.reset = 8192) ∧
    (State.reset.psc.storeMiB = none ∧ (∀ b, State.reset.psc.link b = none) ∧ State.reset.psc.freeCount = 0 ∧
      State.reset.psc.poolSize = 0 ∧ State.reset.psc.inFlight = .idle ∧ State.reset.psc.waiting = [] ∧
      State.reset.psc.refreshInterval = none ∧ State.reset.psc.refreshMerged = false) ∧
    (State.reset.sct.sets = List.replicate 8 (ScreenSet.empty 0) ∧ State.reset.sct.tag = none ∧
      State.reset.sct.tileBuf = none ∧ State.reset.sct.fill = none) ∧
    (State.reset.ru.phase = .idle ∧ State.reset.ru.cursor = 0 ∧ State.reset.ru.claimed = none) ∧
    (State.reset.psch.queue = [] ∧ State.reset.psch.history = [] ∧ State.reset.psch.armed = none ∧
      State.reset.psch.fresh = false) ∧
    (State.reset.imp.nrev = 1024 ∧ State.reset.imp.lead = 1 ∧ State.reset.imp.swath = .full ∧
      State.reset.imp.half = 0 ∧ State.reset.imp.dwellLimit = 4 ∧ State.reset.imp.watermark = 512 ∧
      State.reset.imp.ring = List.replicate 8 .free ∧ State.reset.imp.fifo = [] ∧
      State.reset.imp.rev.decision = .idle ∧ State.reset.imp.closing = none ∧
      State.reset.imp.recordTaken = false ∧ State.reset.imp.underrun = none ∧ State.reset.imp.headWord = .raster 0) ∧
    (State.reset.hmon.channels.length = 32 ∧
      (∀ c ∈ State.reset.hmon.channels,
        c.low = 0 ∧ c.high = 1023 ∧ c.enabled = false ∧ c.state = .ok ∧ c.suspect = 0) ∧
      State.reset.hmon.plateLoaded = false ∧ State.reset.hmon.drumReady = false ∧ State.reset.hmon.nrev = 1024 ∧
      State.reset.hmon.slotCount = 0 ∧
      State.reset.hmon.overdue = false ∧ State.reset.hmon.indexLost = false ∧ State.reset.hmon.tolerance = 0 ∧
      State.reset.hmon.clockLoss = none ∧ State.reset.hmon.test = none) ∧
    State.reset.drec.plateOpen = false ∧ State.reset.drec.list = [] ∧ State.reset.drec.verdict = .good ∧
    State.reset.drec.mark = false ∧ State.reset.drec.reject = false)

/-! ## The command link (chapter 1) -/

/-- R3, R4: in HUNTING a byte other than A7h is discarded without trace and A7h starts a frame. In FRAME, a LENGTH
over 4096 discards the frame, and every other byte before the frame's last is kept. R6, R7, R8, R17, R18: a frame's
last byte arrives. A CRC mismatch discards the frame and counts a link error. A valid frame restarts the watchdog,
clears UNATTENDED, lowers LINK_LOST, and enters the command queue, or sets COMMAND_OVERRUN when the queue holds 8. A
schedule test follows when it has cleared UNATTENDED (R129). R5, R7: the frame timer expires on a partial frame: it is
discarded and counted, and the framer hunts. R18: the watchdog expires: UNATTENDED is set, LINK_LOST goes high, and
the timer is stopped. That the expiry of a timer that does not run changes nothing is the model's choice (log entry
1). -/
def Obligations.FramesAreBuiltAndJudged : Prop :=
  (∀ (s : State) (b : Byte), s.resetHeld = false →
     (s.lp.framer = .hunting → b ≠ 0xA7#8 → exec (.byteReceived b) s = .next s) ∧
     (s.lp.framer = .hunting → b = 0xA7#8 →
       exec (.byteReceived b) s = .next { s with lp := { s.lp with framer := .frame [0xA7#8] } }) ∧
     (∀ bs, s.lp.framer = .frame bs → bs.length = 2 → 4096 < frameLength (bs ++ [b]) →
       exec (.byteReceived b) s = .next { s with lp := { s.lp with
         framer := .hunting
         linkErrors := if s.lp.linkErrors < 65535 then s.lp.linkErrors + 1 else s.lp.linkErrors } }) ∧
     (∀ bs, s.lp.framer = .frame bs →
       (bs.length < 2 ∨ (bs.length = 2 ∧ frameLength (bs ++ [b]) ≤ 4096) ∨
         (3 ≤ bs.length ∧ bs.length + 1 < 7 + frameLength bs)) →
       exec (.byteReceived b) s = .next { s with lp := { s.lp with framer := .frame (bs ++ [b]) } })) ∧
  (∀ (s : State) (b : Byte) (bs : List Byte), s.resetHeld = false → s.lp.framer = .frame bs → 3 ≤ bs.length →
     bs.length + 1 = 7 + frameLength bs →
     let whole := bs ++ [b]
     let sound := crc16 ((whole.drop 1).take (4 + frameLength whole)) =
       BitVec.ofNat 16 (halfAt whole (5 + frameLength whole))
     let f : Frame := ⟨whole.getD 3 0, whole.getD 4 0, (whole.drop 5).take (frameLength whole)⟩
     let l : Lp := { s.lp with
       framer := .hunting
       watchdogRunning := decide (s.lp.watchdogPeriod ≠ 0)
       unattended := false
       linkLost := false
       cmdQueue := if s.lp.cmdQueue.length < 8 then s.lp.cmdQueue ++ [f] else s.lp.cmdQueue
       overrun := if s.lp.cmdQueue.length < 8 then s.lp.overrun else true }
     (¬sound → exec (.frameReceived b) s = .next { s with lp := { s.lp with
         framer := .hunting
         linkErrors := if s.lp.linkErrors < 65535 then s.lp.linkErrors + 1 else s.lp.linkErrors } }) ∧
     (sound → s.lp.unattended = false → exec (.frameReceived b) s = .next { s with lp := l }) ∧
     (sound → s.lp.unattended = true → exec (.frameReceived b) s = .next (scheduleTest { s with lp := l }))) ∧
  ((∀ (s : State) (bs : List Byte), s.resetHeld = false → s.lp.framer = .frame bs →
       exec .frameTimerExpiry s = .next { s with lp := { s.lp with
         framer := .hunting
         linkErrors := if s.lp.linkErrors < 65535 then s.lp.linkErrors + 1 else s.lp.linkErrors } }) ∧
     ∀ s : State, s.lp.framer = .hunting → exec .frameTimerExpiry s = .next s) ∧
  ((∀ s : State, s.resetHeld = false → s.lp.watchdogRunning = true →
       exec .watchdogExpiry s =
         .next { s with lp := { s.lp with unattended := true, linkLost := true, watchdogRunning := false } }) ∧
     ∀ s : State, s.lp.watchdogRunning = false → exec .watchdogExpiry s = .next s)

/-- R1, R3, R4, R6: encoding and decoding of a frame agree. The bytes that the part would send for a message (R1),
received one by one by a framer that hunts, give a valid frame with that KIND, TAG and payload. That the last byte,
arriving as BYTE_RECEIVED, is judged as R6 says is the model's choice (log entry 1). -/
def Obligations.FrameBytesAreReceivedAsTheirMessage : Prop :=
  ∀ (s : State) (kind tag : Byte) (payload : List Byte), s.resetHeld = false → s.lp.framer = .hunting →
    s.pending = [] → payload.length ≤ 4096 →
    steps (frameBytes kind tag payload).length
        { s with pending := (frameBytes kind tag payload).map Instr.byteReceived } =
      .next (acceptFrame ⟨kind, tag, payload⟩ s)

/-- R15: with the line free, the oldest finished reply begins, or, with no finished reply, the report at the head of
the report queue, with TAG 0 (R2). Beginning a frame removes it from its queue. A frame being sent is not interrupted,
and with both queues empty nothing is sent. At a frame's last byte the line is free. R12, R37, R64, R138, R175: the
payload of each report, field by field. The fields that belong to another event are sent as 0, so that every field
keeps its place, and a list follows its count. (Widths with no stated range, and the one place of a PLATE.NOTE's job
id: log entries 10 and 11.) R14: a report joins the tail of the report queue, and is lost, with REPORTS_LOST set, when
16 wait there; ATTN is high exactly while the queue holds a report. -/
def Obligations.TransmitterSendsRepliesBeforeReports : Prop :=
  (∀ s : State, s.resetHeld = false →
    (∀ r rest, s.lp.tx = none → s.lp.replyFinished = r :: rest →
      exec .beginTransmission s = .next { s with lp := { s.lp with
        replyFinished := rest, tx := some (frameBytes r.kind r.tag r.payload) } }) ∧
    (∀ r rest, s.lp.tx = none → s.lp.replyFinished = [] → s.lp.reports = r :: rest →
      exec .beginTransmission s = .next { s with lp := { s.lp with
        reports := rest, tx := some (frameBytes r.kind 0 r.payload) } }) ∧
    (s.lp.tx = none → s.lp.replyFinished = [] → s.lp.reports = [] → exec .beginTransmission s = .next s) ∧
    (∀ bytes, s.lp.tx = some bytes → exec .beginTransmission s = .next s) ∧
    exec .frameSent s = .next { s with lp := { s.lp with tx := none } }) ∧
  (∀ (l : Lp) (r : Report),
    (l.reports.length < 16 → l.queueReport r = { l with reports := l.reports ++ [r] }) ∧
    (16 ≤ l.reports.length → l.queueReport r = { l with reportsLost := true })) ∧
  (∀ s : State, attn s = true ↔ s.lp.reports ≠ []) ∧
  (∀ n : PageNote,
    let own : Nat × List Byte := match n.event with
      | .closed => (1, [0, 0, 0, 0, 0, 0, 0, 0, 0])
      | .timedOut => (2, [0, 0, 0, 0, 0, 0, 0, 0, 0])
      | .repaired => (3, [0, 0, 0, 0, 0, 0, 0, 0, 0])
      | .repairEnded => (4, [0, 0, 0, 0, 0, 0, 0, 0, 0])
      | .superseded h v r => (5, u8 h ++ u16 v ++ u8 r ++ [0, 0, 0, 0, 0])
      | .released c k => (6, [0, 0, 0, 0] ++ u8 c.code ++ u16 k ++ [0, 0])
      | .storeDamaged k => (7, [0, 0, 0, 0, 0, 0, 0] ++ u16 k)
    (Report.page n).kind = 0xC0#8 ∧ (Report.page n).payload =
      u8 own.1 ++ u8 n.handle ++ u8 n.key.edition ++ u8 n.key.section_ ++ u8 n.key.page ++ u8 n.key.separation ++
        u16 n.version ++ u8 n.state.code ++ u16 n.damaged ++ flagByte n.timeout ++ u8 n.listed.length ++
        n.listed.flatMap u16 ++ own.2) ∧
  (∀ (id set generation defects : Nat) (bound : List (Nat × Nat)) (st : JobState) (r : Option JobResult)
      (f : Option FitFault) (v : Option Verdict),
    (Report.plate (.started id set generation bound)).kind = 0xC1#8 ∧
    (Report.plate (.started id set generation bound)).payload =
      u8 1 ++ u16 id ++ u8 set ++ u16 generation ++ u8 bound.length ++ bound.flatMap (fun b => u8 b.1 ++ u16 b.2) ++
        ([0, 0, 0, 0, 0] : List Byte) ∧
    (Report.plate (.ended id st r f v defects)).payload =
      u8 2 ++ u16 id ++ [0, 0, 0, 0] ++ u8 st.code ++ u8 ((r.map JobResult.code).getD 0) ++
        u8 ((f.map FitFault.code).getD 0) ++ u8 ((v.map Verdict.code).getD 0) ++ u8 defects) ∧
  (∀ (mask : Word) (k low high suspect reading job line n carriage : Nat) (clock : ClockName) (a b c d : Bool),
    (Report.head (.clockLost clock job n) mask).kind = 0xC2#8 ∧
    (Report.head (.channelFaulted k low high suspect reading job line) mask).payload =
      u8 1 ++ u8 k ++ u16 low ++ u16 high ++ u16 suspect ++ u16 reading ++ u16 job ++ u16 line ++
        [0, 0, 0, 0, 0, 0, 0] ++ [0, 0, 0, 0, 0, 0] ++ u32 mask.toNat ∧
    (Report.head (.clockLost clock job n) mask).payload =
      u8 2 ++ List.replicate 13 (0 : Byte) ++ u8 (match clock with | .slotClk => 1 | .drumIndex => 2) ++ u16 job ++ u32 n ++
        [0, 0, 0, 0, 0, 0] ++ u32 mask.toNat ∧
    (Report.head (.headState a b c d carriage) mask).payload =
      u8 3 ++ List.replicate 20 (0 : Byte) ++ flagByte a ++ flagByte b ++ flagByte c ++ flagByte d ++ u16 carriage ++
        u32 mask.toNat)

/-- R10, R11: a taken command with TAG 0 is answered BAD_FIELD, whatever its KIND, and one of another TAG whose KIND
is no command of R2 is answered UNKNOWN_KIND. The reply's KIND is the command's plus 80h, its TAG the command's, and
its payload the result code alone. R9: a command waits at the head of the command queue, its effect not begun, while
the chunk buffer or the tile buffer holds data, while every reply place is in use, and while the part is held in
reset. That the taking of a command changes nothing while the command queue is empty is the model's choice (log entry
1). -/
def Obligations.LpTakesAndAnswersCommands : Prop :=
  (∀ (s : State) (f : Frame) (rest : List Frame), takes s f rest →
     (f.tag = 0#8 → exec .tagZero s = .next { s with lp := { s.lp with
       cmdQueue := rest, replyFinished := s.lp.replyFinished ++ [⟨f.kind + 0x80#8, 0, [0x05]⟩] } }) ∧
     (f.tag ≠ 0#8 →
       f.kind.toNat ∉ [0x01, 0x02, 0x03, 0x10, 0x11, 0x12, 0x13, 0x14, 0x20, 0x21, 0x22, 0x23, 0x30, 0x31, 0x32, 0x40,
         0x41, 0x42] →
       exec .unknownKind s = .next { s with lp := { s.lp with
         cmdQueue := rest, replyFinished := s.lp.replyFinished ++ [⟨f.kind + 0x80#8, f.tag, [0x0B]⟩] } })) ∧
  (∀ (s : State) (c : Instr),
     c ∈ [.tagZero, .unknownKind, .status, .configure, .restart, .pageOpen, .pageBand, .pageClose, .pageQuery,
       .pageDrop, .screenBegin, .screenTile, .screenEnd, .screenQuery, .plateQueue, .plateCancel, .plateQuery,
       .plateList, .headSetup, .channelClear, .monitorTest] →
     s.prx.chunk ≠ none ∨ s.sct.tileBuf ≠ none ∨ 8 ≤ s.lp.replyReserved.length + s.lp.replyFinished.length ∨
       s.resetHeld = true ∨ s.lp.cmdQueue = [] →
     exec c s = .next s)

/-! ## The part (chapter 11) -/

/-- R192: in UNCONFIGURED the fourteen kinds of command that serve pages, screens, plates, channels and the test are
answered NOT_READY, whatever their payload, and have no other effect. -/
def Obligations.UnconfiguredRefusesCommands : Prop :=
  ∀ (s : State) (f : Frame) (rest : List Frame), takes s f rest → s.part = .unconfigured → f.tag ≠ 0#8 →
    (∀ p ∈ [(Instr.pageOpen, 0x10), (.pageBand, 0x11), (.pageClose, 0x12), (.pageQuery, 0x13), (.pageDrop, 0x14),
        (.screenBegin, 0x20), (.screenTile, 0x21), (.screenEnd, 0x22), (.screenQuery, 0x23), (.plateQueue, 0x30),
        (.plateCancel, 0x31), (.channelClear, 0x41), (.monitorTest, 0x42)],
      f.kind = BitVec.ofNat 8 p.2 → exec p.1 s = .next (answer f 0x0A [] (taken s rest))) ∧
    (f.kind = 0x32 →
      (f.payload = [0, 0] → exec .plateList s = .next (answer f 0x0A [] (taken s rest))) ∧
      (f.payload ≠ [0, 0] → exec .plateQuery s = .next (answer f 0x0A [] (taken s rest))))

/-- R199, R16: STATUS is answered OK with its fields, in both states of the part, and clears COMMAND_OVERRUN and
REPORTS_LOST, which the reply carries as they stood. With a payload it is answered BAD_FIELD and clears neither. -/
def Obligations.StatusAnswersAndClearsTheLinkFlags : Prop :=
  ∀ (s : State) (f : Frame) (rest : List Frame), takes s f rest → ofKind 0x01 f →
    let fields : List Byte :=
      u8 (match s.part with | .unconfigured => 0 | .ready => 1) ++ flagByte s.lp.unattended ++
        u16 (s.psc.storeMiB.getD 0) ++ u16 s.psc.poolSize ++ u16 s.psc.freeCount ++
        u16 (8192 - (s.pdir.entries.map (fun e => e.bands.length)).sum) ++
        u8 (s.pdir.entries.countP (fun e => e.state != .empty)) ++
        u8 s.psch.queue.length ++ u8 s.psch.history.length ++
        u16 (((armedJob s).map Job.id).getD 0) ++ u8 (((armedJob s).map (fun j => j.state.code)).getD 0) ++
        s.imp.ring.flatMap (fun r => u8 r.code) ++ maskBytes (faultMask s) ++
        flagByte s.hmon.plateLoaded ++ flagByte s.hmon.drumReady ++ flagByte s.psch.fresh ++
        flagByte s.hmon.test.isSome ++ u16 s.lp.linkErrors ++
        u8 ((if s.lp.overrun then 1 else 0) + (if s.lp.reportsLost then 2 else 0) +
          (if s.psc.refreshMerged then 4 else 0))
    (f.payload = [] → exec .status s = .next { s with lp := { s.lp with
      cmdQueue := rest
      replyFinished := s.lp.replyFinished ++ [⟨f.kind + 0x80#8, f.tag, 0x00 :: fields⟩]
      overrun := false
      reportsLost := false } }) ∧
    (f.payload ≠ [] → exec .status s = .next (answer f 0x05 [] (taken s rest)))

/-- R193: the checks of CONFIGURE in order: payload of 7 bytes, in READY no page entry and no queued job, a store size
of the five, a refresh interval of 1.0 to 15.9 µs. The first that fails decides the reply, and nothing else happens.
R193, R194, R195, R70, R74, R17, R80, R100: an accepted CONFIGURE makes the part READY, clamps and stores its values,
restarts the watchdog, and replies with the values stored. In UNCONFIGURED, and when the store size changes, the pool
is built and every screen set is EMPTY with its generation kept. Otherwise pool and sets stay. -/
def Obligations.ConfigureChecksAndStoresItsValues : Prop :=
  (∀ (s : State) (f : Frame) (rest : List Frame), takes s f rest → ofKind 0x02 f →
     let busy := s.part = .ready ∧ ((∃ e ∈ s.pdir.entries, e.state ≠ .empty) ∨ s.psch.queue ≠ [])
     let values := halfAt f.payload 0 ∈ [64, 128, 256, 512, 1024] ∧ 10 ≤ byteAt f.payload 2 ∧ byteAt f.payload 2 ≤ 159
     (f.payload.length ≠ 7 → exec .configure s = .next (answer f 0x05 [] (taken s rest))) ∧
     (f.payload.length = 7 → busy → exec .configure s = .next (answer f 0x01 [] (taken s rest))) ∧
     (f.payload.length = 7 → ¬busy → ¬values → exec .configure s = .next (answer f 0x05 [] (taken s rest)))) ∧
  (∀ (s : State) (f : Frame) (rest : List Frame) (mib : Nat) (interval watchdog reception tolerance clock : Byte),
     takes s f rest → ofKind 0x02 f → mib ∈ [64, 128, 256, 512, 1024] →
     10 ≤ interval.toNat → interval.toNat ≤ 159 →
     f.payload = u16 mib ++ [interval, watchdog, reception, tolerance, clock] →
     (s.part = .ready → (∀ e ∈ s.pdir.entries, e.state = .empty) ∧ s.psch.queue = []) →
     let w := min watchdog.toNat 60
     let r := max reception.toNat 1
     let c := max clock.toNat 1
     let build := s.part = .unconfigured ∨ s.psc.storeMiB ≠ some mib
     ∃ t, exec .configure s = .next t ∧ t.part = .ready ∧
       t.lp = { s.lp with
         cmdQueue := rest
         watchdogPeriod := w
         watchdogRunning := decide (w ≠ 0)
         replyFinished := s.lp.replyFinished ++ [⟨f.kind + 0x80#8, f.tag,
           0x00 :: (u8 1 ++ u16 mib ++ u8 interval.toNat ++ u8 w ++ u8 r ++ u8 tolerance.toNat ++ u8 c)⟩] } ∧
       t.prx = { s.prx with timeout := some r } ∧
       t.hmon = { s.hmon with tolerance := tolerance.toNat, clockLoss := some c } ∧
       t.psc.storeMiB = some mib ∧ t.psc.refreshInterval = some interval.toNat ∧
       (build → t.psc.poolIs (List.range' 128 (mib * 64 - 128)) ∧ t.psc.poolSize = mib * 64 - 128 ∧
         t.sct = { s.sct with sets := s.sct.sets.map (fun x => ScreenSet.empty x.generation), tag := none }) ∧
       (¬build → t.psc = { s.psc with refreshInterval := some interval.toNat } ∧ t.sct = s.sct) ∧
       t.psc.inFlight = s.psc.inFlight ∧ t.psc.waiting = s.psc.waiting ∧ t.psc.refreshMerged = s.psc.refreshMerged ∧
       { t with part := s.part, lp := s.lp, prx := s.prx, hmon := s.hmon, psc := s.psc, sct := s.sct } = s)

/-- R197, R192: a RESTART with a payload is answered BAD_FIELD, and one in UNCONFIGURED is answered OK and changes
nothing. R197, R198 and the owners' rules (R20, R46, R47, R49, R74, R83, R85, R98, R100, R120, R144, R160, R164, R179,
R190): RESTART taken in READY clears and keeps what the table of R197 says. The requests of RU, of the fill and of the
imaging fetch are withdrawn and their burst in flight is left to end, and all others stay. With a job IMAGING, RU
stops, the rest of the revolution is dark with closing pending set, whatever the revolution's decision (log entry 29),
and PLATE_REJECT goes high with PLATE_MARK low. -/
def Obligations.RestartClearsTheNightsWork : Prop :=
  (∀ (s : State) (f : Frame) (rest : List Frame), takes s f rest → ofKind 0x03 f →
     (f.payload ≠ [] → exec .restart s = .next (answer f 0x05 [] (taken s rest))) ∧
     (f.payload = [] → s.part = .unconfigured → exec .restart s = .next (answer f 0x00 [] (taken s rest)))) ∧
  (∀ (s : State) (f : Frame) (rest : List Frame), takes s f rest → ofKind 0x03 f → s.part = .ready → f.payload = [] →
     let stops := fun (c : Client) =>
       c == .impFetch || (c == .sctFill && s.sct.fill.isSome) || (c == .ru && (imagingJob s).isSome)
     ∃ t, exec .restart s = .next t ∧
       t.lp = { s.lp with
         cmdQueue := []
         reports := []
         linkErrors := 0
         overrun := false
         reportsLost := false
         replyFinished := s.lp.replyFinished ++ [⟨f.kind + 0x80#8, f.tag, [0x00]⟩] } ∧
       t.prx = { s.prx with contexts := s.prx.contexts.map (fun _ => none), chunk := none } ∧
       t.pdir = ⟨List.replicate 64 Entry.empty, 0⟩ ∧
       t.psc.storeMiB = s.psc.storeMiB ∧ t.psc.refreshInterval = s.psc.refreshInterval ∧ t.psc.refreshMerged = false ∧
       t.psc.waiting = s.psc.waiting.filter (fun o => !stops o.client) ∧
       (∀ op, s.psc.inFlight = .busy op →
         t.psc.inFlight = .busy (if stops op.client = true then { op with stale := true } else op)) ∧
       (s.psc.inFlight = .idle → t.psc.inFlight = .idle) ∧
       (∀ m, s.psc.storeMiB = some m → 129 ≤ m * 64 →
         t.psc.poolIs (List.range' 128 (m * 64 - 128)) ∧ t.psc.poolSize = m * 64 - 128) ∧
       t.sct = { s.sct with
         sets := s.sct.sets.map (fun x => if x.state = .loading then ScreenSet.empty x.generation else x)
         tag := none
         fill := none } ∧
       t.psch = ⟨[], [], none, s.psch.fresh⟩ ∧
       t.hmon = { s.hmon with channels := s.hmon.channels.map (fun c => { c with state := .ok, suspect := 0 }) } ∧
       t.imp.ring = s.imp.ring.map (fun _ => .free) ∧ t.imp.fifo = [] ∧ t.imp.nrev = s.imp.nrev ∧
       t.imp.lead = s.imp.lead ∧ t.imp.swath = s.imp.swath ∧ t.imp.half = s.imp.half ∧
       t.imp.dwellLimit = s.imp.dwellLimit ∧ t.imp.watermark = s.imp.watermark ∧
       t.drec.list = [] ∧ t.drec.verdict = .good ∧ t.drec.plateOpen = false ∧
       (imagingJob s = none → t.ru = s.ru ∧ t.imp.rev = s.imp.rev ∧ t.imp.closing = s.imp.closing ∧
         t.drec.mark = s.drec.mark ∧ t.drec.reject = s.drec.reject) ∧
       (imagingJob s ≠ none → t.ru.phase = .idle ∧ t.ru.claimed = none ∧ t.ru.cursor = 0 ∧ t.imp.rev.live = false ∧
         t.imp.rev.dark = true ∧ t.imp.closing = some s.imp.exposed ∧
         t.drec.mark = false ∧ t.drec.reject = true) ∧
       { t with lp := s.lp, prx := s.prx, pdir := s.pdir, psc := s.psc, sct := s.sct, ru := s.ru, psch := s.psch,
                imp := s.imp, hmon := s.hmon, drec := s.drec } = s)

/-! ## Page parcels and the directory (chapters 2 and 3) -/

/-- R21, R27, R35, R60, R63, R87, R124, R145: the payloads of the commands with many fields. A payload is read, field
by field, exactly when it is the layout of fields in their ranges, and every other payload (another length, a wrong
signature, a field out of range, a supersedes not below the version, two slots with equal x0) is refused. (A PAGE.CLOSE
of another length: log entry 12. A queued job's defect count is 0: log entry 28.) -/
def Obligations.PayloadsAreReadAsLaidOut : Prop :=
  ∀ p : List Byte,
  (∀ (x : ParcelHeader), parseOpen p = some x ↔
      x.key.edition < 256 ∧ x.key.section_ ≤ 31 ∧ 1 ≤ x.key.page ∧ x.key.page < 256 ∧ x.key.separation ≤ 3 ∧
      x.version ≤ 65534 ∧ (∀ v, x.supersedes = some v → v < x.version) ∧ 64 ≤ x.width ∧ x.width ≤ 16384 ∧
      1 ≤ x.descriptors.length ∧ x.descriptors.length ≤ 384 ∧ (∀ d ∈ x.descriptors, 1 ≤ d.1 ∧ d.1 ≤ 1048576) ∧
      p = [0x4B, 0x44, 0xB4, 0xBB] ++ u8 x.key.edition ++ u8 x.key.section_ ++ u8 x.key.page ++
        u8 x.key.separation ++ u16 x.version ++ u16 (x.supersedes.getD 65535) ++ u16 x.width ++
        u16 x.descriptors.length ++ x.descriptors.flatMap (fun d => u32 d.1 ++ u16 d.2.toNat)) ∧
    (∀ (x : ChunkOperands), parseBand p = some x ↔
      x.handle ≤ 63 ∧ x.band < 65536 ∧ x.offset < 4294967296 ∧ 1 ≤ x.chunk.length ∧ x.chunk.length ≤ 4080 ∧
      p = u8 x.handle ++ u16 x.band ++ u32 x.offset ++ flagByte x.last ++ x.chunk) ∧
    (∀ h, parseClose p = some h ↔ h ≤ 63 ∧ p = u8 h) ∧
    (∀ h first, parsePageQuery p = some (h, first) ↔ h ≤ 63 ∧ first < 65536 ∧ p = u8 h ++ u16 first) ∧
    (∀ h (k : PageKey) v, parseDrop p = some (h, k, v) ↔ h ≤ 63 ∧ k.edition < 256 ∧ k.section_ < 256 ∧ k.page < 256 ∧
      k.separation < 256 ∧ v < 65536 ∧
      p = u8 h ++ u8 k.edition ++ u8 k.section_ ++ u8 k.page ++ u8 k.separation ++ u16 v) ∧
    (∀ (x : ScreenShape), parseScreenBegin p = some x ↔
      x.setIndex ≤ 7 ∧ x.width < 65536 ∧ x.height < 65536 ∧ x.shift < 65536 ∧ x.minDot < 65536 ∧ x.maxDot < 65536 ∧
      x.curve.length = 17 ∧ (∀ c ∈ x.curve, c < 65536) ∧
      p = u8 x.setIndex ++ u16 x.width ++ u16 x.height ++ u16 x.shift ++ u16 x.minDot ++ u16 x.maxDot ++
        x.curve.flatMap u16) ∧
    (∀ (j : Job), parseQueue p = some j ↔
      1 ≤ j.id ∧ j.id ≤ 65535 ∧ j.separation ≤ 3 ∧ j.setIndex ≤ 7 ∧ j.top % 64 = 0 ∧ j.top ≤ 32704 ∧
      1 ≤ j.bp ∧ j.bp ≤ 512 ∧ 64 ≤ j.wp ∧ j.wp ≤ 32768 ∧ (j.slots.length = 1 ∨ j.slots.length = 2) ∧
      (∀ t ∈ j.slots, t.bound = none ∧ t.key.edition < 256 ∧ t.key.section_ ≤ 31 ∧ 1 ≤ t.key.page ∧
        t.key.page < 256 ∧ t.key.separation = j.separation ∧ t.x0 ≤ 32767) ∧
      (j.slots.map JobSlot.x0).Nodup ∧
      (j.state = .queued ∧ j.generation = 0 ∧ j.cancelRequested = false ∧ j.result = none ∧ j.fit = none ∧
        j.verdict = none ∧ j.defects = 0) ∧
      p = u16 j.id ++ u8 j.separation ++ u8 j.setIndex ++ u8 (if j.policy = .hold then 0 else 1) ++ u16 j.top ++
        u16 j.bp ++ u16 j.wp ++ u8 j.slots.length ++ j.slots.flatMap (fun t => u8 t.key.edition ++ u8 t.key.section_ ++
          u8 t.key.page ++ u8 t.key.separation ++ u16 t.x0)) ∧
    ∀ (x : HeadSettings), parseHeadSetup p = some x ↔
      x.nrev < 65536 ∧ x.lead < 256 ∧ x.swath < 256 ∧ x.half < 256 ∧ x.dwellLimit < 256 ∧ x.watermark < 65536 ∧
      x.windows.length = 32 ∧ (∀ w ∈ x.windows, w.1 < 65536 ∧ w.2 < 65536) ∧
      p = u16 x.nrev ++ u8 x.lead ++ u8 x.swath ++ u8 x.half ++ u8 x.dwellLimit ++ u16 x.watermark ++
        u32 x.enables.toNat ++ x.windows.flatMap (fun w => u16 w.1 ++ u16 w.2)

/-- R21, R22, R24: the refusals of PAGE.OPEN in order. STALE_VERSION names the handle and version of the entry of the
key in RECEIVING, COMPLETE or DAMAGED that has the highest version. A refused PAGE.OPEN has no other effect. R25, R49:
an accepted PAGE.OPEN takes the lowest-numbered EMPTY entry and the lowest-numbered free context. The reply carries
the handle, and a schedule test follows (R50, R129). R23, R24: with an older reception of its key open, its entry,
context and band records count as free. If they suffice, the older reception is closed first: it ends SUPERSEDED with
its partial chains returned, its CLOSED note is queued, and it is released. -/
def Obligations.PageOpenIsCheckedAndCreatesAnEntry : Prop :=
  let stale := fun (x : ParcelHeader) (e : Entry) =>
    (e.state = .receiving ∨ e.state = .complete ∨ e.state = .damaged) ∧ e.key = x.key ∧ x.version ≤ e.version
  let held := fun (x : ParcelHeader) (s : State) =>
    ∀ v, x.supersedes = some v → ∃ e ∈ s.pdir.entries, e.state ≠ .empty ∧ e.key = x.key ∧ e.version = v
  let opened := fun (x : ParcelHeader) (h i : Nat) (s : State) =>
    let stamp := if s.pdir.counter + 1 = 4294967296 then 0 else s.pdir.counter + 1
    let e : Entry :=
      { state := .receiving, key := x.key, version := x.version, supersedes := x.supersedes, width := x.width,
        stamp := stamp,
        bands := x.descriptors.map (fun d =>
          { length := d.1, check := d.2, received := 0, state := .expected, cause := none, head := none }),
        refs := 0, damaged := 0, timeout := false, storeSuspect := false }
    let c : Context :=
      { handle := h, mode := .reception, running := true,
        bands := (List.range x.descriptors.length).map (fun b =>
          { band := b, sum := 0, tail := none, scan := .lineArt 0 0 false none }) }
    ({ s with
      pdir := { entries := s.pdir.entries.set h e, counter := stamp }
      prx := { s.prx with contexts := s.prx.contexts.set i (some c) } } : State)
  (∀ (s : State) (f : Frame) (rest : List Frame), takes s f rest → ofKind 0x10 f → s.part = .ready →
     (parseOpen f.payload = none → exec .pageOpen s = .next (answer f 0x05 [] (taken s rest))) ∧
     ∀ x, parseOpen f.payload = some x →
       let noOlder := ∀ e ∈ s.pdir.entries, ¬(e.state = .receiving ∧ e.key = x.key)
       (∀ h e, s.pdir.entries[h]? = some e → stale x e →
         (∀ (g : Nat) (d : Entry), s.pdir.entries[g]? = some d → g ≠ h → stale x d → d.version < e.version) →
         exec .pageOpen s = .next (answer f 0x08 (u8 h ++ u16 e.version) (taken s rest))) ∧
       ((∀ e ∈ s.pdir.entries, ¬stale x e) → ¬held x s → exec .pageOpen s = .next (answer f 0x09 [] (taken s rest))) ∧
       ((∀ e ∈ s.pdir.entries, ¬stale x e) → held x s → noOlder →
         ((∀ e ∈ s.pdir.entries, e.state ≠ .empty) ∨ (∀ c ∈ s.prx.contexts, c ≠ none) ∨
           freeRecords s < x.descriptors.length) →
         exec .pageOpen s = .next (answer f 0x03 [] (taken s rest)))) ∧
  (∀ (s : State) (f : Frame) (rest : List Frame) (x : ParcelHeader) (h i : Nat), takes s f rest → ofKind 0x10 f →
     s.part = .ready → parseOpen f.payload = some x →
     (∀ e ∈ s.pdir.entries, e.key = x.key →
       e.state = .empty ∨ e.state = .superseded ∨ (e.state ≠ .receiving ∧ e.version < x.version)) → held x s →
     s.pdir.entries.findIdx? (fun e => e.state == .empty) = some h →
     s.prx.contexts.findIdx? Option.isNone = some i → x.descriptors.length ≤ freeRecords s →
     s.pdir.counter < 4294967296 →
     exec .pageOpen s = .next (scheduleTest (answer f 0x00 (u8 h) (opened x h i (taken s rest))))) ∧
  (∀ (s : State) (f : Frame) (rest : List Frame) (x : ParcelHeader) (g : Nat) (e : Entry), takes s f rest →
     ofKind 0x10 f → s.part = .ready → parseOpen f.payload = some x → (∀ d ∈ s.pdir.entries, ¬stale x d) → held x s →
     s.pdir.entries[g]? = some e → e.state = .receiving → e.key = x.key →
     (∀ (k : Nat) (d : Entry), s.pdir.entries[k]? = some d → d.state = .receiving → d.key = x.key → k = g) →
     (freeRecords s + e.bands.length < x.descriptors.length →
       exec .pageOpen s = .next (answer f 0x03 [] (taken s rest))) ∧
     ∀ (j h i : Nat), x.descriptors.length ≤ freeRecords s + e.bands.length → contextOf s g = some j →
       (∀ (k : Nat) (c : Context), s.prx.contexts[k]? = some (some c) → c.handle = g → k = j) →
       (s.pdir.entries.set g Entry.empty).findIdx? (fun d => d.state == .empty) = some h →
       (s.prx.contexts.set j none).findIdx? Option.isNone = some i → s.pdir.counter < 4294967296 →
       let gone : Entry := { e.ended with state := .superseded }
       let closed : State := { taken s rest with
         psc := s.psc.returnChains e.openChains
         pdir := { s.pdir with entries := s.pdir.entries.set g gone }
         prx := { s.prx with contexts := s.prx.contexts.set j none }
         lp := { s.lp.queueReport (gone.noteOf .closed g) with cmdQueue := rest } }
       exec .pageOpen s =
         .next (scheduleTest (answer f 0x00 (u8 h) (opened x h i (releaseEntry g .superseded closed)))))

/-- R27: the refusals of PAGE.BAND, in order, for a chunk that opens no repair: a malformed payload, an entry neither
RECEIVING nor DAMAGED, a band index without a record, a band that is not open, an offset that is not the received
count, and a length or a LAST that does not fit the declared length. None has another effect. R28, R71: a chunk that
needs a block when no block is free is refused STORE_FULL, and nothing of it is kept. -/
def Obligations.PageBandRefusals : Prop :=
  (∀ (s : State) (f : Frame) (rest : List Frame), takes s f rest → ofKind 0x11 f → s.part = .ready →
     (parseBand f.payload = none → exec .pageBand s = .next (answer f 0x05 [] (taken s rest))) ∧
     ∀ x, parseBand f.payload = some x →
       let e := entry s x.handle
       let isOpen := e.state = .receiving ∨ underRepair s x.handle x.band = true
       (e.state ≠ .receiving → e.state ≠ .damaged → exec .pageBand s = .next (answer f 0x06 [] (taken s rest))) ∧
       ((e.state = .receiving ∨ e.state = .damaged) →
         (e.bands[x.band]? = none → exec .pageBand s = .next (answer f 0x05 [] (taken s rest))) ∧
         ∀ r, e.bands[x.band]? = some r →
           (¬isOpen → r.state ≠ .damaged → r.state ≠ .missing →
             exec .pageBand s = .next (answer f 0x06 [] (taken s rest))) ∧
           (isOpen → x.offset ≠ r.received → exec .pageBand s = .next (answer f 0x07 [] (taken s rest))) ∧
           (isOpen → x.offset = r.received →
             (r.length < x.offset + x.chunk.length ∨ (x.last = true ↔ x.offset + x.chunk.length ≠ r.length)) →
             exec .pageBand s = .next (answer f 0x05 [] (taken s rest))))) ∧
  (∀ (s : State) (f : Frame) (rest : List Frame) (x : ChunkOperands) (r : BandRecord) (i : Nat) (c : Context),
     takes s f rest → ofKind 0x11 f → s.part = .ready → parseBand f.payload = some x →
     ((entry s x.handle).state = .receiving ∨
       ((entry s x.handle).state = .damaged ∧ underRepair s x.handle x.band = true)) →
     (entry s x.handle).bands[x.band]? = some r →
     contextOf s x.handle = some i → s.prx.contexts[i]? = some (some c) →
     x.offset = r.received → x.offset + x.chunk.length ≤ r.length →
     (x.last = true ↔ x.offset + x.chunk.length = r.length) →
     (r.received % 16384 = 0 ∨ 16384 < r.received % 16384 + x.chunk.length) → s.psc.freeCount = 0 →
     exec .pageBand s = .next (answer f 0x04 [] (taken s rest)))

/-- R27 to R30, R42: an accepted chunk that fits in the band's last block, of a band in reception or a later one of a
band under repair. Its bytes enter the chunk buffer, the first of their bursts is asked for, the received count and
running sum rise, the structural check goes on through them, the reception timer stops, and the reply carries the
received count. While a burst that R46 left behind is in flight no burst is asked for (R76, log entry 22). -/
def Obligations.ChunkIsTaken : Prop :=
  ∀ (s : State) (f : Frame) (rest : List Frame) (x : ChunkOperands) (r : BandRecord) (i tail a : Nat)
    (c : Context) (p : BandProgress) (bs : List Byte) (todo : List (Nat × List Byte)),
    takes s f rest → ofKind 0x11 f → s.part = .ready → parseBand f.payload = some x →
    ((entry s x.handle).state = .receiving ∨
      ((entry s x.handle).state = .damaged ∧ underRepair s x.handle x.band = true)) →
    x.handle < s.pdir.entries.length →
    (entry s x.handle).bands[x.band]? = some r → (r.state = .expected ∨ r.state = .arriving) →
    contextOf s x.handle = some i → s.prx.contexts[i]? = some (some c) →
    c.bands.find? (fun q => q.band == x.band) = some p → p.tail = some tail →
    x.offset = r.received → r.received % 16384 ≠ 0 →
    r.received % 16384 + x.chunk.length ≤ 16384 → x.offset + x.chunk.length ≤ r.length →
    (x.last = true ↔ x.offset + x.chunk.length = r.length) →
    burstsOf (tail * 16384 + r.received % 16384) x.chunk = (a, bs) :: todo →
    let r' : BandRecord := { r with received := r.received + x.chunk.length, state := .arriving }
    let p' : BandProgress :=
      { p with sum := sumFrom p.sum x.chunk, scan := scanChunk (entry s x.handle).width p.scan x.chunk }
    let c' : Context :=
      { c with running := false, bands := c.bands.map (fun q => if q.band = x.band then p' else q) }
    let held := fun (left : List (Nat × List Byte)) (psc : Psc) => answer f 0x00
      (u8 x.handle ++ u16 x.band ++ u32 (r.received + x.chunk.length) ++ flagByte false)
      { taken s rest with
        pdir := { s.pdir with entries := (s.pdir.entries.set x.handle
          { entry s x.handle with bands := (entry s x.handle).bands.set x.band r' }) }
        prx := { s.prx with
          contexts := s.prx.contexts.set i (some c')
          chunk := some ⟨x.handle, x.band, x.last, x.chunk, left⟩ }
        psc := psc }
    (s.psc.engaged .prxWrite = false →
      exec .pageBand s = .next (held todo (s.psc.request ⟨.prxWrite, .write a bs, false⟩))) ∧
    (staleWriteInFlight s → exec .pageBand s = .next (held ((a, bs) :: todo) s.psc))

/-- R28, R71, R42: a chunk that needs a block: it begins one, or it crosses from the band's last block into a new one.
PSC lends the head block of the pool: the block's link becomes the new head, the free count falls by one, END is
written for the lent block and the block is linked behind the band's tail, or recorded as its chain head when it has
none. The last free block leaves a pool with no head and no tail. The chunk's bytes go to the end of the old last
block and on to the new block's start. R46: while a burst that an emptied chunk buffer left behind is in flight, the
chunk waits, its command not taken (log entry 22). -/
def Obligations.ChunkTakesTheHeadBlockOfThePool : Prop :=
  ∀ (s : State) (f : Frame) (rest : List Frame) (x : ChunkOperands) (r : BandRecord) (i block a : Nat)
    (c : Context) (p : BandProgress) (pool : List Nat) (bs : List Byte) (todo : List (Nat × List Byte)),
    takes s f rest → ofKind 0x11 f → s.part = .ready → parseBand f.payload = some x →
    ((entry s x.handle).state = .receiving ∨
      ((entry s x.handle).state = .damaged ∧ underRepair s x.handle x.band = true)) →
    x.handle < s.pdir.entries.length →
    (entry s x.handle).bands[x.band]? = some r → contextOf s x.handle = some i →
    s.prx.contexts[i]? = some (some c) → c.bands.find? (fun q => q.band == x.band) = some p →
    x.offset = r.received → x.offset + x.chunk.length ≤ r.length →
    (x.last = true ↔ x.offset + x.chunk.length = r.length) →
    (r.received % 16384 = 0 ∨ (16384 < r.received % 16384 + x.chunk.length ∧ p.tail ≠ none)) →
    s.psc.poolIs (block :: pool) → (∀ t, p.tail = some t → t ∉ block :: pool) →
    let here := if r.received % 16384 = 0 then 0 else 16384 - r.received % 16384
    burstsOf (p.tail.getD 0 * 16384 + r.received % 16384) (x.chunk.take here) ++
      burstsOf (block * 16384) (x.chunk.drop here) = (a, bs) :: todo →
    let r' : BandRecord := { r with
      received := r.received + x.chunk.length
      state := if r.state = .expected then .arriving else r.state
      head := r.head.or (some block) }
    let p' : BandProgress :=
      ⟨x.band, sumFrom p.sum x.chunk, some block, scanChunk (entry s x.handle).width p.scan x.chunk⟩
    let c' : Context :=
      { c with running := false, bands := c.bands.map (fun q => if q.band = x.band then p' else q) }
    (staleWriteInFlight s → exec .pageBand s = .next s) ∧
    (s.psc.engaged .prxWrite = false →
      ∃ t, exec .pageBand s = .next t ∧ t.psc.poolIs pool ∧ t.psc.link block = none ∧
        (∀ u, p.tail = some u → t.psc.link u = some block) ∧
        (∀ b, b ≠ block → p.tail ≠ some b → t.psc.link b = s.psc.link b) ∧
        t.pdir = { s.pdir with entries := (s.pdir.entries.set x.handle
          { entry s x.handle with bands := (entry s x.handle).bands.set x.band r' }) } ∧
        t.prx = { s.prx with
          contexts := s.prx.contexts.set i (some c')
          chunk := some ⟨x.handle, x.band, x.last, x.chunk, todo⟩ } ∧
        (t.psc.inFlight, t.psc.waiting) =
          ((s.psc.request ⟨.prxWrite, .write a bs, false⟩).inFlight,
            (s.psc.request ⟨.prxWrite, .write a bs, false⟩).waiting) ∧
        t.psc.storeMiB = s.psc.storeMiB ∧ t.psc.poolSize = s.psc.poolSize ∧
        t.psc.refreshInterval = s.psc.refreshInterval ∧ t.psc.refreshMerged = s.psc.refreshMerged ∧
        t.lp = { s.lp with
          cmdQueue := rest
          replyFinished := s.lp.replyFinished ++ [⟨f.kind + 0x80#8, f.tag,
            0x00 :: (u8 x.handle ++ u16 x.band ++ u32 (r.received + x.chunk.length) ++ flagByte false)⟩] } ∧
        { t with lp := s.lp, prx := s.prx, pdir := s.pdir, psc := s.psc } = s)

/-- R41: a repair opener of an unbound DAMAGED entry whose band is DAMAGED or MISSING. Where it opens a repair, the
lowest-numbered free context serves it; where one is open for the entry, the band joins it. The band's old chain is
returned to the pool, and it restarts ARRIVING with nothing received; the chunk is then placed, and the reply says that
a repair was opened. The opener of a bound entry is refused IN_USE, one with an offset other than 0 NOT_OPEN, one whose
length or LAST does not fit BAD_FIELD, and one without a free context NO_ROOM. R46: it waits while a burst left behind
is in flight (log entry 22). R42, R43: a band under repair completes. DAMAGED again, it leaves the repair with its new
cause and the count as it was. GOOD, it lowers the count; and when that comes to 0 the entry becomes COMPLETE, the
context is freed, the REPAIRED note is queued, and a schedule test follows, before or after the arbiter takes the end
(R77). -/
def Obligations.RepairsAreOpenedAndJudged : Prop :=
  (∀ (s : State) (f : Frame) (rest : List Frame) (x : ChunkOperands) (r : BandRecord), takes s f rest → ofKind 0x11 f →
     s.part = .ready → parseBand f.payload = some x → (entry s x.handle).state = .damaged →
     (entry s x.handle).bands[x.band]? = some r → (r.state = .damaged ∨ r.state = .missing) →
     underRepair s x.handle x.band = false →
     let e := entry s x.handle
     let fits := x.chunk.length ≤ r.length ∧ (x.last = true ↔ x.chunk.length = r.length)
     let fresh : BandProgress := ⟨x.band, 0, none, .lineArt 0 0 false none⟩
     let opened := fun (i : Nat) (c : Context) => ({ (returnChain r.head (taken s rest)).1 with
       pdir := { s.pdir with entries := (s.pdir.entries.set x.handle
         { e with bands := (e.bands.set x.band
             { r with state := .arriving, cause := none, received := 0, head := none }) }) }
       prx := { s.prx with contexts := s.prx.contexts.set i (some c) } } : State)
     let placed := fun (t : State) => answer f 0x00
       (u8 x.handle ++ u16 x.band ++ u32 (((bandOf t x.handle x.band).map BandRecord.received).getD 0) ++ flagByte true) t
     (e.refs ≠ 0 → exec .pageBand s = .next (answer f 0x02 [] (taken s rest))) ∧
     (e.refs = 0 → x.offset ≠ 0 → exec .pageBand s = .next (answer f 0x06 [] (taken s rest))) ∧
     (e.refs = 0 → x.offset = 0 → ¬fits → exec .pageBand s = .next (answer f 0x05 [] (taken s rest))) ∧
     (e.refs = 0 → x.offset = 0 → fits → contextOf s x.handle = none → (∀ c ∈ s.prx.contexts, c ≠ none) →
       exec .pageBand s = .next (answer f 0x03 [] (taken s rest))) ∧
     (∀ i, e.refs = 0 → x.offset = 0 → fits → contextOf s x.handle = none →
       s.prx.contexts.findIdx? Option.isNone = some i →
       let t := opened i ⟨x.handle, .repair, true, [fresh]⟩
       (placeChunk i x.handle x.band 0 x.last x.chunk t = none → exec .pageBand s = .next (answer f 0x04 [] t)) ∧
       ∀ u, placeChunk i x.handle x.band 0 x.last x.chunk t = some u →
         (staleWriteInFlight s → exec .pageBand s = .next s) ∧
         (¬staleWriteInFlight s → exec .pageBand s = .next (placed u))) ∧
     (∀ i c, e.refs = 0 → x.offset = 0 → fits → contextOf s x.handle = some i →
       s.prx.contexts[i]? = some (some c) →
       let t := opened i { c with bands := c.bands ++ [fresh] }
       (placeChunk i x.handle x.band 0 x.last x.chunk t = none →
         exec .pageBand s = .next (answer f 0x04 [] (opened i { c with running := true, bands := c.bands ++ [fresh] }))) ∧
       ∀ u, placeChunk i x.handle x.band 0 x.last x.chunk t = some u →
         (staleWriteInFlight s → exec .pageBand s = .next s) ∧
         (¬staleWriteInFlight s → exec .pageBand s = .next (placed u)))) ∧
  (∀ (s : State) (o : EndOrder) (a i : Nat) (bs : List Byte) (k : Chunk) (c : Context) (p : BandProgress)
     (r : BandRecord),
     s.psc.inFlight = .busy ⟨.prxWrite, .write a bs, false⟩ → s.prx.chunk = some k →
     k.todo = [] → k.last = true → contextOf s k.handle = some i → s.prx.contexts[i]? = some (some c) →
     c.mode = .repair → k.handle < s.pdir.entries.length → c.bands.find? (fun q => q.band == k.band) = some p →
     (entry s k.handle).bands[k.band]? = some r →
     let e := entry s k.handle
     let base : State := { s with dram := storeBytes a bs s.dram, psc := s.psc.endOperation }
     let c' : Context := { c with running := true, bands := c.bands.filter (fun q => q.band != k.band) }
     let good : Entry := { e with
       bands := (e.bands.set k.band { r with state := .good, cause := none }), damaged := e.damaged - 1 }
     (∀ cause, bandVerdict p r = some cause → exec (.linkWriteBurstDone o) s = .next { base with
       prx := { s.prx with chunk := none, contexts := s.prx.contexts.set i (some c') }
       pdir := { s.pdir with entries := (s.pdir.entries.set k.handle
         { e with bands := e.bands.set k.band { r with state := .damaged, cause := some cause } }) } }) ∧
     (bandVerdict p r = none → 2 ≤ e.damaged → exec (.linkWriteBurstDone o) s = .next { base with
       prx := { s.prx with chunk := none, contexts := s.prx.contexts.set i (some c') }
       pdir := { s.pdir with entries := s.pdir.entries.set k.handle good } }) ∧
     (bandVerdict p r = none → e.damaged = 1 → e.state = .damaged →
       let repaired := fun (psc : Psc) => scheduleTest { base with
         psc := psc
         prx := { s.prx with chunk := none, contexts := s.prx.contexts.set i none }
         pdir := { s.pdir with entries := s.pdir.entries.set k.handle { good with state := .complete } }
         lp := s.lp.queueReport (Entry.noteOf { good with state := .complete } .repaired k.handle) }
       exec (.linkWriteBurstDone o) s = .next (atEnd o s repaired)))

/-- R35, R36, R37, R50, R72: PAGE.CLOSE of an entry in RECEIVING, with no other version of its key held. The bands not
completed become MISSING and their chains go back to the pool in band order, the entry becomes COMPLETE or DAMAGED, the
context is freed, the CLOSED note is queued, the reply carries the state and the damaged band count, and a schedule
test follows. R39: the reception timer of a running context expires on an entry in RECEIVING with no other version of
its key held: the TIMEOUT mark is set, the reception ends as at a close, and the note's event is TIMED_OUT. R39, R44:
it expires on an entry with an open repair, which ends as at a close, with the mark and the event TIMED_OUT. That the
expiry of a timer that does not run changes nothing is the model's choice (log entry 1). -/
def Obligations.CloseAndTimeoutEndAReception : Prop :=
  (∀ (s : State) (f : Frame) (rest : List Frame) (h i : Nat), takes s f rest → ofKind 0x12 f → s.part = .ready →
     f.payload = u8 h → h ≤ 63 → h < s.pdir.entries.length → (entry s h).state = .receiving →
     contextOf s h = some i → (∀ g, g ≠ h → (entry s g).state ≠ .empty → (entry s g).key ≠ (entry s h).key) →
     let e := (entry s h).ended
     exec .pageClose s = .next (scheduleTest { s with
       psc := s.psc.returnChains (entry s h).openChains
       pdir := { s.pdir with entries := s.pdir.entries.set h e }
       prx := { s.prx with contexts := s.prx.contexts.set i none }
       lp := { s.lp.queueReport (e.noteOf .closed h) with
         cmdQueue := rest
         replyFinished := s.lp.replyFinished ++
           [⟨f.kind + 0x80#8, f.tag, 0x00 :: (u8 e.state.code ++ u16 e.damaged)⟩] } })) ∧
  (∀ (s : State) (i : Nat) (c : Context), s.resetHeld = false → s.prx.contexts[i]? = some (some c) → c.running = true →
     c.handle < s.pdir.entries.length → contextOf s c.handle = some i →
     ((entry s c.handle).state = .receiving →
       (∀ g, g ≠ c.handle → (entry s g).state ≠ .empty → (entry s g).key ≠ (entry s c.handle).key) →
       let e := Entry.ended { entry s c.handle with timeout := true }
       exec (.receptionTimeout i) s = .next (scheduleTest { s with
         psc := s.psc.returnChains (entry s c.handle).openChains
         pdir := { s.pdir with entries := s.pdir.entries.set c.handle e }
         prx := { s.prx with contexts := s.prx.contexts.set i none }
         lp := s.lp.queueReport (e.noteOf .timedOut c.handle) })) ∧
     ((entry s c.handle).state ≠ .receiving → (∀ k, s.prx.chunk = some k → k.handle ≠ c.handle) →
       let e := Entry.missed { entry s c.handle with timeout := true }
       exec (.receptionTimeout i) s = .next { s with
         psc := s.psc.returnChains (entry s c.handle).openChains
         pdir := { s.pdir with entries := s.pdir.entries.set c.handle e }
         prx := { s.prx with contexts := s.prx.contexts.set i none }
         lp := s.lp.queueReport (e.noteOf .timedOut c.handle) })) ∧
  ∀ (s : State) (i : Nat), (∀ c, s.prx.contexts[i]? = some (some c) → c.running = false) →
    exec (.receptionTimeout i) s = .next s

/-- R51 to R54, R57, R39: what the close of a reception by PAGE.CLOSE, or its end by the reception timeout, does with
other versions of its key held. The bands not completed are MISSING, their chains returned in band order, the context
freed, and the CLOSED or TIMED_OUT note queued first. With a newer version of its key held, the closing entry is
SUPERSEDED and is then released. Otherwise it ends COMPLETE or DAMAGED, and every other closed entry of the key is then
retired, in handle order: released when it is not bound, SUPERSEDED and kept when it is. A chunk in the chunk buffer of
an entry so retired or released is dropped, PRX's request withdrawn and its burst in flight left to end; a chunk of any
other entry stays. All other entries are as they were, and a schedule test follows. (Retiring and releasing:
PagesAreReleasedRetiredAndBound.) -/
def Obligations.CloseAppliesSupersession : Prop :=
  ∀ (s : State) (h : Nat), h < s.pdir.entries.length → (entry s h).state = .receiving →
    let rival := fun g => g ≠ h ∧ (entry s g).key = (entry s h).key ∧
      ((entry s g).state = .complete ∨ (entry s g).state = .damaged)
    let newer := ∃ g, g ≠ h ∧ (entry s g).key = (entry s h).key ∧ (entry s h).version < (entry s g).version ∧
      ((entry s g).state = .receiving ∨ (entry s g).state = .complete ∨ (entry s g).state = .damaged)
    let dropsChunk := ∃ k, s.prx.chunk = some k ∧ ((newer ∧ k.handle = h) ∨
      (¬newer ∧ rival k.handle ∧ (contextOf s k.handle ≠ none ∨ (entry s k.handle).refs = 0)))
    let ends := fun (ev : PageEvent) (e : Entry) (base u : State) =>
      let closed := fun (d : Entry) => ({ base with
        psc := s.psc.returnChains (entry s h).openChains
        pdir := { s.pdir with entries := s.pdir.entries.set h d }
        prx := { s.prx with contexts := match contextOf s h with
          | some i => s.prx.contexts.set i none
          | none => s.prx.contexts }
        lp := base.lp.queueReport (d.noteOf ev h) } : State)
      (newer → u = releaseEntry h .superseded (closed { e with state := .superseded }) ∧
        entry u h = Entry.empty ∧ ∀ g, g ≠ h → entry u g = entry s g) ∧
      (¬newer →
        (∀ rivals : List Nat, rivals.Pairwise (· < ·) → (∀ g, g ∈ rivals ↔ rival g) →
          u = rivals.foldl (fun t g => retire h g t) (closed e)) ∧
        entry u h = e ∧
        (∀ g, rival g → (entry s g).refs = 0 → entry u g = Entry.empty) ∧
        (∀ g, rival g → (entry s g).refs ≠ 0 → contextOf s g = none →
          entry u g = { entry s g with state := .superseded }) ∧
        (∀ g, g ≠ h → ¬rival g → entry u g = entry s g)) ∧
      (dropsChunk → u.prx.chunk = none ∧ u.psc.poolAside (s.psc.dropped .prxWrite)) ∧
      (¬dropsChunk → u.prx.chunk = s.prx.chunk ∧ u.psc.poolAside s.psc) ∧
      u.pdir.counter = s.pdir.counter ∧ { u.prx with contexts := s.prx.contexts, chunk := s.prx.chunk } = s.prx ∧
      { u.lp with reports := base.lp.reports, reportsLost := base.lp.reportsLost } = base.lp ∧
      { u with lp := base.lp, prx := s.prx, pdir := s.pdir, psc := s.psc } = base
    (∀ (f : Frame) (rest : List Frame), takes s f rest → ofKind 0x12 f → s.part = .ready → f.payload = u8 h → h ≤ 63 →
      ∃ u st, (newer → st = 5) ∧ (¬newer → st = (entry s h).ended.state.code) ∧
        exec .pageClose s = .next (scheduleTest (answer f 0x00 (u8 st ++ u16 (entry s h).ended.damaged) u)) ∧
        ends .closed (entry s h).ended (taken s rest) u) ∧
    ∀ (i : Nat) (c : Context), s.resetHeld = false → s.prx.contexts[i]? = some (some c) → c.running = true →
      c.handle = h →
      ∃ u, exec (.receptionTimeout i) s = .next (scheduleTest u) ∧
        ends .timedOut (Entry.ended { entry s h with timeout := true }) s u

/-- R35, R44, R72: PAGE.CLOSE of an entry with an open repair. The bands under repair become MISSING and their chains
go back to the pool in band order, the context is freed, the entry's state and damaged band count are as they were, and
the CLOSED note is queued. For an entry neither RECEIVING nor under repair the reply is NOT_OPEN, and for a payload
that is no handle BAD_FIELD (other lengths: log entry 12). -/
def Obligations.PageCloseEndsARepair : Prop :=
  ∀ (s : State) (f : Frame) (rest : List Frame), takes s f rest → ofKind 0x12 f → s.part = .ready →
    (¬(f.payload.length = 1 ∧ byteAt f.payload 0 ≤ 63) → exec .pageClose s = .next (answer f 0x05 [] (taken s rest))) ∧
    ∀ h, f.payload = u8 h → h ≤ 63 → (entry s h).state ≠ .receiving →
      (contextOf s h = none → exec .pageClose s = .next (answer f 0x06 [] (taken s rest))) ∧
      ∀ i, contextOf s h = some i → h < s.pdir.entries.length →
        let e : Entry := (entry s h).missed
        exec .pageClose s = .next { s with
          psc := s.psc.returnChains (entry s h).openChains
          pdir := { s.pdir with entries := s.pdir.entries.set h e }
          prx := { s.prx with contexts := s.prx.contexts.set i none }
          lp := { s.lp.queueReport (e.noteOf .closed h) with
            cmdQueue := rest
            replyFinished := s.lp.replyFinished ++
              [⟨f.kind + 0x80#8, f.tag, 0x00 :: (u8 e.state.code ++ u16 e.damaged)⟩] } }

/-- R60, R61, R62, R59, R64, R72: PAGE.DROP releases an unbound entry whose key and version are those given: its chains
go back to the pool in band order, its context is freed, the RELEASED note is queued with cause DROPPED and the number
of blocks returned, and the entry is EMPTY. A payload of another length or a handle above 63 is BAD_FIELD, a wrong key
or version NOT_OPEN, and a bound entry IN_USE with its state. (The two bytes of the number of blocks: log entry 10.) -/
def Obligations.PageDropReleasesTheEntry : Prop :=
  (∀ (s : State) (f : Frame) (rest : List Frame), takes s f rest → ofKind 0x14 f → s.part = .ready →
    ¬(f.payload.length = 7 ∧ byteAt f.payload 0 ≤ 63) → exec .pageDrop s = .next (answer f 0x05 [] (taken s rest))) ∧
  ∀ (s : State) (f : Frame) (rest : List Frame) (h v : Nat) (k : PageKey), takes s f rest → ofKind 0x14 f →
    s.part = .ready → parseDrop f.payload = some (h, k, v) →
    let e := entry s h
    (e.state = .empty ∨ e.key ≠ k ∨ e.version ≠ v → exec .pageDrop s = .next (answer f 0x06 [] (taken s rest))) ∧
    (e.state ≠ .empty → e.key = k → e.version = v → e.refs ≠ 0 →
      exec .pageDrop s = .next (answer f 0x02 (u8 e.state.code) (taken s rest))) ∧
    (e.state ≠ .empty → e.key = k → e.version = v → e.refs = 0 → h < s.pdir.entries.length →
      let psc := s.psc.returnChains e.chains
      let blocks := psc.freeCount - s.psc.freeCount
      s.psc.freeCount ≤ psc.freeCount ∧ psc.poolAside s.psc ∧
      exec .pageDrop s = .next (scheduleTest { s with
        psc := psc
        pdir := { s.pdir with entries := s.pdir.entries.set h Entry.empty }
        prx := { s.prx with contexts := match contextOf s h with
          | some i => s.prx.contexts.set i none
          | none => s.prx.contexts }
        lp := { s.lp.queueReport (e.releaseNote .dropped blocks h) with
          cmdQueue := rest
          replyFinished := s.lp.replyFinished ++ [⟨f.kind + 0x80#8, f.tag, 0x00 :: (u8 h ++ u16 blocks)⟩] } }))

/-- R46, R78: the chunk buffer is emptied of an entry's chunk: PRX's request is withdrawn, its burst in flight left to
end. R44, R45: an open repair ends, its bands MISSING, their chains returned in band order, the context freed, the note
queued if it has one. R59, R64: an entry is released: the chunk buffer, the context, every chain in band order, and the
RELEASED note with the blocks returned. R52 to R54: an entry is retired by the close of another: an open repair ends
without a note, the entry is SUPERSEDED, its SUPERSEDED note is queued, and its release follows when it is not bound.
R45, R56: an entry is bound: an open repair ends with its REPAIR_ENDED note, and the reference count rises. R58, R66:
an entry is unbound: the count falls; a SUPERSEDED entry is released with cause DEFERRED, and one with the
STORE_SUSPECT mark has its GOOD bands marked, with the STORE_DAMAGED note. -/
def Obligations.PagesAreReleasedRetiredAndBound : Prop :=
  (∀ (s : State) (h : Nat),
    ((∃ k, s.prx.chunk = some k ∧ k.handle = h) →
      emptyChunkOf h s = { s with psc := s.psc.dropped .prxWrite, prx := { s.prx with chunk := none } }) ∧
    ((∀ k, s.prx.chunk = some k → k.handle ≠ h) → emptyChunkOf h s = s)) ∧
  (∀ (s : State) (h i : Nat) (note : Option PageEvent), h < s.pdir.entries.length → contextOf s h = some i →
    let t := emptyChunkOf h s
    let e := (entry s h).missed
    endRepair h note s = { t with
      psc := t.psc.returnChains (entry s h).openChains
      prx := { t.prx with contexts := s.prx.contexts.set i none }
      pdir := { s.pdir with entries := s.pdir.entries.set h e }
      lp := match note with
        | some ev => s.lp.queueReport (e.noteOf ev h)
        | none => s.lp }) ∧
  (∀ (s : State) (h : Nat) (cause : ReleaseCause), h < s.pdir.entries.length →
    let t := emptyChunkOf h s
    let psc := t.psc.returnChains (entry s h).chains
    s.psc.freeCount ≤ psc.freeCount ∧
    releaseEntry h cause s = { t with
      psc := psc
      prx := { t.prx with contexts := match contextOf s h with
        | some i => s.prx.contexts.set i none
        | none => s.prx.contexts }
      pdir := { s.pdir with entries := s.pdir.entries.set h Entry.empty }
      lp := s.lp.queueReport ((entry s h).releaseNote cause (psc.freeCount - s.psc.freeCount) h) }) ∧
  (∀ (s : State) (h g : Nat), g < s.pdir.entries.length → g ≠ h →
    let t := if contextOf s g = none then s else endRepair g none s
    let e : Entry := { entry t g with state := .superseded }
    let u : State := { t with
      pdir := { t.pdir with entries := t.pdir.entries.set g e }
      lp := t.lp.queueReport (e.noteOf (.superseded h (entry s h).version e.refs) g) }
    ((entry s g).refs ≠ 0 → retire h g s = u) ∧
    ((entry s g).refs = 0 → retire h g s = releaseEntry g .superseded u)) ∧
  (∀ (s : State) (h : Nat), h < s.pdir.entries.length →
    let t := if contextOf s h = none then s else endRepair h (some .repairEnded) s
    bindEntry s h = { t with
      pdir := { t.pdir with entries := t.pdir.entries.set h { entry t h with refs := (entry s h).refs + 1 } } }) ∧
  ∀ (s : State) (h : Nat), h < s.pdir.entries.length →
    let e : Entry := { entry s h with refs := (entry s h).refs - 1 }
    let became := fun (d : Entry) => ({ s with pdir := { s.pdir with entries := s.pdir.entries.set h d } } : State)
    let clean : Entry := { e with storeSuspect := false }
    (e.state = .superseded → unbindEntry s h = releaseEntry h .deferred (became e)) ∧
    (e.state ≠ .superseded → e.storeSuspect = false → unbindEntry s h = became e) ∧
    (e.state ≠ .superseded → e.storeSuspect = true → e.goodBands = 0 → unbindEntry s h = became clean) ∧
    (e.state ≠ .superseded → e.storeSuspect = true → e.goodBands ≠ 0 → unbindEntry s h = { became clean.marked with
      lp := s.lp.queueReport (clean.marked.noteOf (.storeDamaged e.goodBands) h) })

/-- R63: PAGE.QUERY answers and changes nothing else. A malformed payload is BAD_FIELD, and so is a first band index
past the entry's bands; for an EMPTY entry the reply carries the handle and the state. R99: SCREEN.QUERY answers the
set's fields, the flag of the tag and the number of jobs that name the set, and changes nothing else. (The model's own
choices of layout: the width of a received count, log entry 10; the 17 curve points with no count before them, and the
reply for an EMPTY entry, log entry 11.) -/
def Obligations.PageAndScreenQueriesAnswer : Prop :=
  (∀ (s : State) (f : Frame) (rest : List Frame), takes s f rest → ofKind 0x13 f → s.part = .ready →
     (¬(f.payload.length = 3 ∧ byteAt f.payload 0 ≤ 63) → exec .pageQuery s = .next (answer f 0x05 [] (taken s rest))) ∧
     ∀ h first, h ≤ 63 → first < 65536 → f.payload = u8 h ++ u16 first →
       let e := entry s h
       let held : Nat × Nat := match contextOf s h with
         | none => (0, 0)
         | some i => ((match contextAt s i with
             | some c => match c.mode with | .reception => 1 | .repair => 2
             | none => 0), i)
       (e.state = .empty → exec .pageQuery s = .next (answer f 0x00 (u8 h ++ u8 1) (taken s rest))) ∧
       (e.state ≠ .empty → e.bands.length ≤ first → exec .pageQuery s = .next (answer f 0x05 [] (taken s rest))) ∧
       (e.state ≠ .empty → first < e.bands.length → exec .pageQuery s = .next (answer f 0x00
         (u8 h ++ u8 e.state.code ++ e.key.bytes ++ u16 e.version ++ u16 (e.supersedes.getD 65535) ++ u16 e.width ++
           u16 e.bands.length ++ u32 e.stamp ++ u8 e.refs ++ u16 e.damaged ++ flagByte e.timeout ++
           flagByte e.storeSuspect ++ u8 held.1 ++ u8 held.2 ++ u16 first ++ u8 (min 64 (e.bands.length - first)) ++
           ((e.bands.zipIdx.drop first).take 64).flatMap (fun p =>
             u8 p.1.state.code ++ u8 (codeOr0 DamageCause.code p.1.cause) ++ u32 p.1.received ++
               flagByte (underRepair s h p.2)))
         (taken s rest)))) ∧
  (∀ (s : State) (f : Frame) (rest : List Frame), takes s f rest → ofKind 0x23 f → s.part = .ready →
     (¬(f.payload.length = 1 ∧ byteAt f.payload 0 ≤ 7) →
       exec .screenQuery s = .next (answer f 0x05 [] (taken s rest))) ∧
     ∀ t, t ≤ 7 → f.payload = u8 t →
       let x := screenSet s t
       exec .screenQuery s = .next (answer f 0x00
         (u8 t ++ u8 x.state.code ++ u16 x.width ++ u16 x.height ++ u16 x.shift ++ u16 x.minDot ++ u16 x.maxDot ++
           x.curve.flatMap u16 ++ u32 x.received ++ u16 x.runCrc.toNat ++ u16 x.loadCrc.toNat ++ u16 x.generation ++
           u16 x.failedCrc.toNat ++ flagByte (decide (s.sct.tag = some (t, x.generation))) ++
           u8 ((s.psch.queue.filter (fun j => j.setIndex == t)).length)) (taken s rest)))

/-- R29, R75: the completion of a link-write burst of a chunk with bursts still to come. Its bytes are in the store,
and PRX asks for the next burst, before or after the arbiter takes the end (R77). R46, R78: the completion of a burst
that an emptied chunk buffer left behind. Its bytes are in the store, no band is judged by it, and PRX asks for the
first burst of a chunk that has come since (R76: "at the completion of the one before, or later"; that it asks at this
completion is the model's inference, log entry 22). R29, R30 to R34, R38: the last link-write burst of a chunk. The chunk
buffer is empty and the reception timer starts anew. When the chunk was LAST, its band leaves the context and is
judged: CHECKSUM when the running sum and the check word do not come to 0, else the structural check's fault, SHORT
when the check expects more, GOOD otherwise. In a RECEIVING entry a DAMAGED band raises the damaged band count. -/
def Obligations.ChunkIsWrittenAndItsBandJudged : Prop :=
  (∀ (s : State) (o : EndOrder) (a a' : Nat) (bs bs' : List Byte) (c : Chunk) (todo : List (Nat × List Byte))
     (stale : Bool),
     s.psc.inFlight = .busy ⟨.prxWrite, .write a bs, stale⟩ → s.prx.chunk = some c →
     c.todo = (a', bs') :: todo → (∀ p ∈ s.psc.waiting, p.client ≠ .prxWrite) →
     let next : Op := ⟨.prxWrite, .write a' bs', false⟩
     exec (.linkWriteBurstDone o) s = .next { s with
       dram := storeBytes a bs s.dram
       prx := { s.prx with chunk := some { c with todo := todo } }
       psc := match o with
         | .endFirst => s.psc.endOperation.request next
         | .askFirst => Psc.endOperation { s.psc with inFlight := .ending, waiting := s.psc.waiting ++ [next] } }) ∧
  (∀ (s : State) (o : EndOrder) (a : Nat) (bs : List Byte),
     s.psc.inFlight = .busy ⟨.prxWrite, .write a bs, true⟩ → (∀ k, s.prx.chunk = some k → k.todo = []) →
     exec (.linkWriteBurstDone o) s =
       .next { s with dram := storeBytes a bs s.dram, psc := s.psc.endOperation }) ∧
  (∀ (s : State) (o : EndOrder) (a i : Nat) (bs : List Byte) (k : Chunk) (c : Context) (p : BandProgress)
     (r : BandRecord),
     s.psc.inFlight = .busy ⟨.prxWrite, .write a bs, false⟩ → s.prx.chunk = some k →
     k.todo = [] → contextOf s k.handle = some i → s.prx.contexts[i]? = some (some c) →
     (k.last = false → exec (.linkWriteBurstDone o) s = .next { s with
       dram := storeBytes a bs s.dram
       psc := s.psc.endOperation
       prx := { s.prx with chunk := none, contexts := s.prx.contexts.set i (some { c with running := true }) } }) ∧
     (k.last = true → c.mode = .reception → k.handle < s.pdir.entries.length → c.bands.find? (fun q => q.band == k.band) = some p →
       (entry s k.handle).bands[k.band]? = some r →
       let e := entry s k.handle
       let verdict : Option DamageCause :=
         if p.sum + r.check ≠ 0 then some .checksum
         else match p.scan with
           | .done => none
           | .fault cause => some cause
           | _ => some .short
       let r' : BandRecord := { r with state := if verdict = none then .good else .damaged, cause := verdict }
       exec (.linkWriteBurstDone o) s = .next { s with
         dram := storeBytes a bs s.dram
         psc := s.psc.endOperation
         prx := { s.prx with
           chunk := none
           contexts := (s.prx.contexts.set i
             (some { c with running := true, bands := c.bands.filter (fun q => q.band != k.band) })) }
         pdir := { s.pdir with entries := (s.pdir.entries.set k.handle
           { e with
             bands := e.bands.set k.band r'
             damaged := if verdict = none then e.damaged else e.damaged + 1 }) } }))

/-! ## Screen sets (chapter 5) -/

/-- R87, R88, R86: SCREEN.BEGIN. The refusals in order, and the accepted command: the set becomes LOADING with its
shape and clamps, its generation kept, and its curve clamped point by point: C0 is 0, and each later point, taken as
at most 4095, is at least its stored predecessor. The reply counts the points changed, and a schedule test follows.
R91, R92: SCREEN.END ends a load READY, with the generation raised by one, when every threshold was received and the
running CRC is the one expected, and BAD otherwise. At the generation's wrap the tag is INVALID if it names the set. A
set that is not LOADING is NOT_OPEN. -/
def Obligations.ScreenLoadsBeginAndEnd : Prop :=
  (∀ (s : State) (f : Frame) (rest : List Frame), takes s f rest → ofKind 0x20 f → s.part = .ready →
     (parseScreenBegin f.payload = none → exec .screenBegin s = .next (answer f 0x05 [] (taken s rest))) ∧
     ∀ (x : ScreenShape), parseScreenBegin f.payload = some x →
       let named := ∃ j ∈ s.psch.queue, j.setIndex = x.setIndex
       let sound := 1 ≤ x.width ∧ x.width ≤ 2048 ∧ 1 ≤ x.height ∧ x.height ≤ 256 ∧ x.width * x.height ≤ 65536 ∧
         x.shift ≤ x.width - 1 ∧ x.minDot ≤ 4094 ∧ 1 ≤ x.maxDot ∧ x.maxDot ≤ 4095 ∧ x.minDot < x.maxDot
       (named → exec .screenBegin s = .next (answer f 0x02 [] (taken s rest))) ∧
       (¬named → ¬sound → exec .screenBegin s = .next (answer f 0x05 [] (taken s rest))) ∧
       ∀ (curve : List Nat), ¬named → sound → x.curve.length = 17 → curve.length = 17 → curve.head? = some 0 →
         (∀ k, k < 16 → curve.getD (k + 1) 0 = max (curve.getD k 0) (min 4095 (x.curve.getD (k + 1) 0))) →
         let changed := ((List.range 17).filter (fun k => curve.getD k 0 != x.curve.getD k 0)).length
         let g := (screenSet s x.setIndex).generation
         let set : ScreenSet :=
           { state := .loading, width := x.width, height := x.height, shift := x.shift, curve := curve,
             minDot := x.minDot, maxDot := x.maxDot, received := 0, runCrc := 0xFFFF#16, loadCrc := 0, failedCrc := 0,
             generation := g }
         exec .screenBegin s = .next (scheduleTest (answer f 0x00 (u8 x.setIndex ++ u16 g ++ u8 changed)
           { taken s rest with sct := { s.sct with sets := s.sct.sets.set x.setIndex set } }))) ∧
  ((∀ (s : State) (f : Frame) (rest : List Frame), takes s f rest → ofKind 0x22 f → s.part = .ready →
       ¬(f.payload.length = 3 ∧ byteAt f.payload 0 ≤ 7) → exec .screenEnd s = .next (answer f 0x05 [] (taken s rest))) ∧
   ∀ (s : State) (f : Frame) (rest : List Frame) (t : Nat) (crc : Half), takes s f rest → ofKind 0x22 f →
     s.part = .ready → t ≤ 7 → f.payload = u8 t ++ u16 crc.toNat →
     let x := screenSet s t
     let full := x.received = x.width * x.height ∧ x.runCrc = crc
     let after := fun (y : ScreenSet) (tag : Option (Nat × Nat)) (code : Byte) => scheduleTest (answer f code
       (u8 t ++ u8 y.state.code ++ u32 y.received ++ u16 y.runCrc.toNat)
       { taken s rest with sct := { s.sct with sets := s.sct.sets.set t y, tag := tag } })
     (x.state ≠ .loading → exec .screenEnd s = .next (answer f 0x06 [] (taken s rest))) ∧
     (x.state = .loading → ¬full → exec .screenEnd s = .next (after { x with state := .bad } s.sct.tag 0x05)) ∧
     (x.state = .loading → full → x.generation ≠ 65535 → exec .screenEnd s = .next
       (after { x with state := .ready, loadCrc := crc, generation := x.generation + 1 } s.sct.tag 0x00)) ∧
     (x.state = .loading → full → x.generation = 65535 → exec .screenEnd s = .next
       (after { x with state := .ready, loadCrc := crc, generation := 0 }
         (if s.sct.tag.map Prod.fst = some t then none else s.sct.tag) 0x00)))

/-- R89, R90: SCREEN.TILE. The refusals in order, and the accepted command: each threshold is clamped into 1..4095,
the clamped values are fed to the running CRC and counted, the tile buffer holds them, and the first burst to the tile
area is asked for. R90, R75: the completion of a tile-write burst. Its bytes are in the store. With bursts to come,
SCT asks for the next; after the last, the tile buffer is empty. R75: a transfer is cut into bursts. Their bytes are
the transfer's in order, each begins where the one before it ends, none is empty, none crosses a 64-byte unit, and each
but the last ends at the end of a unit. -/
def Obligations.ScreenTileIsTakenAndWritten : Prop :=
  ((∀ (s : State) (f : Frame) (rest : List Frame), takes s f rest → ofKind 0x21 f → s.part = .ready →
       ¬(f.payload.length % 2 = 1 ∧ 5 ≤ f.payload.length ∧ f.payload.length ≤ 4083 ∧ byteAt f.payload 0 ≤ 7) →
       exec .screenTile s = .next (answer f 0x05 [] (taken s rest))) ∧
   ∀ (s : State) (f : Frame) (rest : List Frame) (t start : Nat) (sent : List Nat), takes s f rest → ofKind 0x21 f →
     s.part = .ready → t ≤ 7 → start < 65536 → 1 ≤ sent.length → sent.length ≤ 2040 → (∀ v ∈ sent, v < 65536) →
     f.payload = u8 t ++ u16 start ++ sent.flatMap u16 →
     let x := screenSet s t
     let bytes := (sent.map (fun v => max 1 (min 4095 v))).flatMap u16
     (x.state ≠ .loading → exec .screenTile s = .next (answer f 0x06 [] (taken s rest))) ∧
     (x.state = .loading → start ≠ x.received → exec .screenTile s = .next (answer f 0x07 [] (taken s rest))) ∧
     (x.state = .loading → start = x.received → x.width * x.height < start + sent.length →
       exec .screenTile s = .next (answer f 0x05 [] (taken s rest))) ∧
     ∀ a bs todo, x.state = .loading → start = x.received → start + sent.length ≤ x.width * x.height →
       burstsOf (t * 131072 + 2 * start) bytes = (a, bs) :: todo → s.psc.engaged .sctTile = false →
       exec .screenTile s = .next (answer f 0x00 (u8 t ++ u32 (start + sent.length))
         { taken s rest with
           sct := { s.sct with
             sets := (s.sct.sets.set t
               { x with received := start + sent.length, runCrc := crcFrom x.runCrc bytes })
             tileBuf := some ⟨t, bytes, todo⟩ }
           psc := s.psc.request ⟨.sctTile, .write a bs, false⟩ })) ∧
  (∀ (s : State) (o : EndOrder) (a : Nat) (bs : List Byte) (stale : Bool) (c : TileBuffer),
     s.psc.inFlight = .busy ⟨.sctTile, .write a bs, stale⟩ → s.sct.tileBuf = some c →
     (∀ p ∈ s.psc.waiting, p.client ≠ .sctTile) →
     (c.todo = [] → exec (.tileWriteBurstDone o) s = .next { s with
       dram := storeBytes a bs s.dram, psc := s.psc.endOperation, sct := { s.sct with tileBuf := none } }) ∧
     ∀ a' bs' todo, c.todo = (a', bs') :: todo →
       let next : Op := ⟨.sctTile, .write a' bs', false⟩
       exec (.tileWriteBurstDone o) s = .next { s with
         dram := storeBytes a bs s.dram
         sct := { s.sct with tileBuf := some { c with todo := todo } }
         psc := match o with
           | .endFirst => s.psc.endOperation.request next
           | .askFirst => Psc.endOperation { s.psc with inFlight := .ending, waiting := s.psc.waiting ++ [next] } }) ∧
  ∀ (a : Nat) (bs : List Byte),
    (burstsOf a bs).flatMap Prod.snd = bs ∧
    (∀ pre p post, burstsOf a bs = pre ++ p :: post →
      p.1 = a + (pre.flatMap Prod.snd).length ∧ 1 ≤ p.2.length ∧ p.1 % 64 + p.2.length ≤ 64 ∧
      (post ≠ [] → p.1 % 64 + p.2.length = 64))

/-- R96, R97: the completion of a fill burst. Its bytes are the store's, taken in pairs: the fill's CRC covers the
values as read, and the cache holds them clamped into 1..4095. Before the last threshold, SCT asks for the next burst.
At the last, an equal CRC makes the tag name the set and the armed job IMAGING, and a different one makes the set
SUSPECT with the CRC found and ends the job TILE. R98, R78: a burst that a dropped fill left behind is discarded, and
SCT then asks for the first burst of the fill that has begun meanwhile, if one has. All of it is so in both orders of
R77. R96: a fill begins: the tag is INVALID, the fill's CRC register FFFFh with nothing taken, and the first burst of
the tile area is asked for, or waits for the end of a burst left behind (log entry 22). -/
def Obligations.FillBurstIsTakenAndTheFillJudged : Prop :=
  (∀ (s : State) (t generation : Nat),
    let bytes := 2 * (screenSet s t).width * (screenSet s t).height
    let sct : Sct := { s.sct with tag := none, fill := some ⟨t, generation, 0xFFFF#16, 0⟩ }
    (s.psc.engaged .sctFill = true → beginFill t generation s = { s with sct := sct }) ∧
    (s.psc.engaged .sctFill = false → 1 ≤ bytes → beginFill t generation s = { s with
      sct := sct, psc := s.psc.request ⟨.sctFill, .read (t * 131072) (min 64 bytes), false⟩ })) ∧
  (∀ (s : State) (o : EndOrder) (a n : Nat), s.psc.inFlight = .busy ⟨.sctFill, .read a n, true⟩ →
    (s.sct.fill = none → exec (.fillBurstDone o) s = .next { s with psc := s.psc.endOperation }) ∧
    ∀ g : Fill, s.sct.fill = some g → (∀ p ∈ s.psc.waiting, p.client ≠ .sctFill) →
      let bytes := 2 * (screenSet s g.setIndex).width * (screenSet s g.setIndex).height
      2 * g.taken < bytes → exec (.fillBurstDone o) s = .next (atEnd o s (fun psc => { s with
        psc := psc.request ⟨.sctFill, .read (g.setIndex * 131072 + 2 * g.taken) (min 64 (bytes - 2 * g.taken)),
          false⟩ }))) ∧
  ∀ (s : State) (o : EndOrder) (a n : Nat) (g : Fill), s.psc.inFlight = .busy ⟨.sctFill, .read a n, false⟩ →
    s.sct.fill = some g → (∀ p ∈ s.psc.waiting, p.client ≠ .sctFill) → g.taken ≤ s.sct.cache.length →
    let x := screenSet s g.setIndex
    let values := halvesOf (readBytes s a n)
    let crc := crcFrom g.crc (values.flatMap u16)
    let count := g.taken + values.length
    let cache := s.sct.cache.take g.taken ++ values.map (fun v => max 1 (min 4095 v)) ++ s.sct.cache.drop count
    (2 * count < 2 * x.width * x.height → exec (.fillBurstDone o) s = .next (atEnd o s (fun psc => { s with
      sct := { s.sct with cache := cache, fill := some ⟨g.setIndex, g.generation, crc, count⟩ }
      psc := psc.request ⟨.sctFill, .read (g.setIndex * 131072 + 2 * count)
        (min 64 (2 * x.width * x.height - 2 * count)), false⟩ }))) ∧
    (2 * x.width * x.height ≤ 2 * count → crc = x.loadCrc → exec (.fillBurstDone o) s = .next (atEnd o s (fun psc =>
      startImaging { s with
        psc := psc
        sct := { s.sct with cache := cache, fill := none, tag := some (g.setIndex, g.generation) } }))) ∧
    (2 * x.width * x.height ≤ 2 * count → crc ≠ x.loadCrc → exec (.fillBurstDone o) s = .next (atEnd o s (fun psc =>
      endArmed .tile none { s with
        psc := psc
        sct := { s.sct with
          cache := cache
          fill := none
          sets := s.sct.sets.set g.setIndex { x with state := .suspect, failedCrc := crc } } })))

/-! ## Decoding and screening (chapter 6) -/

/-- R114: the tone curve maps a sample to a screen value: C(s div 16) + ((C(s div 16 + 1) − C(s div 16))·(s mod 16) +
8) div 16 below 240, and C15 + ((C16 − C15)·(s − 240) + 7) div 15 from 240 on. On a stored curve the value lies
between the two points of its segment and in 0..4095, is the lower point at the segment's start and C16 for sample 255,
is 0 for sample 0, and does not fall as the sample rises. -/
def Obligations.ToneCurveMapsSamples : Prop :=
  ∀ (c : List Nat), c.length = 17 → c.head? = some 0 → c.Pairwise (· ≤ ·) → (∀ v ∈ c, v ≤ 4095) →
    (∀ s, s < 240 → toneCurve c s =
      c.getD (s / 16) 0 + ((c.getD (s / 16 + 1) 0 - c.getD (s / 16) 0) * (s % 16) + 8) / 16) ∧
    (∀ s, 240 ≤ s → s ≤ 255 → toneCurve c s =
      c.getD 15 0 + ((c.getD 16 0 - c.getD 15 0) * (s - 240) + 7) / 15) ∧
    (∀ s, s < 240 → c.getD (s / 16) 0 ≤ toneCurve c s ∧ toneCurve c s ≤ c.getD (s / 16 + 1) 0) ∧
    (∀ s, 240 ≤ s → s ≤ 255 → c.getD 15 0 ≤ toneCurve c s ∧ toneCurve c s ≤ c.getD 16 0) ∧
    (∀ k, k < 16 → toneCurve c (16 * k) = c.getD k 0) ∧ toneCurve c 255 = c.getD 16 0 ∧ toneCurve c 0 = 0 ∧
    (∀ s s', s ≤ s' → s' ≤ 255 → toneCurve c s ≤ toneCurve c s') ∧ ∀ s, s ≤ 255 → toneCurve c s ≤ 4095

/-- R115: the dot clamps turn a screen value v into the screened value v', row by row of the rule's table, with m the
minimum and M the maximum dot. -/
def Obligations.DotClampsMapScreenValues : Prop :=
  ∀ (m mm v : Nat), m < mm → mm ≤ 4095 → v ≤ 4095 →
    (v = 0 → dotClamp m mm v = 0) ∧
    (1 ≤ v → v < m → 2 * v ≥ m → dotClamp m mm v = m) ∧
    (1 ≤ v → v < m → 2 * v < m → dotClamp m mm v = 0) ∧
    (m ≤ v → v ≤ mm → dotClamp m mm v = v) ∧
    (mm < v → 2 * v ≥ mm + 4095 → dotClamp m mm v = 4095) ∧
    (mm < v → 2 * v < mm + 4095 → dotClamp m mm v = mm)

/-- R114, R115: a sample's screened value is the dot clamps' of the tone curve's value under the set's curve and clamps.
R117, R116: every screened value is 0, 4095, or within the clamps; a sample of no ink sets no screened bit, and one
that maps to 4095 sets the bit of every pixel, whatever the pixel's position. R107 to R110: RU decodes a burst byte by
byte. A black run paints its pixels into the line art from the page's x0 on, a white run none; a slice joins the window
list; a sample is painted into the screen bits; all else leaves the buffer alone, and decoding stops at the correct end
and at a fault. R108, R110, R111, R112, R118: to paint a run is to set the line-art bits of its pixels. To paint a
sample is to write the screened bit of each pixel it covers whose page x is below the page width. A faulty line's
pixels within the page are white. Bit i of word x of sweep h is the line-art or the screen bit of line 32h + i. -/
def Obligations.ScreenedBitsAndPixels : Prop :=
  (∀ (x : ScreenSet) (cache : List Nat) (sample : Nat), x.curve.length = 17 → x.curve.head? = some 0 →
     x.curve.Pairwise (· ≤ ·) → (∀ v ∈ x.curve, v ≤ 4095) → x.minDot < x.maxDot → x.maxDot ≤ 4095 → sample ≤ 255 →
     let v' := screenedValue x sample
     v' = dotClamp x.minDot x.maxDot (toneCurve x.curve sample) ∧
     (v' = 0 ∨ v' = 4095 ∨ (x.minDot ≤ v' ∧ v' ≤ x.maxDot)) ∧
     (∀ px py, (∀ i, i < x.width * x.height → 1 ≤ cache.getD i 0 ∧ cache.getD i 0 ≤ 4095) → 1 ≤ x.width →
       1 ≤ x.height →
       (sample = 0 → screenedBit x cache sample px py = false) ∧
       (v' = 4095 → screenedBit x cache sample px py = true) ∧
       (screenedBit x cache sample px py = true ↔
         cache.getD ((py % x.height) * x.width + (px + x.shift * (py / x.height)) % x.width) 0 ≤ v'))) ∧
  ((∀ (x len line px y : Nat) (cols : List (BitVec 64)) (c : BitVec 64), cols[px]? = some c → line < 64 → y < 64 →
       ((paintRun x len line cols).getD px 0).getLsbD y =
         (if x ≤ px ∧ px < x + len ∧ y = line then true else c.getLsbD y) ∧
       ((whitenLine x len line cols).getD px 0).getLsbD y =
         (if x ≤ px ∧ px < x + len ∧ y = line then false else c.getLsbD y)) ∧
   (∀ (t : ScreenSet) (cache : List Nat) (slot : RuSlot) (sl : Slice) (row col value top px y : Nat)
       (cols : List (BitVec 64)) (c : BitVec 64), cols[px]? = some c → y < 64 → row < sl.rows →
       sl.y0 + sl.rows * sl.z ≤ 64 →
       ((paintSample t cache slot sl row col value top cols).getD px 0).getLsbD y =
         (if slot.x0 + sl.wx + col * sl.z ≤ px ∧ px < slot.x0 + sl.wx + col * sl.z + sl.z ∧
             px < slot.x0 + slot.width ∧ sl.y0 + row * sl.z ≤ y ∧ y < sl.y0 + row * sl.z + sl.z then
           screenedBit t cache value px (top + y)
         else c.getLsbD y)) ∧
   ∀ (ru : Ru) (h x i : Nat), h < 2 → i < 32 →
     (sweepWord ru h x).getLsbD i =
       ((ru.lineArt.getD x 0).getLsbD (32 * h + i) || (ru.screen.getD x 0).getLsbD (32 * h + i))) ∧
  ∀ (t : ScreenSet) (cache : List Nat) (top : Nat) (b : Byte) (bs : List Byte) (ru : Ru) (c : DecodeContext),
    let d := scanByte c.slot.width c.scan b
    let whole := decodeBytes t cache top (b :: bs) ru c
    let goesOn := fun (ru' : Ru) => whole = decodeBytes t cache top bs ru' { c with scan := d.1, read := c.read + 1 }
    decodeBytes t cache top [] ru c = (ru, c, none) ∧
    (c.scan = .done → whole = (ru, c, none)) ∧
    (c.scan ≠ .done →
      (∀ cause, d.1 = .fault cause → whole = (ru, { c with read := c.read + 1 }, some cause)) ∧
      ((∀ cause, d.1 ≠ .fault cause) →
        (∀ line start len, d.2 = .run line start len true →
          goesOn { ru with lineArt := paintRun (c.slot.x0 + start) len line ru.lineArt }) ∧
        (∀ line start len, d.2 = .run line start len false → goesOn ru) ∧
        (∀ sl, d.2 = .slice sl → goesOn { ru with windows := ru.windows ++ [sl] }) ∧
        (∀ sl row col v, d.2 = .sample sl row col v →
          goesOn { ru with screen := paintSample t cache c.slot sl row col v.toNat top ru.screen }) ∧
        (d.2 = .none → goesOn ru)))

/-- R30 to R33: the band coding, byte by byte. A run or a long run adds its length to the line and changes the colour,
and is OVERRUN past the page width; the end code closes the line, and after 64 lines the window count byte follows, at
most 16 (WINDOW_COUNT). Each slice's z, w and rows are tested as they arrive (WINDOW_BOUNDS), and its w·rows samples are
counted off, row by row. After the last slice a further byte is TRAILING, a fault stays as found, and a check that
still expects more is SHORT. R107 to R109: RU's reading of a band is this coding too. Where the check finds no fault in
a run of bytes, RU reads them all and stands where the check stands. Where it stops at a fault, RU finds the same one,
but for TRAILING: at the correct end RU stops without reading the bytes behind it. -/
def Obligations.RasterUnitReadsAsTheReceiverChecks : Prop :=
  (∀ (width line px n : Nat) (black : Bool) (b : Byte) (code : Option Nat),
    let run := match code with
      | none => b.toNat
      | some c => 240 + (c - 240) * 256 + b.toNat
    ((code = none ∧ b.toNat < 240) ∨ (∃ c, code = some c ∧ 240 ≤ c ∧ c ≤ 254) →
      (px + run ≤ width → scanByte width (.lineArt line px black code) b =
        (.lineArt line (px + run) (!black) none, .run line px run black)) ∧
      (width < px + run → scanByte width (.lineArt line px black code) b = (.fault .overrun, .none))) ∧
    (240 ≤ b.toNat → b.toNat ≤ 254 →
      scanByte width (.lineArt line px black none) b = (.lineArt line px black (some b.toNat), .none)) ∧
    (b.toNat = 255 → line < 63 →
      scanByte width (.lineArt line px black none) b = (.lineArt (line + 1) 0 false none, .none)) ∧
    (b.toNat = 255 → line = 63 → scanByte width (.lineArt line px black none) b = (.count, .none)) ∧
    (16 < b.toNat → scanByte width .count b = (.fault .windowCount, .none)) ∧
    (b.toNat = 0 → scanByte width .count b = (.done, .none)) ∧
    (b.toNat = n + 1 → n < 16 → scanByte width .count b = (.fields (n + 1) [], .none)) ∧
    scanByte width .done b = (.fault .trailing, .none) ∧
    ∀ cause, scanByte width (.fault cause) b = (.fault cause, .none)) ∧
  (∀ (width left : Nat) (b x0 x1 y z w0 w1 : Byte),
    let w := w0.toNat + 256 * w1.toNat
    let slice : Slice := ⟨x0.toNat + 256 * x1.toNat, y.toNat, z.toNat, w, b.toNat⟩
    (∀ got, got = [] ∨ got = [x0] ∨ got = [x0, x1] ∨ got = [x0, x1, y, z] →
      scanByte width (.fields left got) b = (.fields left (got ++ [b]), .none)) ∧
    (b.toNat ∈ [1, 2, 4, 8] →
      scanByte width (.fields left [x0, x1, y]) b = (.fields left [x0, x1, y, b], .none)) ∧
    (b.toNat ∉ [1, 2, 4, 8] → scanByte width (.fields left [x0, x1, y]) b = (.fault .windowBounds, .none)) ∧
    (1 ≤ w0.toNat + 256 * b.toNat → w0.toNat + 256 * b.toNat ≤ 4096 →
      scanByte width (.fields left [x0, x1, y, z, w0]) b = (.fields left [x0, x1, y, z, w0, b], .none)) ∧
    (w0.toNat + 256 * b.toNat = 0 ∨ 4096 < w0.toNat + 256 * b.toNat →
      scanByte width (.fields left [x0, x1, y, z, w0]) b = (.fault .windowBounds, .none)) ∧
    (1 ≤ b.toNat → b.toNat ≤ 64 → y.toNat + b.toNat * z.toNat ≤ 64 →
      scanByte width (.fields left [x0, x1, y, z, w0, w1]) b = (.samples left slice 0, .slice slice)) ∧
    (b.toNat = 0 ∨ 64 < b.toNat ∨ 64 < y.toNat + b.toNat * z.toNat →
      scanByte width (.fields left [x0, x1, y, z, w0, w1]) b = (.fault .windowBounds, .none)) ∧
    ∀ (sl : Slice) (i : Nat),
      (i + 1 < sl.w * sl.rows → scanByte width (.samples left sl i) b =
        (.samples left sl (i + 1), .sample sl (i / sl.w) (i % sl.w) b)) ∧
      (sl.w * sl.rows ≤ i + 1 → scanByte width (.samples (left + 2) sl i) b =
        (.fields (left + 1) [], .sample sl (i / sl.w) (i % sl.w) b)) ∧
      (sl.w * sl.rows ≤ i + 1 → scanByte width (.samples 1 sl i) b = (.done, .sample sl (i / sl.w) (i % sl.w) b))) ∧
  (∀ (width : Nat) (sc : Scan) (b : Byte) (bs : List Byte), scanChunk width sc [] = sc ∧
    scanChunk width sc (b :: bs) = scanChunk width (scanByte width sc b).1 bs ∧
    scanVerdict sc = (match sc with
      | .done => none
      | .fault cause => some cause
      | _ => some .short)) ∧
  ∀ (t : ScreenSet) (cache : List Nat) (top : Nat) (bs : List Byte) (ru : Ru) (c : DecodeContext),
    let d := decodeBytes t cache top bs ru c
    ((∀ cause, scanChunk c.slot.width c.scan bs ≠ .fault cause) →
      d.2.2 = none ∧ d.2.1 = { c with scan := scanChunk c.slot.width c.scan bs, read := c.read + bs.length }) ∧
    ∀ cause, (∀ old, c.scan ≠ .fault old) → scanChunk c.slot.width c.scan bs = .fault cause →
      (cause ≠ .trailing → d.2.2 = some cause) ∧
      (cause = .trailing → d.2.2 = none ∧ d.2.1.scan = .done ∧ d.2.1.read < c.read + bs.length)

/-- R102, R103, R105: RU in WAITING claims both ring slots of its plate band when both are FREE, clears the band buffer,
begins BUILDING, and goes on to place the job's page slots in slot order; otherwise it goes on waiting. R104, R105: RU
comes to a page slot whose page band, in the plate band in hand, is not GOOD. It hands DREC a BLANK_BAND defect over
the page's x range and the plate band's lines and goes on to the next slot. Outside the page's bands it hands nothing.
A GOOD band begins to be read at its chain's head. R103, R119: when no page slot remains, the writing of the first
claimed slot begins. (A request waits for an earlier burst of RU's: log entry 22.) -/
def Obligations.RasterUnitClaimsSlotsAndPlacesPages : Prop :=
  (∀ (s : State) (j : RuJob), s.ru.phase = .waiting → s.ru.job = some j →
     let k0 := (2 * s.ru.cursor) % 8
     let k1 := (2 * s.ru.cursor + 1) % 8
     (ringState s k0 ≠ .free ∨ ringState s k1 ≠ .free → ruLook s = s) ∧
     (ringState s k0 = .free → ringState s k1 = .free →
       ruLook s = ruPlace j.top j.slots { s with
         imp := { s.imp with ring := (s.imp.ring.set k0 .filling).set k1 .filling }
         ru := { s.ru with
           phase := .building
           claimed := some (k0, k1)
           lineArt := List.replicate j.wp 0
           screen := List.replicate j.wp 0
           context := none
           rest := []
           windows := []
           write := none } } ∧
       (s.imp.ring.length = 8 →
         (ruLook s).ru.phase = .building ∧ (ruLook s).ru.claimed = some (k0, k1) ∧
         (ruLook s).ru.cursor = s.ru.cursor ∧
         (ruLook s).imp = { s.imp with ring := (s.imp.ring.set k0 .filling).set k1 .filling } ∧
         (ruLook s).ru.lineArt = List.replicate j.wp 0 ∧ (ruLook s).ru.screen = List.replicate j.wp 0 ∧
         ringState (ruLook s) k0 = .filling ∧ ringState (ruLook s) k1 = .filling))) ∧
  (∀ (s : State) (top : Nat) (slot : RuSlot) (rest : List RuSlot), top % 64 = 0 →
     ((s.ru.cursor < top / 64 ∨ top / 64 + slot.bands ≤ s.ru.cursor) →
       ruPlace top (slot :: rest) s = ruPlace top rest s) ∧
     ∀ b r, s.ru.cursor = top / 64 + b → b < slot.bands → bandOf s slot.handle b = some r →
       (r.state ≠ .good → ruPlace top (slot :: rest) s = ruPlace top rest (handDefect
         { kind := .blankBand, severity := .marked, firstLine := 64 * s.ru.cursor, lastLine := 64 * s.ru.cursor + 63,
           xRange := some (slot.x0, slot.x0 + slot.width - 1), channel := none, slot := some slot.number,
           band := some b, cause := none, count := 1 } s)) ∧
       (r.state = .good →
         let ru : Ru := { s.ru with
           context := some ⟨slot, b, r.length, 0, r.head, .lineArt 0 0 false none⟩, rest := rest, windows := [] }
         ruPlace top (slot :: rest) s = ruPump { s with ru := ru } ∧
         (s.psc.engaged .ru = true → ruPlace top (slot :: rest) s = { s with ru := ru }) ∧
         ∀ j block, s.psc.engaged .ru = false → s.ru.phase = .building → s.ru.job = some j → r.head = some block →
           ruPlace top (slot :: rest) s = { s with
             ru := ru, psc := s.psc.request ⟨.ru, .read (block * 16384) (min 64 r.length), false⟩ })) ∧
  ∀ (s : State) (top : Nat),
    let ru : Ru := { s.ru with context := none, rest := [], write := some (0, 0) }
    (s.psc.engaged .ru = true → ruPlace top [] s = { s with ru := ru }) ∧
    ∀ j k0 k1, s.psc.engaged .ru = false → s.ru.phase = .building → s.ru.job = some j →
      s.ru.claimed = some (k0, k1) →
      ruPlace top [] s = { s with
        ru := ru
        psc := s.psc.request ⟨.ru, .write (1048576 + k0 * 131072) (sweepBurst ru j.wp 0 0), false⟩ }

/-- R120, R78: the completion of a raster burst that a job's end left behind. A read's bytes are discarded, a
write's are in the store, and RU, while it is BUILDING for the next job, asks for its next burst, and else for none.
R107, R111: the completion of a raster read burst. A burst that ends within the band is decoded and the next one
asked for, from the next block of the chain at a block boundary (decoding first: log entry 30). At the band's
correct end RU goes on to the next page slot, and at a fault it hands DREC the DECODE defect, whitens the faulty
line of line art and goes on to the next page slot too. R119, R101, R122: the completion of a raster write burst.
Its bytes are in the ring slot. With words of the slot to come RU asks for the next burst, and after the last burst
of the first slot for the first of the second. After the last burst of the second slot both slots are READY and RU
goes on to the next plate band, or is DONE. All of it is so in both orders of R77. R118, R119: the bytes of a write
burst are the sweep's words from 16g on, at most 16 and up to word Wp − 1, each least significant byte first. -/
def Obligations.RasterBurstsAreTakenInTurn : Prop :=
  (∀ (ru : Ru) (wp h g : Nat),
     (sweepBurst ru wp h g).length = 4 * min 16 (wp - 16 * g) ∧
     ∀ k i, k < 16 → 16 * g + k < wp → i < 4 →
       (sweepBurst ru wp h g)[4 * k + i]? = some ((sweepWord ru h (16 * g + k)).extractLsb' (8 * i) 8)) ∧
  ((∀ (s base : State) (o : EndOrder) (a n : Nat) (bs : List Byte) (done : Instr),
     (s.psc.inFlight = .busy ⟨.ru, .read a n, true⟩ ∧ done = .ruReadBurstDone o ∧ base = s) ∨
       (s.psc.inFlight = .busy ⟨.ru, .write a bs, true⟩ ∧ done = .ruWriteBurstDone o ∧
         base = { s with dram := storeBytes a bs s.dram }) →
     (s.ru.phase ≠ .building → exec done s = .next { base with psc := s.psc.endOperation }) ∧
     ∀ j : RuJob, s.ru.phase = .building → s.ru.job = some j → (∀ p ∈ s.psc.waiting, p.client ≠ .ru) →
       (∀ (c : DecodeContext) (block : Nat), s.ru.context = some c → c.block = some block →
         let next : Op := ⟨.ru, .read (block * 16384 + c.read % 16384) (min 64 (c.length - c.read)), false⟩
         exec done s = .next (atEnd o s (fun psc => { base with psc := psc.request next }))) ∧
       ∀ h g k0 k1, s.ru.context = none → s.ru.write = some (h, g) → s.ru.claimed = some (k0, k1) →
         let slot := 1048576 + (if h = 0 then k0 else k1) * 131072
         let next : Op := ⟨.ru, .write (slot + 64 * g) (sweepBurst s.ru j.wp h g), false⟩
         exec done s = .next (atEnd o s (fun psc => { base with psc := psc.request next }))) ∧
   ∀ (s : State) (o : EndOrder) (a n : Nat) (c : DecodeContext) (j : RuJob), s.psc.inFlight = .busy ⟨.ru, .read a n, false⟩ →
     s.ru.phase = .building → s.ru.job = some j → s.ru.context = some c →
     (∀ p ∈ s.psc.waiting, p.client ≠ .ru) →
     let d := decodeBytes (screenSet s j.setIndex) s.sct.cache (64 * s.ru.cursor) (readBytes s a n) s.ru c
     let block := if d.2.1.read % 16384 = 0 then c.block.bind s.psc.link else c.block
     (d.2.2 = none → d.2.1.scan ≠ .done → d.2.1.read < c.length →
       exec (.ruReadBurstDone o) s = .next (atEnd o s (fun psc => { s with
         ru := { d.1 with context := some { d.2.1 with block := block } }
         psc := psc.request ⟨.ru, .read
           ((match block with | some b => b * 16384 | none => 65536 * 16384) + d.2.1.read % 16384)
           (min 64 (c.length - d.2.1.read)), false⟩ }))) ∧
     (d.2.2 = none → d.2.1.scan = .done → d.2.1.read = c.length →
       exec (.ruReadBurstDone o) s = .next (atEnd o s (fun psc =>
         ruPlace j.top d.1.rest { s with psc := psc, ru := { d.1 with context := none } }))) ∧
     ((d.2.2 ≠ none ∨ (d.2.1.scan = .done ∧ d.2.1.read < c.length) ∨ (d.2.1.scan ≠ .done ∧ c.length ≤ d.2.1.read)) →
       let line := d.2.1.scan.lineOf
       let ru : Ru := { d.1 with
         context := none
         lineArt := match line with
           | some l => whitenLine c.slot.x0 c.slot.width l d.1.lineArt
           | none => d.1.lineArt }
       exec (.ruReadBurstDone o) s = .next (atEnd o s (fun psc => ruPlace j.top d.1.rest (handDefect
         { kind := .decode, severity := .marked, firstLine := 64 * s.ru.cursor + line.getD 0,
           lastLine := 64 * s.ru.cursor + 63, xRange := some (c.slot.x0, c.slot.x0 + c.slot.width - 1), channel := none,
           slot := some c.slot.number, band := some c.band, cause := none, count := 1 }
         { s with psc := psc, ru := ru }))))) ∧
  (∀ (s : State) (o : EndOrder) (a : Nat) (bs : List Byte) (j : RuJob) (h g k0 k1 : Nat),
     s.psc.inFlight = .busy ⟨.ru, .write a bs, false⟩ → s.ru.phase = .building →
     s.ru.job = some j → s.ru.context = none → s.ru.write = some (h, g) → s.ru.claimed = some (k0, k1) →
     (∀ p ∈ s.psc.waiting, p.client ≠ .ru) →
     let base : State := { s with dram := storeBytes a bs s.dram }
     let asking := fun (h' g' : Nat) (psc : Psc) => ({ base with
       ru := { s.ru with write := some (h', g') }
       psc := psc.request ⟨.ru, .write (1048576 + (if h' = 0 then k0 else k1) * 131072 + 64 * g')
         (sweepBurst s.ru j.wp h' g'), false⟩ } : State)
     (16 * (g + 1) < j.wp → exec (.ruWriteBurstDone o) s = .next (atEnd o s (asking h (g + 1)))) ∧
     (j.wp ≤ 16 * (g + 1) → h = 0 → exec (.ruWriteBurstDone o) s = .next (atEnd o s (asking 1 0))) ∧
     (j.wp ≤ 16 * (g + 1) → h ≠ 0 → s.ru.cursor + 1 < j.bp → exec (.ruWriteBurstDone o) s = .next (atEnd o s (fun psc =>
       ruLook { base with
         psc := psc
         imp := { s.imp with ring := (s.imp.ring.set k0 .ready).set k1 .ready }
         ru := { s.ru with phase := .waiting, cursor := s.ru.cursor + 1, claimed := none, write := none } }))) ∧
     (j.wp ≤ 16 * (g + 1) → h ≠ 0 → j.bp ≤ s.ru.cursor + 1 → exec (.ruWriteBurstDone o) s = .next { base with
       psc := s.psc.endOperation
       imp := { s.imp with ring := (s.imp.ring.set k0 .ready).set k1 .ready }
       ru := { s.ru with phase := .done, cursor := s.ru.cursor + 1, claimed := none, write := none } }))

/-! ## Plate jobs and the schedule (chapter 7) -/

/-- R124, R125: PLATE.QUEUE. The checks in order, the first that fails deciding the reply, with no other effect: the
fields, an id no queued job has, fewer than 16 jobs, a set neither EMPTY nor LOADING, and under RUN no slot whose page
holds no GOOD band at all. An accepted job goes to the tail of the plate queue, the reply carries its id and the
number of jobs, and a schedule test follows. R139 to R141, R159: PLATE.CANCEL. An id that no job in the plate queue
holds is BAD_FIELD. A QUEUED job ends CANCELLED at once and enters the done history, its ENDED note is queued, and a
schedule test follows. A job in ARMING ends as R135 gives. A job in IMAGING is marked, and IMP is told. The reply
carries the id and the state the job had. (The byte of the number of jobs: log entry 10.) -/
def Obligations.PlateQueueAndCancel : Prop :=
  (∀ (s : State) (f : Frame) (rest : List Frame), takes s f rest → ofKind 0x30 f → s.part = .ready →
    (parseQueue f.payload = none → exec .plateQueue s = .next (answer f 0x05 [] (taken s rest))) ∧
    ∀ j, parseQueue f.payload = some j →
      let clash := ∃ k ∈ s.psch.queue, k.id = j.id
      let bare := (screenSet s j.setIndex).state = .empty ∨ (screenSet s j.setIndex).state = .loading
      let white := j.policy = .run ∧ ∃ t ∈ j.slots, ∃ h, resolve s t.key = some h ∧ (entry s h).state = .damaged ∧
        (entry s h).damaged = (entry s h).bands.length
      (clash → exec .plateQueue s = .next (answer f 0x05 [] (taken s rest))) ∧
      (¬clash → 16 ≤ s.psch.queue.length → exec .plateQueue s = .next (answer f 0x03 [] (taken s rest))) ∧
      (¬clash → s.psch.queue.length < 16 → bare → exec .plateQueue s = .next (answer f 0x0A [] (taken s rest))) ∧
      (¬clash → s.psch.queue.length < 16 → ¬bare → white →
        exec .plateQueue s = .next (answer f 0x0C [] (taken s rest))) ∧
      (¬clash → s.psch.queue.length < 16 → ¬bare → ¬white → exec .plateQueue s = .next
        (scheduleTest (answer f 0x00 (u16 j.id ++ u8 (s.psch.queue.length + 1))
          { taken s rest with psch := { s.psch with queue := s.psch.queue ++ [j] } })))) ∧
  ∀ (s : State) (f : Frame) (rest : List Frame), takes s f rest → ofKind 0x31 f → s.part = .ready →
    (f.payload.length ≠ 2 ∨ halfAt f.payload 0 = 0 ∨ (∀ j ∈ s.psch.queue, j.id ≠ halfAt f.payload 0) →
      exec .plateCancel s = .next (answer f 0x05 [] (taken s rest))) ∧
    ∀ j ∈ s.psch.queue, (∀ k ∈ s.psch.queue, k.id = j.id → k = j) → 1 ≤ j.id → j.id ≤ 65535 → f.payload = u16 j.id →
      let after := answer f 0x00 (u16 j.id ++ u8 j.state.code) (taken s rest)
      let ended : Job :=
        { j with state := .cancelled, result := some .cancelled, fit := none, verdict := none, defects := 0 }
      (j.state = .queued → s.psch.armed ≠ some j.id → exec .plateCancel s = .next (scheduleTest { after with
        lp := after.lp.queueReport (.plate (.ended j.id .cancelled (some .cancelled) none none 0))
        psch := { s.psch with
          queue := s.psch.queue.filter (fun k => k.id != j.id)
          history := (⟨ended, []⟩ :: s.psch.history).take 8 } })) ∧
      (j.state = .arming → s.psch.armed = some j.id →
        exec .plateCancel s = .next (scheduleTest (endArmedJob .cancelled none after))) ∧
      (j.state = .imaging → exec .plateCancel s = .next { after with
        imp := { s.imp with cancelPending := true }
        psch := { s.psch with
          queue := s.psch.queue.map (fun k => if k.id = j.id then { k with cancelRequested := true } else k) } })

/-- R142, R143, R191: PLATE.QUERY answers and changes nothing else. The first record of the id, in the plate queue and
then in the done history, is given with its place, DREC's accumulator and record count for a job in IMAGING, and the
defect records of a FINISHED job. Id 0 lists the jobs of both. R12, R123, R191: the bytes of a job record and of a
defect record, field by field, and the codes of the named values. (Log entries 10, 11 and 28.) -/
def Obligations.PlateQueriesAnswer : Prop :=
  (∀ (s : State) (f : Frame) (rest : List Frame), takes s f rest → ofKind 0x32 f → s.part = .ready →
    (f.payload.length ≠ 2 → exec .plateQuery s = .next (answer f 0x05 [] (taken s rest))) ∧
    ∀ id, 1 ≤ id → id ≤ 65535 → f.payload = u16 id →
      (∀ j n, s.psch.queue[n]? = some j → j.id = id →
        (∀ m k, m < n → s.psch.queue[m]? = some k → k.id ≠ id) →
        exec .plateQuery s = .next (answer f 0x00
          (j.bytes ++ u8 (n + 1) ++
            (if j.state = .imaging then u8 s.drec.verdict.code ++ u8 s.drec.list.length else [0, 0]))
          (taken s rest))) ∧
      ((∀ j ∈ s.psch.queue, j.id ≠ id) →
        (∀ r n, s.psch.history[n]? = some r → r.job.id = id → r.job.state ≠ .imaging →
          (∀ m k, m < n → s.psch.history[m]? = some k → k.job.id ≠ id) →
          exec .plateQuery s = .next (answer f 0x00
            (r.job.bytes ++ u8 (n + 1) ++ [0, 0] ++
              (if r.job.state = .finished then r.defects.flatMap Defect.bytes else []))
            (taken s rest))) ∧
        ((∀ r ∈ s.psch.history, r.job.id ≠ id) →
          exec .plateQuery s = .next (answer f 0x05 [] (taken s rest))))) ∧
  (∀ (s : State) (f : Frame) (rest : List Frame), takes s f rest → ofKind 0x32 f → s.part = .ready →
    f.payload = [0, 0] → exec .plateList s = .next (answer f 0x00
      (u8 s.psch.queue.length ++ s.psch.queue.flatMap (fun j => u16 j.id ++ u8 j.state.code) ++
        u8 s.psch.history.length ++ s.psch.history.flatMap (fun r => u16 r.job.id ++ u8 r.job.state.code ++
          u8 ((r.job.result.map JobResult.code).getD 0) ++ u8 ((r.job.verdict.map Verdict.code).getD 0)))
      (taken s rest))) ∧
  (∀ j : Job, j.bytes = u16 j.id ++ u8 j.separation ++ u8 j.setIndex ++ u8 (if j.policy = .hold then 0 else 1) ++
    u16 j.top ++ u16 j.bp ++ u16 j.wp ++ u8 j.slots.length ++
    j.slots.flatMap (fun t => u8 t.key.edition ++ u8 t.key.section_ ++ u8 t.key.page ++ u8 t.key.separation ++
      u16 t.x0 ++ u8 ((t.bound.map Prod.fst).getD 0) ++ u16 ((t.bound.map Prod.snd).getD 0)) ++
    u8 j.state.code ++ u16 j.generation ++ flagByte j.cancelRequested ++ u8 ((j.result.map JobResult.code).getD 0) ++
    u8 ((j.fit.map FitFault.code).getD 0) ++ u8 ((j.verdict.map Verdict.code).getD 0) ++ u8 j.defects) ∧
  (∀ d : Defect,
    let present := fun (bit : Nat) (b : Bool) => if b then bit else 0
    d.bytes.length = 18 ∧ d.bytes = u8 d.kind.code ++ u8 d.severity.code ++
      u8 (present 1 d.xRange.isSome + present 2 d.channel.isSome + present 4 d.slot.isSome + present 8 d.band.isSome +
        present 16 d.cause.isSome) ++
      u16 d.firstLine ++ u16 d.lastLine ++ u16 ((d.xRange.map Prod.fst).getD 0) ++
      u16 ((d.xRange.map Prod.snd).getD 0) ++ u8 (d.channel.getD 0) ++ u8 (d.slot.getD 0) ++ u16 (d.band.getD 0) ++
      u8 ((d.cause.map AbortCause.code).getD 0) ++ u16 d.count) ∧
  [EntryState.empty, .receiving, .complete, .damaged, .superseded].map EntryState.code = [1, 2, 3, 4, 5] ∧
  [BandState.expected, .arriving, .good, .damaged, .missing].map BandState.code = [1, 2, 3, 4, 5] ∧
  [DamageCause.checksum, .overrun, .short, .windowCount, .windowBounds, .trailing, .missing, .store].map
    DamageCause.code = [1, 2, 3, 4, 5, 6, 7, 8] ∧
  [ReleaseCause.superseded, .deferred, .dropped].map ReleaseCause.code = [1, 2, 3] ∧
  [SetState.empty, .loading, .ready, .bad, .suspect].map SetState.code = [1, 2, 3, 4, 5] ∧
  [JobState.queued, .arming, .imaging, .finished, .failed, .cancelled].map JobState.code = [1, 2, 3, 4, 5, 6] ∧
  [JobResult.completed, .stalled, .headLost, .clockLost, .cancelled, .fit, .tile].map JobResult.code =
    [1, 2, 3, 4, 5, 6, 7] ∧
  [FitFault.width, .overlap, .height, .revolution].map FitFault.code = [1, 2, 3, 4] ∧
  [RingState.free, .filling, .ready, .exposing].map RingState.code = [1, 2, 3, 4] ∧
  [Verdict.good, .marked, .reject].map Verdict.code = [0, 1, 2] ∧ [Severity.marked, .reject].map Severity.code = [1, 2] ∧
  [DefectKind.blankBand, .decode, .underrun, .channel, .drumSpeed, .abort, .overflow].map DefectKind.code =
    [1, 2, 3, 4, 5, 6, 7] ∧
  [AbortCause.cancelled, .stalled, .headLost, .clockLost].map AbortCause.code = [1, 2, 3, 4]

/-- R127, R129 to R131, R181, R45, R56, R95: a schedule test. With a job armed or no queued job eligible it changes
nothing. Otherwise it takes the oldest eligible job, and DREC opens a plate. The first fit test that fails ends the
job FAILED with result FIT, and a further test follows. A job that fits has its pages bound in slot order, each entry
once, which ends an open repair of it, and its set's generation recorded; it becomes IMAGING at once when the tag names
that generation, and a fill begins when it does not. Without an open repair a binding raises the reference count alone.
(Binding: PagesAreReleasedRetiredAndBound. The fill: FillBurstIsTakenAndTheFillJudged.) R55: a page key resolves to the
entry of that key in COMPLETE or DAMAGED, of which there is at most one (R51), and to none where there is none. -/
def Obligations.ScheduleTestArmsTheOldestEligibleJob : Prop :=
  (∀ s : State, nothingToArm s → scheduleTest s = s) ∧
  (∀ (s : State) (k : PageKey),
    let answers := fun h => (entry s h).key = k ∧ ((entry s h).state = .complete ∨ (entry s h).state = .damaged)
    (∀ g h, answers g → answers h → g = h) →
      (∀ h, resolve s k = some h ↔ answers h) ∧ (resolve s k = none ↔ ∀ h, ¬answers h)) ∧
  (∀ (s : State) (j : Job), eligible s j = true ↔
    j.state = .queued ∧ s.lp.unattended = false ∧ s.hmon.plateLoaded = true ∧ s.hmon.drumReady = true ∧
      s.psch.fresh = true ∧ s.hmon.test = none ∧ (screenSet s j.setIndex).state = .ready ∧
      ∀ t ∈ j.slots, ∃ h, resolve s t.key = some h ∧
        ((entry s h).state = .complete ∨ ((entry s h).state = .damaged ∧ j.policy = .run))) ∧
  ∀ (s : State) (pre post : List Job) (j : Job), s.psch.armed = none → s.psch.queue = pre ++ j :: post →
    (s.psch.queue.map Job.id).Nodup → (∀ k ∈ pre, eligible s k = false) → eligible s j = true →
    s.sct.fill = none → (∀ t ∈ j.slots, t.bound = none) →
    let page := fun (t : JobSlot) => (resolve s t.key).getD 0
    let width := fun (t : JobSlot) => (entry s (page t)).width
    let count := fun (t : JobSlot) => (entry s (page t)).bands.length
    let wide := ∃ t ∈ j.slots, j.wp < t.x0 + width t
    let overlap := ∃ t u, j.slots = [t, u] ∧ t.x0 < u.x0 + width u ∧ u.x0 < t.x0 + width t
    let tall := ∃ t ∈ j.slots, j.bp < j.top / 64 + count t
    let long := s.imp.nrev < s.imp.lead + j.wp
    let opened : Drec := { s.drec with
      plateOpen := true
      sweepHeight := match s.imp.swath with | .full => 32 | .half => 16
      geometry := []
      list := []
      verdict := .good }
    let failed := fun (fault : FitFault) => scheduleTest { s with
      drec := { opened with plateOpen := false }
      lp := s.lp.queueReport (.plate (.ended j.id .failed (some .fit) (some fault) none 0))
      psch := { s.psch with
        queue := pre ++ post
        history := (⟨{ j with state := .failed, result := some .fit, fit := some fault, verdict := none, defects := 0 },
          []⟩ :: s.psch.history).take 8 } }
    let g := (screenSet s j.setIndex).generation
    let armed : Job := { j with
      state := .arming
      generation := g
      slots := j.slots.map (fun t => { t with bound := some (page t, (entry s (page t)).version) }) }
    let w := ((j.slots.map page).dedup).foldl bindEntry s
    let u : State := { w with
      drec := { opened with geometry := j.slots.map (fun t =>
        ⟨t.x0, t.x0 + width t - 1, j.top / 64, j.top / 64 + count t - 1⟩) }
      psch := { s.psch with queue := pre ++ armed :: post, armed := some j.id } }
    (wide → scheduleTest s = failed .width) ∧
    (¬wide → overlap → scheduleTest s = failed .overlap) ∧
    (¬wide → ¬overlap → tall → scheduleTest s = failed .height) ∧
    (¬wide → ¬overlap → ¬tall → long → scheduleTest s = failed .revolution) ∧
    (¬wide → ¬overlap → ¬tall → ¬long →
      scheduleTest s = if s.sct.tag = some (j.setIndex, g) then startImaging u else beginFill j.setIndex g u) ∧
    ((∀ t ∈ j.slots, contextOf s (page t) = none) → w = { s with
      pdir := { s.pdir with entries := s.pdir.entries.mapIdx (fun h e =>
        if h ∈ j.slots.map page then { e with refs := e.refs + 1 } else e) } })

/-- R132, R101, R102, R138, R154: the armed job becomes IMAGING: the fresh plate flag is cleared, every ring slot is
FREE, IMP's progress and closing pending are cleared, RU is handed the job and looks for its first two slots, and the
STARTED note is queued. -/
def Obligations.ArmedJobBecomesImaging : Prop :=
  ∀ (s : State) (pre post : List Job) (j : Job), s.psch.armed = some j.id → s.psch.queue = pre ++ j :: post →
    (s.psch.queue.map Job.id).Nodup →
    let bound := fun (t : JobSlot) => t.bound.getD (0, 0)
    let ready : State := { s with
      psch := { s.psch with queue := pre ++ { j with state := .imaging } :: post, fresh := false }
      imp := { s.imp with
        ring := s.imp.ring.map (fun _ => .free)
        closing := none
        exposed := 0
        steps := 0
        dwellCount := 0
        firstExpose := false
        cancelPending := false
        endDecided := false }
      ru := { s.ru with
        phase := .waiting
        job := some ⟨j.wp, j.bp, j.top, j.setIndex, j.slots.zipIdx.map (fun p =>
          ⟨p.2 + 1, p.1.x0, (bound p.1).1, (entry s (bound p.1).1).width, (entry s (bound p.1).1).bands.length⟩)⟩
        cursor := 0
        claimed := none
        context := none
        rest := []
        write := none } }
    startImaging s = { ruLook ready with
      lp := (ruLook ready).lp.queueReport (.plate (.started j.id j.setIndex j.generation (j.slots.map bound))) }

/-- R135, R134, R136 to R138, R58, R66, R78, R120, R160, R188, R189: the end of the armed job. A job in IMAGING that
aborts first has its ABORT defect recorded. Its verdict is fixed and the lines driven, RU and IMP stop, which frees
every ring slot that RU was filling or IMP exposing, their requests are withdrawn, its pages are unbound in the order
they were bound, and it enters the done history FINISHED with its verdict and defect list. A job in ARMING enters it
FAILED or CANCELLED, its fill dropped, without a verdict. Its ENDED note is queued last. (No context serves a bound
page.) -/
def Obligations.JobEndsAndIsArchived : Prop :=
  ∀ (s : State) (j : Job) (r : JobResult) (fit : Option FitFault), armedJob s = some j → s.psch.armed = some j.id →
    (∀ t ∈ j.slots, ∀ h v, t.bound = some (h, v) → contextOf s h = none ∧ h < s.pdir.entries.length ∧
      ∀ c, s.prx.chunk = some c → c.handle ≠ h) →
    let isBound := fun (h : Nat) => ∃ t ∈ j.slots, ∃ v, t.bound = some (h, v)
    let abort := fun (c : AbortCause) => s.drec.take
      { kind := .abort, severity := .marked, firstLine := 0, lastLine := 64 * j.bp - 1, xRange := none,
        channel := none, slot := none, band := none, cause := some c, count := 1 }
    let d : Drec := match r with
      | .cancelled => abort .cancelled
      | .stalled => abort .stalled
      | .headLost => abort .headLost
      | .clockLost => abort .clockLost
      | _ => s.drec
    let stopped : Psc :=
      if j.state = .imaging then (s.psc.dropped .ru).dropped .impFetch
      else if s.sct.fill = none then s.psc
      else s.psc.dropped .sctFill
    let w := ((j.slots.filterMap (fun t => t.bound.map Prod.fst)).dedup).foldl unbindEntry { s with psc := stopped }
    let done : Job :=
      if j.state = .imaging then
        { j with state := .finished, result := some r, verdict := some d.verdict, defects := d.list.length }
      else { j with
        state := if r = .fit ∨ r = .tile then .failed else .cancelled
        result := some r
        fit := fit
        verdict := none
        defects := 0 }
    let u := endArmedJob r fit s
    u.pdir = w.pdir ∧ u.psc = w.psc ∧
    u.lp = w.lp.queueReport (.plate (.ended done.id done.state done.result done.fit done.verdict done.defects)) ∧
    (∀ h, ¬isBound h → entry u h = entry s h) ∧
    (∀ h, isBound h → (entry s h).state = .superseded → entry u h = Entry.empty) ∧
    (∀ h, isBound h → (entry s h).state ≠ .superseded → (entry s h).storeSuspect = false →
      entry u h = { entry s h with refs := (entry s h).refs - 1 }) ∧
    (∀ h, isBound h → (entry s h).state ≠ .superseded → (entry s h).storeSuspect = true →
      entry u h = Entry.marked { entry s h with refs := (entry s h).refs - 1, storeSuspect := false }) ∧
    u.psch.queue = s.psch.queue.filter (fun k => k.id != j.id) ∧ u.psch.armed = none ∧ u.psch.fresh = s.psch.fresh ∧
    u.psch.history = (⟨done, if j.state = .imaging then d.list else []⟩ :: s.psch.history).take 8 ∧
    u.pdir.counter = s.pdir.counter ∧ u.prx = s.prx ∧ u.psc.poolAside stopped ∧
    (j.state = .imaging →
      u.drec = { d with plateOpen := false, mark := d.verdict == .marked, reject := d.verdict == .reject } ∧
      u.ru = { s.ru with
        phase := .idle, job := none, cursor := 0, claimed := none, context := none, rest := [], write := none } ∧
      (∀ k,
        let kept := ringState s k = .filling ∧ ∀ k0 k1, s.ru.claimed = some (k0, k1) → k ≠ k0 ∧ k ≠ k1
        (kept → ringState u k = .filling) ∧ (¬kept → ringState u k = .free)) ∧
      (s.imp.rev.decision ≠ .endPlate → u.imp.rev = { s.imp.rev with dark := true, live := false } ∧
        u.imp.closing = some s.imp.exposed) ∧
      (s.imp.rev.decision = .endPlate → u.imp.rev = { s.imp.rev with live := false } ∧
        u.imp.closing = s.imp.closing) ∧
      { u.imp with rev := s.imp.rev, closing := s.imp.closing, ring := s.imp.ring } =
        { s.imp with
          prev := { s.imp.prev with live := false }
          fifo := []
          refill := false
          underrun := none
          exposed := 0
          steps := 0
          dwellCount := 0
          firstExpose := false
          cancelPending := false
          endDecided := false } ∧
      u.sct = s.sct ∧
      { u with lp := s.lp, pdir := s.pdir, psc := s.psc, ru := s.ru, psch := s.psch, imp := s.imp,
               drec := s.drec } = s) ∧
    (j.state ≠ .imaging →
      u.drec = { s.drec with plateOpen := false } ∧
      u.sct = { s.sct with fill := none } ∧
      { u with lp := s.lp, pdir := s.pdir, psc := s.psc, sct := s.sct, psch := s.psch, drec := s.drec } = s)

/-! ## The head and the drum (chapters 8 and 9) -/

/-- R145, R146, R165, R170: HEAD.SETUP, in both states of the part, and CHANNEL.CLEAR. HEAD.SETUP is BUSY with a job
armed or a test pending and BAD_FIELD with a value out of range. Accepted, it stores the settings, the dwell limit and
the watermark clamped, and the windows and enables, the channels' states kept. CHANNEL.CLEAR makes the SUSPECT and
FAULTED channels that its mask names OK, and replies with the mask of the channels changed and the fault mask. -/
def Obligations.HeadSetupAndChannelClear : Prop :=
  (∀ (s : State) (f : Frame) (rest : List Frame), takes s f rest → ofKind 0x40 f →
    (f.payload.length ≠ 140 → exec .headSetup s = .next (answer f 0x05 [] (taken s rest))) ∧
    ∀ x, parseHeadSetup f.payload = some x →
      let busy := s.psch.armed ≠ none ∨ s.hmon.test ≠ none
      let sound := 1024 ≤ x.nrev ∧ 1 ≤ x.lead ∧ x.lead ≤ 255 ∧ x.swath ≤ 1 ∧ x.half ≤ 1 ∧
        ∀ w ∈ x.windows, w.1 ≤ 1023 ∧ w.2 ≤ 1023 ∧ w.1 ≤ w.2
      let dwell := max 1 (min 15 x.dwellLimit)
      let mark := max 64 (min 1984 x.watermark) / 64 * 64
      (busy → exec .headSetup s = .next (answer f 0x01 [] (taken s rest))) ∧
      (¬busy → ¬sound → exec .headSetup s = .next (answer f 0x05 [] (taken s rest))) ∧
      (¬busy → sound → exec .headSetup s = .next (answer f 0x00 (u8 dwell ++ u16 mark) { taken s rest with
        imp := { s.imp with
          nrev := x.nrev
          lead := x.lead
          swath := if x.swath = 0 then .full else .half
          half := x.half
          dwellLimit := dwell
          watermark := mark }
        hmon := { s.hmon with channels := s.hmon.channels.mapIdx (fun k c => { c with
          low := (x.windows.getD k (0, 0)).1
          high := (x.windows.getD k (0, 0)).2
          enabled := x.enables.getLsbD k }) } }))) ∧
  ∀ (s : State) (f : Frame) (rest : List Frame), takes s f rest → ofKind 0x41 f → s.part = .ready →
    (f.payload.length ≠ 4 → exec .channelClear s = .next (answer f 0x05 [] (taken s rest))) ∧
    ∀ m : Word, f.payload = u32 m.toNat → s.hmon.channels.length = 32 →
      let cleared := fun (k : Nat) (c : Channel) => m.getLsbD k = true ∧ (c.state = .suspect ∨ c.state = .faulted)
      ∃ changed faulted : Word,
        (∀ k c, s.hmon.channels[k]? = some c →
          (changed.getLsbD k = true ↔ cleared k c) ∧
          (faulted.getLsbD k = true ↔ c.state = .faulted ∧ m.getLsbD k = false)) ∧
        exec .channelClear s = .next (answer f 0x00 (u32 changed.toNat ++ u32 faulted.toNat) { taken s rest with
          hmon := { s.hmon with channels := s.hmon.channels.mapIdx (fun k c =>
            if m.getLsbD k = true ∧ (c.state = .suspect ∨ c.state = .faulted) then
              { c with state := .ok, suspect := 0 }
            else c) } })

/-- R176, R178, R13: MONITOR.TEST. With a payload it is BAD_FIELD, with a job armed or a test pending BUSY, and
otherwise it is pending with its tag, its reply place reserved. The index event that is the fourth since then abandons
it: the reply is finished NOT_READY in the reserved place, and a schedule test follows. (Log entries 13 and 14.) -/
def Obligations.MonitorTestWaitsForARecord : Prop :=
  (∀ (s : State) (f : Frame) (rest : List Frame), takes s f rest → ofKind 0x42 f → s.part = .ready →
    let busy := s.psch.armed ≠ none ∨ s.hmon.test ≠ none
    (f.payload ≠ [] → exec .monitorTest s = .next (answer f 0x05 [] (taken s rest))) ∧
    (f.payload = [] → busy → exec .monitorTest s = .next (answer f 0x01 [] (taken s rest))) ∧
    (f.payload = [] → ¬busy → exec .monitorTest s = .next { s with
      lp := { s.lp with cmdQueue := rest, replyReserved := s.lp.replyReserved ++ [f.tag] }
      hmon := { s.hmon with test := some (f.tag, 0) } })) ∧
  (∀ (s : State) (tag : Byte), s.resetHeld = false → s.hmon.test = some (tag, 3) →
    let u := decideRevolution (hmonIndex (closeRevolution s))
    u.hmon.test = some (tag, 4) ∧ exec .monitorTestAbandon s = exec .drumIndex s ∧
      exec .monitorTestAbandon s = .next (scheduleTest { u with
        lp := { u.lp with
          replyReserved := u.lp.replyReserved.erase tag
          replyFinished := u.lp.replyFinished ++ [⟨0xC2, tag, [0x0A]⟩] }
        hmon := { u.hmon with test := none } })) ∧
  ∀ s : State, (∀ tag, s.hmon.test ≠ some (tag, 3)) → exec .monitorTestAbandon s = .next s

/-- R162, R163, R171, R177: a head return record. A further one in the same revolution is discarded. The first is
taken: with a job IMAGING and END not decided, one that shows the loss of the head ends the job HEAD_LOST. A change of
plate loaded or drum ready is stored and told, a rise of plate loaded lowers the verdict lines and makes the plate
fresh, and a schedule test follows. A pending test then completes, and otherwise the readings are judged for the
revolution before the one under way. (The schedule test before the judging, and the job id as it stood when the record
was taken: log entry 21. The failed comparators of the test's reply: log entry 9.) -/
def Obligations.HeadReturnRecordIsTaken : Prop :=
  (∀ (s : State) (r : HeadRecord), s.imp.recordTaken = true → exec (.headReturnRecord r) s = .next s) ∧
  ∀ (s : State) (r : HeadRecord), s.resetHeld = false → s.imp.recordTaken = false →
    let noted : State := { s with imp := { s.imp with recordTaken := true } }
    let lost := (∃ j, imagingJob s = some j) ∧ s.imp.endDecided = false ∧
      (r.drumReady = false ∨ r.plateLoaded = false ∨
        (r.carriage.toNat ≠ s.imp.steps ∧ ¬(1 ≤ s.imp.steps ∧ r.carriage.toNat = s.imp.steps - 1)))
    ∃ t u : State, (lost → t = scheduleTest (endArmedJob .headLost none noted)) ∧ (¬lost → t = noted) ∧
      (r.plateLoaded = t.hmon.plateLoaded → r.drumReady = t.hmon.drumReady → u = t) ∧
      (r.plateLoaded ≠ t.hmon.plateLoaded ∨ r.drumReady ≠ t.hmon.drumReady →
        let rise := r.plateLoaded = true ∧ t.hmon.plateLoaded = false
        u = scheduleTest { t with
          hmon := { t.hmon with plateLoaded := r.plateLoaded, drumReady := r.drumReady }
          lp := t.lp.queueReport (.head (.headState r.plateLoaded r.drumReady t.hmon.plateLoaded t.hmon.drumReady
            r.carriage.toNat) (faultMask t))
          drec := if rise then { t.drec with mark := false, reject := false } else t.drec
          psch := if rise then { t.psch with fresh := true } else t.psch }) ∧
      (u.hmon.test = none →
        exec (.headReturnRecord r) s = .next (judgeRecord r t.imp.prev (((imagingJob s).map Job.id).getD 0) u)) ∧
      (∀ tag n, u.hmon.test = some (tag, n) → u.hmon.channels.length = 32 →
        ∃ tested high low noHigh noLow : Word,
          (∀ k c, u.hmon.channels[k]? = some c →
            (tested.getLsbD k = true ↔ c.enabled = true) ∧
            (high.getLsbD k = true ↔ c.enabled = true ∧ c.high ≠ 1023 ∧ u.hmon.highFailed.getLsbD k = true) ∧
            (low.getLsbD k = true ↔ c.enabled = true ∧ c.low ≠ 0 ∧ u.hmon.lowFailed.getLsbD k = true) ∧
            (noHigh.getLsbD k = true ↔ c.enabled = true ∧ c.high = 1023) ∧
            (noLow.getLsbD k = true ↔ c.enabled = true ∧ c.low = 0)) ∧
          exec (.headReturnRecord r) s = .next (scheduleTest { u with
            lp := { u.lp with
              replyReserved := u.lp.replyReserved.erase tag
              replyFinished := u.lp.replyFinished ++ [⟨0xC2, tag, 0x00 :: (u32 tested.toNat ++ u32 high.toNat ++
                u32 low.toNat ++ u32 noHigh.toNat ++ u32 noLow.toNat)⟩] }
            hmon := { u.hmon with test := none } }))

/-- R165 to R169: the judging of a record's readings for a described revolution. Only an EXPOSE revolution's are
judged. A driven and enabled channel goes from OK to SUSPECT and from SUSPECT to FAULTED on a reading out of its
window, and from SUSPECT to OK on one within it; every other channel stays. Each channel that becomes FAULTED has its
note, in channel order, with the job id given (log entry 21) and the fault mask as it then stands. While the
revolution's job is IMAGING, one CHANNEL defect is then handed, in channel order, for each driven channel that is
FAULTED. A SUSPECT channel made OK keeps its suspect reading (log entry 24). (No comparator has failed: log entry
9.) -/
def Obligations.ReadingsMoveTheChannels : Prop :=
  ∀ (s : State) (r : HeadRecord) (v : Revolution) (job : Nat),
    (v.decision ≠ .expose → judgeRecord r v job s = s) ∧
    (v.decision = .expose → r.readings.length = 32 → s.hmon.channels.length = 32 → s.hmon.highFailed = 0 →
      s.hmon.lowFailed = 0 →
      let t := judgeRecord r v job s
      let stateOf := fun (u : State) (k : Nat) => (u.hmon.channels[k]?).map Channel.state
      (∀ k c x, s.hmon.channels[k]? = some c → r.readings[k]? = some x →
        let judged := v.driven.getLsbD k = true ∧ c.enabled = true
        let out := x.toNat < c.low ∨ c.high < x.toNat
        (¬judged ∨ c.state = .faulted → t.hmon.channels[k]? = some c) ∧
        (judged → c.state = .ok → out →
          t.hmon.channels[k]? = some { c with state := .suspect, suspect := x.toNat }) ∧
        (judged → c.state = .ok → ¬out → t.hmon.channels[k]? = some c) ∧
        (judged → c.state = .suspect → out → t.hmon.channels[k]? = some { c with state := .faulted }) ∧
        (judged → c.state = .suspect → ¬out → t.hmon.channels[k]? = some { c with state := .ok })) ∧
      (v.live = false → t.drec = s.drec) ∧
      (v.live = true →
        let faulted := (List.range 32).filter (fun k => v.driven.getLsbD k && stateOf t k == some .faulted)
        t.drec = faulted.foldl (fun d k => d.take
          { kind := .channel, severity := .marked, firstLine := v.firstLine + k - v.lowChannel,
            lastLine := v.firstLine + k - v.lowChannel, xRange := none, channel := some k, slot := none, band := none,
            cause := none, count := 1 }) s.drec) ∧
      (∀ mask : Nat → Word,
        (∀ k k', k < 32 → k' < 32 →
          ((mask k).getLsbD k' = true ↔ stateOf (if k' ≤ k then t else s) k' = some .faulted)) →
        let confirmed := (List.range 32).filter (fun k => stateOf s k == some .suspect && stateOf t k == some .faulted)
        t.lp = confirmed.foldl (fun l k =>
          let c := s.hmon.channels.getD k Channel.reset
          l.queueReport (.head (.channelFaulted k c.low c.high c.suspect (r.readings.getD k 0).toNat job
            (if v.live then v.firstLine + k - v.lowChannel else 65535)) (mask k))) s.lp) ∧
      { t.hmon with channels := s.hmon.channels } = s.hmon ∧
      { t with lp := s.lp, hmon := s.hmon, drec := s.drec } = s)

/-- R148, R155, R157: a SLOT_CLK event begins the next slot, and one word goes to the head; HMON then counts the slot.
In slot L + x of an EXPOSE revolution of a job still IMAGING, not cut and below Nrev, it is the raster word of stored
word x where the FIFO's head is word x. Where it is not, a dark word goes and x joins the underrun. Every other slot
is dark. (A refill run goes on with `impPump`.) On the head link the slot's word is four bytes, least significant byte
first. (The bits of a frame word: log entry 26.) -/
def Obligations.SlotSendsOneWord : Prop :=
  (∀ s : State, (headLink s).length = 4 ∧
    ∀ w, s.imp.headWord = .raster w → ∀ i k, i < 4 → k < 8 →
      ∃ b, (headLink s)[i]? = some b ∧ b.getLsbD k = w.getLsbD (8 * i + k)) ∧
  ∀ s : State, s.resetHeld = false →
    let slot := if s.imp.rev.slot < 131071 then s.imp.rev.slot + 1 else 131071
    let rev := { s.imp.rev with slot := slot }
    let raster := fun (x : Nat) => s.imp.rev.decision = .expose ∧ s.imp.rev.live = true ∧ s.imp.rev.dark = false ∧
      (∃ j, imagingJob s = some j ∧ x < j.wp) ∧ s.imp.rev.slot + 1 = s.imp.lead + x ∧ s.imp.lead + x < s.imp.nrev
    s.imp.rev.slot ≤ 131071 →
    ((∀ x, ¬raster x) → exec .slotClk s = .next (hmonSlot { s with
      imp := { s.imp with rev := rev, headWord := .raster 0 } })) ∧
    (∀ x w fifo, raster x → s.imp.fifo = (x, w) :: fifo → exec .slotClk s = .next (hmonSlot (impPump { s with
      imp := { s.imp with
        rev := rev
        fifo := fifo
        nextSend := x + 1
        headWord := .raster (rasterWord s.imp.swath s.imp.half s.imp.rev.pass w) } }))) ∧
    (∀ x, raster x → (∀ w fifo, s.imp.fifo ≠ (x, w) :: fifo) → exec .slotClk s = .next (hmonSlot (impPump { s with
      imp := { s.imp with
        rev := rev
        underrun := match s.imp.underrun with
          | none => some (x, x)
          | some (first, _) => some (first, x)
        nextSend := x + 1
        headWord := .raster 0 } })))

/-- R172, R173, R174, R178: HMON's slot count and the clock-loss timer. A slot adds one to the count, held at 131071,
once an index has set it (log entry 15). The slot that makes it Nrev + tolerance + 1, with Nrev as it stood at the
index (R146), sets overdue and hands a DRUM_SPEED defect in an EXPOSE revolution of a job still IMAGING. The slot that
makes it 2·Nrev sets index lost and ends a job in IMAGING CLOCK_LOST, with HMON's note after the job's own (log entry
21). A bound reached with its mark already set does nothing more. The timer's expiry ends the job the same way and
abandons a pending test. (The two bounds are commands of their own, and a timer that does not run does not expire: log
entries 1 and 14.) -/
def Obligations.SlotBoundsAndClockLoss : Prop :=
  let lose := fun (clock : ClockName) (u : State) => match imagingJob u with
    | none => u
    | some j =>
      let v := scheduleTest (endArmedJob .clockLost none u)
      { v with lp := v.lp.queueReport (.head (.clockLost clock j.id v.hmon.slotCount) (faultMask v)) }
  (∀ s : State, s.hmon.slotCount = 0 → hmonSlot s = s) ∧
  (∀ s : State, s.hmon.slotCount = 131071 → s.hmon.nrev ≤ 65535 → s.hmon.tolerance ≤ 255 → hmonSlot s = s) ∧
  (∀ s : State, 0 < s.hmon.slotCount → s.hmon.slotCount < 131071 →
    (s.hmon.slotCount + 1 = s.hmon.nrev + s.hmon.tolerance + 1 → s.hmon.overdue = true) →
    (s.hmon.slotCount + 1 = 2 * s.hmon.nrev → s.hmon.indexLost = true) →
    hmonSlot s = { s with hmon := { s.hmon with slotCount := s.hmon.slotCount + 1 } }) ∧
  (∀ s : State, s.resetHeld = false → 0 < s.hmon.slotCount → s.hmon.overdue = false →
    s.hmon.slotCount = s.hmon.nrev + s.hmon.tolerance → 1024 ≤ s.hmon.nrev → s.hmon.nrev ≤ 65535 →
    s.hmon.tolerance ≤ 255 →
    let t := impSlot s
    exec .indexOverdue s = exec .slotClk s ∧
    exec .indexOverdue s = .next { t with
      hmon := { s.hmon with slotCount := s.hmon.slotCount + 1, overdue := true }
      drec := if s.imp.rev.decision = .expose ∧ s.imp.rev.live = true then s.drec.take
          { kind := .drumSpeed, severity := .marked, firstLine := s.imp.rev.firstLine, lastLine := s.imp.rev.lastLine,
            xRange := none, channel := none, slot := none, band := none, cause := none, count := 1 }
        else s.drec }) ∧
  (∀ s : State, s.resetHeld = false → 0 < s.hmon.slotCount → s.hmon.indexLost = false →
    s.hmon.slotCount + 1 = 2 * s.hmon.nrev → 1024 ≤ s.hmon.nrev → s.hmon.nrev ≤ 65535 → s.hmon.tolerance ≤ 255 →
    exec .indexLost s = exec .slotClk s ∧
    exec .indexLost s = .next (lose .drumIndex { impSlot s with
      hmon := { s.hmon with slotCount := s.hmon.slotCount + 1, indexLost := true } })) ∧
  (∀ s : State, s.hmon.slotCount + 1 ≠ s.hmon.nrev + s.hmon.tolerance + 1 ∨ s.hmon.overdue = true →
    exec .indexOverdue s = .next s) ∧
  (∀ s : State, s.hmon.slotCount + 1 ≠ 2 * s.hmon.nrev ∨ s.hmon.indexLost = true → exec .indexLost s = .next s) ∧
  (∀ s : State, s.hmon.clockLoss = none → exec .clockLossExpiry s = .next s) ∧
  ∀ s : State, s.resetHeld = false → s.hmon.clockLoss ≠ none →
    let u := lose .slotClk s
    (u.hmon.test = none → exec .clockLossExpiry s = .next u) ∧
    ∀ tag n, u.hmon.test = some (tag, n) → exec .clockLossExpiry s = .next (scheduleTest { u with
      lp := { u.lp with
        replyReserved := u.lp.replyReserved.erase tag
        replyFinished := u.lp.replyFinished ++ [⟨0xC2, tag, [0x0A]⟩] }
      hmon := { u.hmon with test := none } })

/-- R150, R151, R158, R172, R162: a DRUM_INDEX event with no test at its fourth index closes the revolution that ends,
starts HMON's count at 1, with the Nrev stored by then in use (R146), and decides the revolution that begins. The
closing of an EXPOSE revolution of a job still IMAGING hands its UNDERRUN and then its DRUM_SPEED defect, counts the
sweep and the step, frees the ring slot after its last pass and lets RU look for it, empties the FIFO and drops the
fetch. (The DRUM_SPEED defect before the sweep is counted: log entry 20.) Any other revolution is closed without
these. -/
def Obligations.IndexClosesTheRevolution : Prop :=
  ∀ s : State, s.resetHeld = false → (∀ tag n, s.hmon.test = some (tag, n) → n < 3) →
    let defect := fun (kind : DefectKind) (xs : Option (Nat × Nat)) =>
      ({ kind := kind, severity := .marked, firstLine := s.imp.rev.firstLine, lastLine := s.imp.rev.lastLine,
         xRange := xs, channel := none, slot := none, band := none, cause := none, count := 1 } : Defect)
    let counted := fun (m : Hmon) => { m with
      nrev := s.imp.nrev
      slotCount := 1
      overdue := false
      indexLost := false
      test := m.test.map (fun p => (p.1, p.2 + 1)) }
    (¬(s.imp.rev.decision = .expose ∧ s.imp.rev.live = true) → exec .drumIndex s = .next (decideRevolution { s with
      imp := { s.imp with recordTaken := false, underrun := none }
      hmon := counted s.hmon })) ∧
    (s.imp.rev.decision = .expose → s.imp.rev.live = true →
      let d := match s.imp.underrun with
        | some x => s.drec.take (defect .underrun (some x))
        | none => s.drec
      let frees := s.imp.swath = .full ∨ s.imp.rev.pass = 1
      let m : State := { s with
        drec := if s.hmon.slotCount < s.hmon.nrev - s.hmon.tolerance then d.take (defect .drumSpeed none) else d
        imp := { s.imp with
          exposed := s.imp.exposed + 1
          steps := s.imp.steps + 1
          ring := if frees then s.imp.ring.set s.imp.rev.ringSlot .free else s.imp.ring } }
      let n := if frees then ruLook m else m
      exec .drumIndex s = .next (decideRevolution { n with
        psc := (n.psc.withdraw .impFetch).disown .impFetch
        imp := { n.imp with fifo := [], refill := false, recordTaken := false, underrun := none }
        hmon := counted s.hmon }))

/-- R149, R150, R152 to R154: the decision at an index, by the first case that holds. With no job IMAGING it is a
closing END when one is owed, and IDLE otherwise. With a job IMAGING: END again once END is decided, END after a
cancel, END when every sweep is exposed, EXPOSE for the second pass of a HALF slot or for a READY slot, which becomes
EXPOSING, and a dwell otherwise, which past the dwell limit is END stalled. The first END decided ends the job, and a
schedule test follows. The frame word carries the decision, the sweep and the step. -/
def Obligations.IndexDecidesTheRevolution : Prop :=
  ∀ s : State,
    let begins := fun (d : Decision) (sweep : Nat) (live : Bool) (m : Imp) => ({ m with
      prev := s.imp.rev
      rev := ⟨d, sweep, 0, 0, 0, 0, 0, 0, live, false, 0⟩
      headWord := .frame d sweep 0 } : Imp)
    (imagingJob s = none →
      (∀ e, s.imp.closing = some e → decideRevolution s =
        { s with imp := { begins .endPlate e false s.imp with closing := none } }) ∧
      (s.imp.closing = none → decideRevolution s = { s with imp := begins .idle 0 false s.imp })) ∧
    ∀ j, imagingJob s = some j →
      let e := s.imp.exposed
      let full := s.imp.swath = .full
      let sweeps := if full then 2 * j.bp else 4 * j.bp
      let k := if full then e % 8 else e / 2 % 8
      let first := if full then 32 * e else 32 * (e / 2) + 16 * (e % 2)
      let lines := if full then 32 else 16
      let ends := fun (r : JobResult) (m : Imp) => scheduleTest (endArmedJob r none
        { s with imp := { begins .endPlate e true m with endDecided := true } })
      let exposes := fun (ring : List RingState) => impPump { s with imp := { s.imp with
        ring := ring
        prev := s.imp.rev
        rev := ⟨.expose, e, k, if full then 0 else e % 2, first, first + lines - 1,
          if full then 0xFFFFFFFF#32 else 0xFFFF#32 <<< (16 * s.imp.half), if full then 0 else 16 * s.imp.half,
          true, false, 0⟩
        headWord := .frame .expose e lines
        firstExpose := true
        dwellCount := 0
        nextSend := 0
        nextFetch := 0
        refill := true } }
      (s.imp.endDecided = true → decideRevolution s = { s with imp := begins .endPlate e true s.imp }) ∧
      (s.imp.endDecided = false →
        (s.imp.cancelPending = true → decideRevolution s = ends .cancelled s.imp) ∧
        (s.imp.cancelPending = false →
          (e = sweeps →
            decideRevolution s = ends (if j.cancelRequested then .cancelled else .completed) s.imp) ∧
          (e ≠ sweeps →
            (¬full → e % 2 = 1 → decideRevolution s = exposes s.imp.ring) ∧
            (full ∨ e % 2 = 0 →
              (ringState s k = .ready → decideRevolution s = exposes (s.imp.ring.set k .exposing)) ∧
              (ringState s k ≠ .ready →
                (s.imp.firstExpose = false →
                  decideRevolution s = { s with imp := begins .dwell e true s.imp }) ∧
                (s.imp.firstExpose = true →
                  let m : Imp := { s.imp with dwellCount := s.imp.dwellCount + 1 }
                  (s.imp.dwellCount + 1 ≤ s.imp.dwellLimit →
                    decideRevolution s = { s with imp := begins .dwell e true m }) ∧
                  (s.imp.dwellLimit < s.imp.dwellCount + 1 → decideRevolution s = ends .stalled m)))))))

/-- R155, R156, R157: a fetch burst arrives. Its words not below the next word to send join the FIFO with their x, a
stale burst's are all discarded, and the refill run goes on: it ends when every word has been asked for or the next
burst does not fit, begins anew at the watermark, and asks for a burst of up to 16 words when none is waiting or in
flight. So it is in both orders of R77. A raster word is the stored word in FULL, and in HALF the bits of the pass
placed at the half's channels. -/
def Obligations.FetchesFillTheFifo : Prop :=
  (∀ (s : State) (o : EndOrder) (a n : Nat) (stale : Bool), s.psc.inFlight = .busy ⟨.impFetch, .read a n, stale⟩ →
    let words := ((wordsOf (readBytes s a n)).zipIdx (a % 131072 / 4)).filter (fun p => s.imp.nextSend ≤ p.2)
    exec (.fetchArrival o) s = .next (atEnd o s (fun psc => impPump { s with
      psc := psc
      imp := { s.imp with fifo := if stale then s.imp.fifo else s.imp.fifo ++ words.map Prod.swap } }))) ∧
  (∀ s : State,
    (¬(s.imp.rev.decision = .expose ∧ s.imp.rev.live = true ∧ ∃ j, imagingJob s = some j) → impPump s = s) ∧
    ∀ j, imagingJob s = some j → s.imp.rev.decision = .expose → s.imp.rev.live = true →
      let next := s.imp.nextFetch
      let count := min 16 (j.wp - next)
      let active := s.imp.refill = true ∨ s.imp.fifo.length ≤ s.imp.watermark
      (j.wp ≤ next → impPump s = { s with imp := { s.imp with refill := false } }) ∧
      (next < j.wp → ¬active → impPump s = s) ∧
      (next < j.wp → active → s.psc.engaged .impFetch = true →
        impPump s = { s with imp := { s.imp with refill := true } }) ∧
      (next < j.wp → active → s.psc.engaged .impFetch = false → 2048 < s.imp.fifo.length + count →
        impPump s = { s with imp := { s.imp with refill := false } }) ∧
      (next < j.wp → active → s.psc.engaged .impFetch = false → s.imp.fifo.length + count ≤ 2048 → impPump s = { s with
        imp := { s.imp with nextFetch := next + count, refill := decide (next + count < j.wp) }
        psc := s.psc.request
          ⟨.impFetch, .read (1048576 + s.imp.rev.ringSlot * 131072 + 4 * next) (4 * count), false⟩ })) ∧
  ∀ (h p : Nat) (w : Word), h ≤ 1 → p ≤ 1 → rasterWord .full h p w = w ∧
    ∀ k, k < 32 → (rasterWord .half h p w).getLsbD k =
      (decide (16 * h ≤ k ∧ k < 16 * h + 16) && w.getLsbD (16 * p + k - 16 * h))

/-! ## The page store (chapter 4) -/

/-- R75, R67, R78: bursts and the stored bytes. A write burst, once begun, always ends, also one that its client no
longer wants, and its completion stores its bytes and no other. So it is too for a burst that CONFIGURE has left past
the end of a smaller store (log entry 16) and one in flight at a merged refresh (log entry 27). Every command completes
in every state. No other command but a merged refresh and a hardware reset touches a stored byte. -/
def Obligations.BurstsMoveTheirBytes : Prop :=
  (∀ (s : State) (o : EndOrder) (a : Nat) (bs : List Byte) (stale : Bool),
    ∀ p ∈ [(Instr.linkWriteBurstDone o, Client.prxWrite), (.tileWriteBurstDone o, .sctTile),
        (.ruWriteBurstDone o, .ru)],
      s.psc.inFlight = .busy ⟨p.2, .write a bs, stale⟩ →
      ∃ t, exec p.1 s = .next t ∧ (∀ i b, bs[i]? = some b → readByte t (a + i) = b) ∧
        ∀ addr, addr < a ∨ a + bs.length ≤ addr → readByte t addr = readByte s addr) ∧
  (∀ (c : Instr) (s : State), ∃ t, exec c s = .next t) ∧
  ∀ (c : Instr) (s t : State), exec c s = .next t → c ≠ .hardwareReset → c ≠ .refreshDue →
    (∀ o, c ≠ .linkWriteBurstDone o ∧ c ≠ .tileWriteBurstDone o ∧ c ≠ .ruWriteBurstDone o) →
    t.dram = s.dram ∧ ∀ addr, readByte t addr = readByte s addr

/-- R76, R77, R81: the arbiter. A request at an idle DRAM begins at once, and one while an operation is in flight
waits behind those already waiting, so too one that is taken before the end of the operation with which it falls
together (R77, log entry 8). When an operation ends, the oldest waiting request of the highest-ranked class
begins, and with none waiting the DRAM is idle. So at the end of a refresh operation, and so a refresh that falls due
with no refresh request waiting is raised. R78: a client that drops its transfers withdraws its waiting request alone,
and its own burst in flight, if it has one, goes on to its end without a client that wants it. R80: the timer runs
from CONFIGURE on; that the expiry of a timer that does not run changes nothing is the model's choice (log entry 1). -/
def Obligations.ArbiterServesTheHighestClass : Prop :=
  (∀ (p : Psc) (op : Op),
    (p.inFlight = .idle → p.request op = { p with inFlight := .busy op }) ∧
    (∀ q, p.inFlight = .busy q → p.request op = { p with waiting := p.waiting ++ [op] }) ∧
    (p.inFlight = .ending → p.request op = { p with waiting := p.waiting ++ [op] })) ∧
  (∀ p : Psc, (p.waiting = [] → p.endOperation = { p with inFlight := .idle }) ∧
    ∀ pre op post, p.waiting = pre ++ op :: post → (∀ q ∈ pre, op.client.rank < q.client.rank) →
      (∀ q ∈ post, op.client.rank ≤ q.client.rank) →
      p.endOperation = { p with inFlight := .busy op, waiting := pre ++ post }) ∧
  (∀ (p : Psc) (c : Client),
    (∀ op, p.inFlight = .busy op → op.client = c → p.dropped c = { p with
      waiting := p.waiting.filter (fun o => o.client ≠ c)
      inFlight := .busy { op with stale := true } }) ∧
    ((∀ op, p.inFlight = .busy op → op.client ≠ c) →
      p.dropped c = { p with waiting := p.waiting.filter (fun o => o.client ≠ c) })) ∧
  (Client.refresh.rank < Client.impFetch.rank ∧ Client.impFetch.rank < Client.ru.rank ∧
    Client.ru.rank = Client.sctFill.rank ∧ Client.sctFill.rank < Client.prxWrite.rank ∧
    Client.prxWrite.rank = Client.sctTile.rank) ∧
  (∀ (s : State) (stale : Bool), s.psc.inFlight = .busy ⟨.refresh, .refresh, stale⟩ →
    exec .refreshOperationDone s = .next { s with psc := s.psc.endOperation }) ∧
  ∀ s : State, (s.psc.refreshInterval = none → exec .refreshDue s = .next s) ∧
    ∀ n, s.psc.refreshInterval = some n → (∀ p ∈ s.psc.waiting, p.client ≠ .refresh) →
      exec .refreshDue s = .next { s with psc := s.psc.request ⟨.refresh, .refresh, false⟩ }

/-- R82, R65, R66, R64, R129: a refresh falls due while the one before waits. REFRESH_MERGED is set, and no stored byte
is assured (log entry 5). The GOOD bands of every unbound entry become DAMAGED with cause STORE, a COMPLETE one becomes
DAMAGED, and a bound entry takes the STORE_SUSPECT mark. Each entry so changed has its STORE_DAMAGED note, in handle
order, with the number of bands marked. A schedule test follows a change of an entry's state. At 1.3 µs and above no
merge arises (log entry 17). -/
def Obligations.MergedRefreshDamagesTheStore : Prop :=
  ∀ (s : State) (n : Nat), s.psc.refreshInterval = some n → (∃ p ∈ s.psc.waiting, p.client = .refresh) →
    (13 ≤ n → exec .refreshDue s = .next s) ∧
    (n < 13 →
      let told := (List.range s.pdir.entries.length).filter (fun h =>
        (entry s h).state != .empty && (entry s h).refs == 0 && (entry s h).goodBands != 0)
      let u : State := { s with
        psc := { s.psc with refreshMerged := true }
        freeIndex := s.freeIndex + 1
        dram := s.dram.map (fun c => (c.1, Config.spoiledByte s.freeIndex c.1 c.2))
        pdir := { s.pdir with entries := s.pdir.entries.map (fun e =>
          if e.state = .empty then e else if e.refs ≠ 0 then { e with storeSuspect := true } else e.marked) }
        lp := told.foldl (fun l h => l.queueReport
          ((entry s h).marked.noteOf (.storeDamaged (entry s h).goodBands) h)) s.lp }
      exec .refreshDue s =
        .next (if s.pdir.entries.map Entry.state = u.pdir.entries.map Entry.state then u else scheduleTest u))

/-- R72: a chain is returned to the pool. Its blocks rejoin the pool in chain order behind every free block, the free
count rises by their number, which is reported, and nothing else of PSC changes. -/
def Obligations.ChainRejoinsThePoolInOrder : Prop :=
  ∀ (p : Psc) (pool chain : List Nat), p.poolIs pool → p.linked chain → (pool ++ chain).Nodup → chain.length ≤ 65536 →
    let q := p.returnChain chain.head?
    q.2 = chain.length ∧ q.1.poolIs (pool ++ chain) ∧ q.1.poolAside p ∧
      ∀ b, b ∉ pool ++ chain → q.1.link b = p.link b

/-! ## Defects and verdicts (chapter 10) -/

/-- R183, R184, R185: the place of a defect in the defect list. It merges with the last record when the two have the
same kind, channel and slot and it begins at most one sweep height below the record's last line: the record then spans
both, takes the worse severity and counts one more, at most 65535. Otherwise it is appended as a new record, or, from
the 24th place on, is counted by the OVERFLOW record. R181, R182, R183, R186: DREC takes a defect. With no plate open
it is discarded. Otherwise its severity is set by its kind: MARKED for BLANK_BAND, REJECT for DECODE, CHANNEL,
DRUM_SPEED and ABORT, and for UNDERRUN REJECT exactly when its x range meets the page of a slot that has a page band
there. It takes its place in the list, and the accumulator becomes the worse of its own value and that severity. -/
def Obligations.DefectIsPlacedAndRaisesTheVerdict : Prop :=
  (∀ (sweep : Nat) (d : Defect) (l : List Defect),
     (∀ pre r, l = pre ++ [r] →
       let same := r.kind = d.kind ∧ r.channel = d.channel ∧ r.slot = d.slot ∧ d.firstLine ≤ r.lastLine + sweep
       let worse := if r.severity = .reject ∨ d.severity = .reject then Severity.reject else .marked
       let count := if r.count < 65535 then r.count + 1 else r.count
       (same → placeDefect sweep d l = pre ++ [{ r with
         firstLine := min r.firstLine d.firstLine
         lastLine := max r.lastLine d.lastLine
         xRange := match r.xRange, d.xRange with
           | some (a, b), some (x, y) => some (min a x, max b y)
           | some (a, b), none => some (a, b)
           | none, o => o
         severity := worse
         count := count }]) ∧
       (¬same → 24 ≤ l.length → placeDefect sweep d l = pre ++ [{ r with
         firstLine := min r.firstLine d.firstLine
         lastLine := max r.lastLine d.lastLine
         severity := worse
         count := count }]) ∧
       (¬same → l.length = 23 → placeDefect sweep d l = l ++
         [⟨.overflow, d.severity, d.firstLine, d.lastLine, none, none, none, none, none, 1⟩]) ∧
       (¬same → l.length < 23 → placeDefect sweep d l = l ++ [d])) ∧
     placeDefect sweep d [] = [d]) ∧
  (∀ (r : Drec) (d : Defect),
     (r.plateOpen = false → r.take d = r) ∧
     (r.plateOpen = true → d.kind ≠ .overflow →
       let touches := ∃ x0 x1, d.xRange = some (x0, x1) ∧ ∃ g ∈ r.geometry, g.firstBand ≤ d.firstLine / 64 ∧
         d.firstLine / 64 ≤ g.lastBand ∧ g.firstX ≤ x1 ∧ x0 ≤ g.lastX
       let mild := d.kind = .blankBand ∨ (d.kind = .underrun ∧ ¬touches)
       ∃ severity, (severity = .marked ↔ mild) ∧
         r.take d = { r with
           list := placeDefect r.sweepHeight { d with severity := severity } r.list
           verdict := if r.verdict = .reject ∨ severity = .reject then .reject else .marked }))

/-! ## What every step keeps -/

/-- R83, R92, R146, R165, R192, R193: no command touches the queue of the commands behind it (the model's own, log
entry 2). The part leaves READY, and the channel windows and the head settings change, only as their rules say, a
set's generation only at SCREEN.END, and REFRESH_MERGED is cleared only by RESTART and hardware reset. HMON uses a
new Nrev from an index on. -/
def Obligations.CommandsLeaveTheRestAlone : Prop :=
  ∀ (c : Instr) (s t : State), exec c s = .next t →
    t.pending = s.pending ∧
    (c ≠ .hardwareReset → s.part = .ready → t.part = .ready) ∧
    (c ≠ .hardwareReset → c ≠ .headSetup →
      (t.imp.nrev, t.imp.lead, t.imp.swath, t.imp.half, t.imp.dwellLimit, t.imp.watermark) =
        (s.imp.nrev, s.imp.lead, s.imp.swath, s.imp.half, s.imp.dwellLimit, s.imp.watermark) ∧
      t.hmon.channels.map (fun x => (x.low, x.high, x.enabled)) =
        s.hmon.channels.map (fun x => (x.low, x.high, x.enabled))) ∧
    (c ≠ .hardwareReset → c ≠ .drumIndex → c ≠ .monitorTestAbandon → t.hmon.nrev = s.hmon.nrev) ∧
    (c ≠ .hardwareReset → c ≠ .screenEnd → ∀ k, (screenSet t k).generation = (screenSet s k).generation) ∧
    (c ≠ .hardwareReset → c ≠ .restart → s.psc.refreshMerged = true → t.psc.refreshMerged = true) ∧
    (c ≠ .hardwareReset → c ≠ .configure →
      (t.psc.storeMiB, t.psc.refreshInterval, t.prx.timeout, t.lp.watchdogPeriod, t.hmon.tolerance,
        t.hmon.clockLoss) =
      (s.psc.storeMiB, s.psc.refreshInterval, s.prx.timeout, s.lp.watchdogPeriod, s.hmon.tolerance,
        s.hmon.clockLoss))

/-- R67, R69: the store's bytes and the block link table keep their canonical form through every step. R70 to R74: with
the directory sound, every step keeps the pool law: the blocks of the free pool and of the bands' chains are together
every pool block, each once, and the free count is the number of free blocks. -/
def Obligations.StepKeepsTheStoreAndItsPool : Prop :=
  (∀ s t : State, storeCanonical s → step s = .next t → storeCanonical t) ∧
    ∀ s t : State, directorySound s → poolSound s → step s = .next t → poolSound t

/-- R26, R50 to R52, R23, R34, R47, R57, R59: through every step the directory keeps its laws: at most one entry of a
key in RECEIVING and at most one in COMPLETE or DAMAGED, a SUPERSEDED entry only while it is bound, each entry's bands
and damaged band count as its state says, and at most one busy context for each entry, serving a RECEIVING entry or an
unbound DAMAGED one. -/
def Obligations.StepKeepsTheDirectorySound : Prop :=
  ∀ s t : State, directorySound s → step s = .next t → directorySound t

/-- R3, R4, R7, R8, R13, R14, R18: through every step LP stays within its queues: the framer holds the beginning of a
frame that can still be valid, the command queue at most 8 frames, the reply queue at most 8 places with one reserved
for the pending test alone, the report queue at most 16 reports, and LINK_LOST is high exactly while UNATTENDED is
set. -/
def Obligations.StepKeepsTheLinkSound : Prop :=
  ∀ s t : State, linkSound s → step s = .next t → linkSound t

/-- R123, R124, R126, R135 to R137: through every step the plate queue holds at most 16 jobs with distinct ids, at
most one of them ARMING or IMAGING, which is the armed job, and all others QUEUED; and the done history holds at most
8 ended jobs, each with a verdict exactly when it is FINISHED. -/
def Obligations.StepKeepsAtMostOneJobArmed : Prop :=
  ∀ s t : State, scheduleSound s → step s = .next t → scheduleSound t

/-- R147, R102, R119, R120, R151, R152: with the plate queue sound, every step keeps the ring's laws: at most two slots
FILLING, which RU has claimed, and at most one EXPOSING, the slot that the revolution under way exposes. -/
def Obligations.StepKeepsTheRingSound : Prop :=
  ∀ s t : State, scheduleSound s → ringSound s → step s = .next t → ringSound t

/-- R183, R185, R186, R189: through every step the defect list holds at most 24 records, OVERFLOW in its 24th place
alone, the accumulator is at least as severe as each and GOOD exactly with none, and the verdict lines are never high
together. -/
def Obligations.StepKeepsTheRecorderSound : Prop :=
  ∀ s t : State, recorderSound s.drec → step s = .next t → recorderSound t.drec

/-- R26, R47, R86, R88, R145 to R147, R165, R193: through every step the tables keep their sizes, every stored curve
is non-decreasing from 0 with points at most 4095, every window has low at most high, and the head settings and the
values of CONFIGURE stay in their ranges, with no CONFIGURE value in UNCONFIGURED. -/
def Obligations.StepKeepsTheSettingsInRange : Prop :=
  ∀ s t : State, settingsSound s → step s = .next t → settingsSound t

/-- The state after a hardware reset meets what every step keeps. -/
def Obligations.ResetMeetsWhatEveryStepKeeps : Prop :=
  storeCanonical State.reset ∧ linkSound State.reset ∧ scheduleSound State.reset ∧ recorderSound State.reset.drec ∧
    settingsSound State.reset ∧ directorySound State.reset ∧ poolSound State.reset ∧ ringSound State.reset
end

