-- ==== Sys2Proof/Laws/State.lean ====
section
/-! SUPPORT. What each record update of the state leaves alone: one simp lemma for each operation, a conjunction
over the fields it keeps, so that no proof unfolds a record update. Composite operations follow in Frames.lean. -/

namespace Sys2Proof.Machine

/-! ## Updates inside PSC, LP and DREC -/

@[simp] theorem Psc.request_storeMiB (p : Psc) (op : Op) : (Psc.request p op).storeMiB = p.storeMiB := by
  unfold Psc.request; (repeat' split) <;> rfl
@[simp] theorem Psc.request_links (p : Psc) (op : Op) : (Psc.request p op).links = p.links := by
  unfold Psc.request; (repeat' split) <;> rfl
@[simp] theorem Psc.request_poolHead (p : Psc) (op : Op) : (Psc.request p op).poolHead = p.poolHead := by
  unfold Psc.request; (repeat' split) <;> rfl
@[simp] theorem Psc.request_poolTail (p : Psc) (op : Op) : (Psc.request p op).poolTail = p.poolTail := by
  unfold Psc.request; (repeat' split) <;> rfl
@[simp] theorem Psc.request_freeCount (p : Psc) (op : Op) : (Psc.request p op).freeCount = p.freeCount := by
  unfold Psc.request; (repeat' split) <;> rfl
@[simp] theorem Psc.request_poolSize (p : Psc) (op : Op) : (Psc.request p op).poolSize = p.poolSize := by
  unfold Psc.request; (repeat' split) <;> rfl
@[simp] theorem Psc.request_refreshInterval (p : Psc) (op : Op) : (Psc.request p op).refreshInterval = p.refreshInterval := by
  unfold Psc.request; (repeat' split) <;> rfl
@[simp] theorem Psc.request_refreshMerged (p : Psc) (op : Op) : (Psc.request p op).refreshMerged = p.refreshMerged := by
  unfold Psc.request; (repeat' split) <;> rfl
@[simp] theorem Psc.endOperation_storeMiB (p : Psc) : (Psc.endOperation p).storeMiB = p.storeMiB := by
  unfold Psc.endOperation; (repeat' split) <;> rfl
@[simp] theorem Psc.endOperation_links (p : Psc) : (Psc.endOperation p).links = p.links := by
  unfold Psc.endOperation; (repeat' split) <;> rfl
@[simp] theorem Psc.endOperation_poolHead (p : Psc) : (Psc.endOperation p).poolHead = p.poolHead := by
  unfold Psc.endOperation; (repeat' split) <;> rfl
@[simp] theorem Psc.endOperation_poolTail (p : Psc) : (Psc.endOperation p).poolTail = p.poolTail := by
  unfold Psc.endOperation; (repeat' split) <;> rfl
@[simp] theorem Psc.endOperation_freeCount (p : Psc) : (Psc.endOperation p).freeCount = p.freeCount := by
  unfold Psc.endOperation; (repeat' split) <;> rfl
@[simp] theorem Psc.endOperation_poolSize (p : Psc) : (Psc.endOperation p).poolSize = p.poolSize := by
  unfold Psc.endOperation; (repeat' split) <;> rfl
@[simp] theorem Psc.endOperation_refreshInterval (p : Psc) : (Psc.endOperation p).refreshInterval = p.refreshInterval := by
  unfold Psc.endOperation; (repeat' split) <;> rfl
@[simp] theorem Psc.endOperation_refreshMerged (p : Psc) : (Psc.endOperation p).refreshMerged = p.refreshMerged := by
  unfold Psc.endOperation; (repeat' split) <;> rfl
@[simp] theorem Psc.withdraw_storeMiB (p : Psc) (c : Client) : (Psc.withdraw p c).storeMiB = p.storeMiB := by
  rfl
@[simp] theorem Psc.withdraw_links (p : Psc) (c : Client) : (Psc.withdraw p c).links = p.links := by
  rfl
@[simp] theorem Psc.withdraw_poolHead (p : Psc) (c : Client) : (Psc.withdraw p c).poolHead = p.poolHead := by
  rfl
@[simp] theorem Psc.withdraw_poolTail (p : Psc) (c : Client) : (Psc.withdraw p c).poolTail = p.poolTail := by
  rfl
@[simp] theorem Psc.withdraw_freeCount (p : Psc) (c : Client) : (Psc.withdraw p c).freeCount = p.freeCount := by
  rfl
@[simp] theorem Psc.withdraw_poolSize (p : Psc) (c : Client) : (Psc.withdraw p c).poolSize = p.poolSize := by
  rfl
@[simp] theorem Psc.withdraw_refreshInterval (p : Psc) (c : Client) : (Psc.withdraw p c).refreshInterval = p.refreshInterval := by
  rfl
@[simp] theorem Psc.withdraw_refreshMerged (p : Psc) (c : Client) : (Psc.withdraw p c).refreshMerged = p.refreshMerged := by
  rfl
@[simp] theorem Psc.withdraw_inFlight (p : Psc) (c : Client) : (Psc.withdraw p c).inFlight = p.inFlight := by
  rfl
@[simp] theorem Psc.disown_storeMiB (p : Psc) (c : Client) : (Psc.disown p c).storeMiB = p.storeMiB := by
  unfold Psc.disown; (repeat' split) <;> rfl
@[simp] theorem Psc.disown_links (p : Psc) (c : Client) : (Psc.disown p c).links = p.links := by
  unfold Psc.disown; (repeat' split) <;> rfl
@[simp] theorem Psc.disown_poolHead (p : Psc) (c : Client) : (Psc.disown p c).poolHead = p.poolHead := by
  unfold Psc.disown; (repeat' split) <;> rfl
@[simp] theorem Psc.disown_poolTail (p : Psc) (c : Client) : (Psc.disown p c).poolTail = p.poolTail := by
  unfold Psc.disown; (repeat' split) <;> rfl
@[simp] theorem Psc.disown_freeCount (p : Psc) (c : Client) : (Psc.disown p c).freeCount = p.freeCount := by
  unfold Psc.disown; (repeat' split) <;> rfl
@[simp] theorem Psc.disown_poolSize (p : Psc) (c : Client) : (Psc.disown p c).poolSize = p.poolSize := by
  unfold Psc.disown; (repeat' split) <;> rfl
@[simp] theorem Psc.disown_refreshInterval (p : Psc) (c : Client) : (Psc.disown p c).refreshInterval = p.refreshInterval := by
  unfold Psc.disown; (repeat' split) <;> rfl
@[simp] theorem Psc.disown_refreshMerged (p : Psc) (c : Client) : (Psc.disown p c).refreshMerged = p.refreshMerged := by
  unfold Psc.disown; (repeat' split) <;> rfl
@[simp] theorem Psc.disown_waiting (p : Psc) (c : Client) : (Psc.disown p c).waiting = p.waiting := by
  unfold Psc.disown; (repeat' split) <;> rfl
@[simp] theorem Psc.setLink_storeMiB (p : Psc) (b : Nat) (n : Option Nat) : (Psc.setLink p b n).storeMiB = p.storeMiB := by
  unfold Psc.setLink; (repeat' split) <;> rfl
@[simp] theorem Psc.setLink_poolSize (p : Psc) (b : Nat) (n : Option Nat) : (Psc.setLink p b n).poolSize = p.poolSize := by
  unfold Psc.setLink; (repeat' split) <;> rfl
@[simp] theorem Psc.setLink_inFlight (p : Psc) (b : Nat) (n : Option Nat) : (Psc.setLink p b n).inFlight = p.inFlight := by
  unfold Psc.setLink; (repeat' split) <;> rfl
@[simp] theorem Psc.setLink_waiting (p : Psc) (b : Nat) (n : Option Nat) : (Psc.setLink p b n).waiting = p.waiting := by
  unfold Psc.setLink; (repeat' split) <;> rfl
@[simp] theorem Psc.setLink_refreshInterval (p : Psc) (b : Nat) (n : Option Nat) : (Psc.setLink p b n).refreshInterval = p.refreshInterval := by
  unfold Psc.setLink; (repeat' split) <;> rfl
@[simp] theorem Psc.setLink_refreshMerged (p : Psc) (b : Nat) (n : Option Nat) : (Psc.setLink p b n).refreshMerged = p.refreshMerged := by
  unfold Psc.setLink; (repeat' split) <;> rfl
@[simp] theorem Psc.setLink_poolHead (p : Psc) (b : Nat) (n : Option Nat) : (Psc.setLink p b n).poolHead = p.poolHead := by
  unfold Psc.setLink; (repeat' split) <;> rfl
@[simp] theorem Psc.setLink_poolTail (p : Psc) (b : Nat) (n : Option Nat) : (Psc.setLink p b n).poolTail = p.poolTail := by
  unfold Psc.setLink; (repeat' split) <;> rfl
@[simp] theorem Psc.setLink_freeCount (p : Psc) (b : Nat) (n : Option Nat) : (Psc.setLink p b n).freeCount = p.freeCount := by
  unfold Psc.setLink; (repeat' split) <;> rfl
@[simp] theorem Psc.rejoin_storeMiB (p : Psc) (b : Nat) : (Psc.rejoin p b).storeMiB = p.storeMiB := by
  unfold Psc.rejoin; cases p.poolTail <;> simp
@[simp] theorem Psc.rejoin_poolSize (p : Psc) (b : Nat) : (Psc.rejoin p b).poolSize = p.poolSize := by
  unfold Psc.rejoin; cases p.poolTail <;> simp
@[simp] theorem Psc.rejoin_inFlight (p : Psc) (b : Nat) : (Psc.rejoin p b).inFlight = p.inFlight := by
  unfold Psc.rejoin; cases p.poolTail <;> simp
@[simp] theorem Psc.rejoin_waiting (p : Psc) (b : Nat) : (Psc.rejoin p b).waiting = p.waiting := by
  unfold Psc.rejoin; cases p.poolTail <;> simp
@[simp] theorem Psc.rejoin_refreshInterval (p : Psc) (b : Nat) : (Psc.rejoin p b).refreshInterval = p.refreshInterval := by
  unfold Psc.rejoin; cases p.poolTail <;> simp
@[simp] theorem Psc.rejoin_refreshMerged (p : Psc) (b : Nat) : (Psc.rejoin p b).refreshMerged = p.refreshMerged := by
  unfold Psc.rejoin; cases p.poolTail <;> simp
@[simp] theorem Psc.walk_storeMiB (f b : Nat) (p : Psc) : (Psc.walk f b p).1.storeMiB = p.storeMiB := by
  induction f generalizing b p with
  | zero => rfl
  | succ f ih => unfold Psc.walk; split <;> simp [ih]
@[simp] theorem Psc.walk_poolSize (f b : Nat) (p : Psc) : (Psc.walk f b p).1.poolSize = p.poolSize := by
  induction f generalizing b p with
  | zero => rfl
  | succ f ih => unfold Psc.walk; split <;> simp [ih]
@[simp] theorem Psc.walk_inFlight (f b : Nat) (p : Psc) : (Psc.walk f b p).1.inFlight = p.inFlight := by
  induction f generalizing b p with
  | zero => rfl
  | succ f ih => unfold Psc.walk; split <;> simp [ih]
@[simp] theorem Psc.walk_waiting (f b : Nat) (p : Psc) : (Psc.walk f b p).1.waiting = p.waiting := by
  induction f generalizing b p with
  | zero => rfl
  | succ f ih => unfold Psc.walk; split <;> simp [ih]
@[simp] theorem Psc.walk_refreshInterval (f b : Nat) (p : Psc) : (Psc.walk f b p).1.refreshInterval = p.refreshInterval := by
  induction f generalizing b p with
  | zero => rfl
  | succ f ih => unfold Psc.walk; split <;> simp [ih]
@[simp] theorem Psc.walk_refreshMerged (f b : Nat) (p : Psc) : (Psc.walk f b p).1.refreshMerged = p.refreshMerged := by
  induction f generalizing b p with
  | zero => rfl
  | succ f ih => unfold Psc.walk; split <;> simp [ih]
@[simp] theorem Psc.returnChain_storeMiB (p : Psc) (h : Option Nat) : (p.returnChain h).1.storeMiB = p.storeMiB := by
  cases h <;> simp [Psc.returnChain]
@[simp] theorem Psc.returnChain_poolSize (p : Psc) (h : Option Nat) : (p.returnChain h).1.poolSize = p.poolSize := by
  cases h <;> simp [Psc.returnChain]
@[simp] theorem Psc.returnChain_inFlight (p : Psc) (h : Option Nat) : (p.returnChain h).1.inFlight = p.inFlight := by
  cases h <;> simp [Psc.returnChain]
@[simp] theorem Psc.returnChain_waiting (p : Psc) (h : Option Nat) : (p.returnChain h).1.waiting = p.waiting := by
  cases h <;> simp [Psc.returnChain]
@[simp] theorem Psc.returnChain_refreshInterval (p : Psc) (h : Option Nat) : (p.returnChain h).1.refreshInterval = p.refreshInterval := by
  cases h <;> simp [Psc.returnChain]
@[simp] theorem Psc.returnChain_refreshMerged (p : Psc) (h : Option Nat) : (p.returnChain h).1.refreshMerged = p.refreshMerged := by
  cases h <;> simp [Psc.returnChain]
@[simp] theorem Psc.buildPool_inFlight (p : Psc) (m : Nat) : (Psc.buildPool p m).inFlight = p.inFlight := by
  rfl
@[simp] theorem Psc.buildPool_waiting (p : Psc) (m : Nat) : (Psc.buildPool p m).waiting = p.waiting := by
  rfl
@[simp] theorem Psc.buildPool_refreshInterval (p : Psc) (m : Nat) : (Psc.buildPool p m).refreshInterval = p.refreshInterval := by
  rfl
@[simp] theorem Psc.buildPool_refreshMerged (p : Psc) (m : Nat) : (Psc.buildPool p m).refreshMerged = p.refreshMerged := by
  rfl
@[simp] theorem Lp.queueReport_framer (l : Lp) (r : Report) : (Lp.queueReport l r).framer = l.framer := by
  unfold Lp.queueReport; (repeat' split) <;> rfl
@[simp] theorem Lp.queueReport_cmdQueue (l : Lp) (r : Report) : (Lp.queueReport l r).cmdQueue = l.cmdQueue := by
  unfold Lp.queueReport; (repeat' split) <;> rfl
@[simp] theorem Lp.queueReport_replyReserved (l : Lp) (r : Report) : (Lp.queueReport l r).replyReserved = l.replyReserved := by
  unfold Lp.queueReport; (repeat' split) <;> rfl
@[simp] theorem Lp.queueReport_replyFinished (l : Lp) (r : Report) : (Lp.queueReport l r).replyFinished = l.replyFinished := by
  unfold Lp.queueReport; (repeat' split) <;> rfl
@[simp] theorem Lp.queueReport_tx (l : Lp) (r : Report) : (Lp.queueReport l r).tx = l.tx := by
  unfold Lp.queueReport; (repeat' split) <;> rfl
@[simp] theorem Lp.queueReport_linkErrors (l : Lp) (r : Report) : (Lp.queueReport l r).linkErrors = l.linkErrors := by
  unfold Lp.queueReport; (repeat' split) <;> rfl
@[simp] theorem Lp.queueReport_overrun (l : Lp) (r : Report) : (Lp.queueReport l r).overrun = l.overrun := by
  unfold Lp.queueReport; (repeat' split) <;> rfl
@[simp] theorem Lp.queueReport_watchdogPeriod (l : Lp) (r : Report) : (Lp.queueReport l r).watchdogPeriod = l.watchdogPeriod := by
  unfold Lp.queueReport; (repeat' split) <;> rfl
@[simp] theorem Lp.queueReport_watchdogRunning (l : Lp) (r : Report) : (Lp.queueReport l r).watchdogRunning = l.watchdogRunning := by
  unfold Lp.queueReport; (repeat' split) <;> rfl
@[simp] theorem Lp.queueReport_unattended (l : Lp) (r : Report) : (Lp.queueReport l r).unattended = l.unattended := by
  unfold Lp.queueReport; (repeat' split) <;> rfl
@[simp] theorem Lp.queueReport_linkLost (l : Lp) (r : Report) : (Lp.queueReport l r).linkLost = l.linkLost := by
  unfold Lp.queueReport; (repeat' split) <;> rfl
@[simp] theorem Drec.take_plateOpen (r : Drec) (d : Defect) : (Drec.take r d).plateOpen = r.plateOpen := by
  unfold Drec.take; (repeat' split) <;> rfl
@[simp] theorem Drec.take_sweepHeight (r : Drec) (d : Defect) : (Drec.take r d).sweepHeight = r.sweepHeight := by
  unfold Drec.take; (repeat' split) <;> rfl
@[simp] theorem Drec.take_geometry (r : Drec) (d : Defect) : (Drec.take r d).geometry = r.geometry := by
  unfold Drec.take; (repeat' split) <;> rfl
@[simp] theorem Drec.take_mark (r : Drec) (d : Defect) : (Drec.take r d).mark = r.mark := by
  unfold Drec.take; (repeat' split) <;> rfl
@[simp] theorem Drec.take_reject (r : Drec) (d : Defect) : (Drec.take r d).reject = r.reject := by
  unfold Drec.take; (repeat' split) <;> rfl

/-! ## Updates of the state -/

@[simp] theorem writeBytes_keeps (a : Nat) (bs : List Byte) (s : State) :
    (writeBytes a bs s).part = s.part ∧ (writeBytes a bs s).resetHeld = s.resetHeld ∧
    (writeBytes a bs s).lp = s.lp ∧ (writeBytes a bs s).prx = s.prx ∧ (writeBytes a bs s).pdir = s.pdir ∧
    (writeBytes a bs s).psc = s.psc ∧ (writeBytes a bs s).sct = s.sct ∧ (writeBytes a bs s).ru = s.ru ∧
    (writeBytes a bs s).psch = s.psch ∧ (writeBytes a bs s).imp = s.imp ∧ (writeBytes a bs s).hmon = s.hmon ∧
    (writeBytes a bs s).drec = s.drec ∧ (writeBytes a bs s).freeIndex = s.freeIndex ∧
    (writeBytes a bs s).pending = s.pending := by
  simp [writeBytes]

@[simp] theorem spoilStore_keeps (s : State) :
    (spoilStore s).part = s.part ∧ (spoilStore s).resetHeld = s.resetHeld ∧ (spoilStore s).lp = s.lp ∧
    (spoilStore s).prx = s.prx ∧ (spoilStore s).pdir = s.pdir ∧ (spoilStore s).psc = s.psc ∧
    (spoilStore s).sct = s.sct ∧ (spoilStore s).ru = s.ru ∧ (spoilStore s).psch = s.psch ∧
    (spoilStore s).imp = s.imp ∧ (spoilStore s).hmon = s.hmon ∧ (spoilStore s).drec = s.drec ∧
    (spoilStore s).pending = s.pending := by
  simp [spoilStore]

@[simp] theorem ask_keeps (c : Client) (x : Transfer) (s : State) :
    (ask c x s).part = s.part ∧ (ask c x s).resetHeld = s.resetHeld ∧ (ask c x s).lp = s.lp ∧
    (ask c x s).prx = s.prx ∧ (ask c x s).pdir = s.pdir ∧ (ask c x s).psc.storeMiB = s.psc.storeMiB ∧
    (ask c x s).psc.links = s.psc.links ∧ (ask c x s).psc.poolHead = s.psc.poolHead ∧
    (ask c x s).psc.poolTail = s.psc.poolTail ∧ (ask c x s).psc.freeCount = s.psc.freeCount ∧
    (ask c x s).psc.poolSize = s.psc.poolSize ∧ (ask c x s).psc.refreshInterval = s.psc.refreshInterval ∧
    (ask c x s).psc.refreshMerged = s.psc.refreshMerged ∧ (ask c x s).dram = s.dram ∧ (ask c x s).sct = s.sct ∧
    (ask c x s).ru = s.ru ∧ (ask c x s).psch = s.psch ∧ (ask c x s).imp = s.imp ∧ (ask c x s).hmon = s.hmon ∧
    (ask c x s).drec = s.drec ∧ (ask c x s).freeIndex = s.freeIndex ∧ (ask c x s).pending = s.pending := by
  simp [ask]

@[simp] theorem dropRequests_keeps (c : Client) (s : State) :
    (dropRequests c s).part = s.part ∧ (dropRequests c s).resetHeld = s.resetHeld ∧
    (dropRequests c s).lp = s.lp ∧ (dropRequests c s).prx = s.prx ∧ (dropRequests c s).pdir = s.pdir ∧
    (dropRequests c s).psc.storeMiB = s.psc.storeMiB ∧ (dropRequests c s).psc.links = s.psc.links ∧
    (dropRequests c s).psc.poolHead = s.psc.poolHead ∧ (dropRequests c s).psc.poolTail = s.psc.poolTail ∧
    (dropRequests c s).psc.freeCount = s.psc.freeCount ∧ (dropRequests c s).psc.poolSize = s.psc.poolSize ∧
    (dropRequests c s).psc.refreshInterval = s.psc.refreshInterval ∧
    (dropRequests c s).psc.refreshMerged = s.psc.refreshMerged ∧ (dropRequests c s).dram = s.dram ∧
    (dropRequests c s).sct = s.sct ∧ (dropRequests c s).ru = s.ru ∧ (dropRequests c s).psch = s.psch ∧
    (dropRequests c s).imp = s.imp ∧ (dropRequests c s).hmon = s.hmon ∧ (dropRequests c s).drec = s.drec ∧
    (dropRequests c s).freeIndex = s.freeIndex ∧ (dropRequests c s).pending = s.pending := by
  simp [dropRequests]

@[simp] theorem endOperation_keeps (s : State) :
    (endOperation s).part = s.part ∧ (endOperation s).resetHeld = s.resetHeld ∧ (endOperation s).lp = s.lp ∧
    (endOperation s).prx = s.prx ∧ (endOperation s).pdir = s.pdir ∧
    (endOperation s).psc.storeMiB = s.psc.storeMiB ∧ (endOperation s).psc.links = s.psc.links ∧
    (endOperation s).psc.poolHead = s.psc.poolHead ∧ (endOperation s).psc.poolTail = s.psc.poolTail ∧
    (endOperation s).psc.freeCount = s.psc.freeCount ∧ (endOperation s).psc.poolSize = s.psc.poolSize ∧
    (endOperation s).psc.refreshInterval = s.psc.refreshInterval ∧
    (endOperation s).psc.refreshMerged = s.psc.refreshMerged ∧ (endOperation s).dram = s.dram ∧
    (endOperation s).sct = s.sct ∧ (endOperation s).ru = s.ru ∧ (endOperation s).psch = s.psch ∧
    (endOperation s).imp = s.imp ∧ (endOperation s).hmon = s.hmon ∧ (endOperation s).drec = s.drec ∧
    (endOperation s).freeIndex = s.freeIndex ∧ (endOperation s).pending = s.pending := by
  simp [endOperation]

@[simp] theorem report_keeps (r : Report) (s : State) :
    (report r s).part = s.part ∧ (report r s).resetHeld = s.resetHeld ∧ (report r s).lp.framer = s.lp.framer ∧
    (report r s).lp.cmdQueue = s.lp.cmdQueue ∧ (report r s).lp.replyReserved = s.lp.replyReserved ∧
    (report r s).lp.replyFinished = s.lp.replyFinished ∧ (report r s).lp.tx = s.lp.tx ∧
    (report r s).lp.linkErrors = s.lp.linkErrors ∧ (report r s).lp.overrun = s.lp.overrun ∧
    (report r s).lp.watchdogPeriod = s.lp.watchdogPeriod ∧
    (report r s).lp.watchdogRunning = s.lp.watchdogRunning ∧ (report r s).lp.unattended = s.lp.unattended ∧
    (report r s).lp.linkLost = s.lp.linkLost ∧ (report r s).prx = s.prx ∧ (report r s).pdir = s.pdir ∧
    (report r s).psc = s.psc ∧ (report r s).dram = s.dram ∧ (report r s).sct = s.sct ∧ (report r s).ru = s.ru ∧
    (report r s).psch = s.psch ∧ (report r s).imp = s.imp ∧ (report r s).hmon = s.hmon ∧
    (report r s).drec = s.drec ∧ (report r s).freeIndex = s.freeIndex ∧ (report r s).pending = s.pending := by
  simp [report]

@[simp] theorem answer_keeps (f : Frame) (code : Byte) (fields : List Byte) (s : State) :
    (answer f code fields s).part = s.part ∧ (answer f code fields s).resetHeld = s.resetHeld ∧
    (answer f code fields s).lp.framer = s.lp.framer ∧ (answer f code fields s).lp.cmdQueue = s.lp.cmdQueue ∧
    (answer f code fields s).lp.replyReserved = s.lp.replyReserved ∧
    (answer f code fields s).lp.reports = s.lp.reports ∧ (answer f code fields s).lp.tx = s.lp.tx ∧
    (answer f code fields s).lp.linkErrors = s.lp.linkErrors ∧
    (answer f code fields s).lp.overrun = s.lp.overrun ∧
    (answer f code fields s).lp.reportsLost = s.lp.reportsLost ∧
    (answer f code fields s).lp.watchdogPeriod = s.lp.watchdogPeriod ∧
    (answer f code fields s).lp.watchdogRunning = s.lp.watchdogRunning ∧
    (answer f code fields s).lp.unattended = s.lp.unattended ∧
    (answer f code fields s).lp.linkLost = s.lp.linkLost ∧ (answer f code fields s).prx = s.prx ∧
    (answer f code fields s).pdir = s.pdir ∧ (answer f code fields s).psc = s.psc ∧
    (answer f code fields s).dram = s.dram ∧ (answer f code fields s).sct = s.sct ∧
    (answer f code fields s).ru = s.ru ∧ (answer f code fields s).psch = s.psch ∧
    (answer f code fields s).imp = s.imp ∧ (answer f code fields s).hmon = s.hmon ∧
    (answer f code fields s).drec = s.drec ∧ (answer f code fields s).freeIndex = s.freeIndex ∧
    (answer f code fields s).pending = s.pending := by
  simp [answer]

@[simp] theorem setEntry_keeps (h : Nat) (e : Entry) (s : State) :
    (setEntry h e s).part = s.part ∧ (setEntry h e s).resetHeld = s.resetHeld ∧ (setEntry h e s).lp = s.lp ∧
    (setEntry h e s).prx = s.prx ∧ (setEntry h e s).pdir.entries.length = s.pdir.entries.length ∧
    (setEntry h e s).pdir.counter = s.pdir.counter ∧ (setEntry h e s).psc = s.psc ∧
    (setEntry h e s).dram = s.dram ∧ (setEntry h e s).sct = s.sct ∧ (setEntry h e s).ru = s.ru ∧
    (setEntry h e s).psch = s.psch ∧ (setEntry h e s).imp = s.imp ∧ (setEntry h e s).hmon = s.hmon ∧
    (setEntry h e s).drec = s.drec ∧ (setEntry h e s).freeIndex = s.freeIndex ∧
    (setEntry h e s).pending = s.pending := by
  simp [setEntry]

@[simp] theorem setBand_keeps (h b : Nat) (r : BandRecord) (s : State) :
    (setBand h b r s).part = s.part ∧ (setBand h b r s).resetHeld = s.resetHeld ∧ (setBand h b r s).lp = s.lp ∧
    (setBand h b r s).prx = s.prx ∧ (setBand h b r s).pdir.entries.length = s.pdir.entries.length ∧
    (setBand h b r s).pdir.counter = s.pdir.counter ∧ (setBand h b r s).psc = s.psc ∧
    (setBand h b r s).dram = s.dram ∧ (setBand h b r s).sct = s.sct ∧ (setBand h b r s).ru = s.ru ∧
    (setBand h b r s).psch = s.psch ∧ (setBand h b r s).imp = s.imp ∧ (setBand h b r s).hmon = s.hmon ∧
    (setBand h b r s).drec = s.drec ∧ (setBand h b r s).freeIndex = s.freeIndex ∧
    (setBand h b r s).pending = s.pending := by
  simp [setBand]

@[simp] theorem setContext_keeps (i : Nat) (c : Option Context) (s : State) :
    (setContext i c s).part = s.part ∧ (setContext i c s).resetHeld = s.resetHeld ∧
    (setContext i c s).lp = s.lp ∧ (setContext i c s).prx.contexts.length = s.prx.contexts.length ∧
    (setContext i c s).prx.chunk = s.prx.chunk ∧ (setContext i c s).prx.timeout = s.prx.timeout ∧
    (setContext i c s).pdir = s.pdir ∧ (setContext i c s).psc = s.psc ∧ (setContext i c s).dram = s.dram ∧
    (setContext i c s).sct = s.sct ∧ (setContext i c s).ru = s.ru ∧ (setContext i c s).psch = s.psch ∧
    (setContext i c s).imp = s.imp ∧ (setContext i c s).hmon = s.hmon ∧ (setContext i c s).drec = s.drec ∧
    (setContext i c s).freeIndex = s.freeIndex ∧ (setContext i c s).pending = s.pending := by
  simp [setContext]

@[simp] theorem setScreenSet_keeps (t : Nat) (x : ScreenSet) (s : State) :
    (setScreenSet t x s).part = s.part ∧ (setScreenSet t x s).resetHeld = s.resetHeld ∧
    (setScreenSet t x s).lp = s.lp ∧ (setScreenSet t x s).prx = s.prx ∧ (setScreenSet t x s).pdir = s.pdir ∧
    (setScreenSet t x s).psc = s.psc ∧ (setScreenSet t x s).dram = s.dram ∧
    (setScreenSet t x s).sct.sets.length = s.sct.sets.length ∧ (setScreenSet t x s).sct.cache = s.sct.cache ∧
    (setScreenSet t x s).sct.tag = s.sct.tag ∧ (setScreenSet t x s).sct.tileBuf = s.sct.tileBuf ∧
    (setScreenSet t x s).sct.fill = s.sct.fill ∧ (setScreenSet t x s).ru = s.ru ∧
    (setScreenSet t x s).psch = s.psch ∧ (setScreenSet t x s).imp = s.imp ∧ (setScreenSet t x s).hmon = s.hmon ∧
    (setScreenSet t x s).drec = s.drec ∧ (setScreenSet t x s).freeIndex = s.freeIndex ∧
    (setScreenSet t x s).pending = s.pending := by
  simp [setScreenSet]

@[simp] theorem setRing_keeps (k : Nat) (r : RingState) (s : State) :
    (setRing k r s).part = s.part ∧ (setRing k r s).resetHeld = s.resetHeld ∧ (setRing k r s).lp = s.lp ∧
    (setRing k r s).prx = s.prx ∧ (setRing k r s).pdir = s.pdir ∧ (setRing k r s).psc = s.psc ∧
    (setRing k r s).dram = s.dram ∧ (setRing k r s).sct = s.sct ∧ (setRing k r s).ru = s.ru ∧
    (setRing k r s).psch = s.psch ∧ (setRing k r s).imp.nrev = s.imp.nrev ∧
    (setRing k r s).imp.lead = s.imp.lead ∧ (setRing k r s).imp.swath = s.imp.swath ∧
    (setRing k r s).imp.half = s.imp.half ∧ (setRing k r s).imp.dwellLimit = s.imp.dwellLimit ∧
    (setRing k r s).imp.watermark = s.imp.watermark ∧ (setRing k r s).imp.ring.length = s.imp.ring.length ∧
    (setRing k r s).imp.rev = s.imp.rev ∧ (setRing k r s).imp.prev = s.imp.prev ∧
    (setRing k r s).imp.closing = s.imp.closing ∧ (setRing k r s).imp.exposed = s.imp.exposed ∧
    (setRing k r s).imp.firstExpose = s.imp.firstExpose ∧ (setRing k r s).imp.dwellCount = s.imp.dwellCount ∧
    (setRing k r s).imp.steps = s.imp.steps ∧ (setRing k r s).imp.cancelPending = s.imp.cancelPending ∧
    (setRing k r s).imp.endDecided = s.imp.endDecided ∧ (setRing k r s).imp.fifo = s.imp.fifo ∧
    (setRing k r s).imp.nextFetch = s.imp.nextFetch ∧ (setRing k r s).imp.nextSend = s.imp.nextSend ∧
    (setRing k r s).imp.refill = s.imp.refill ∧ (setRing k r s).imp.underrun = s.imp.underrun ∧
    (setRing k r s).imp.recordTaken = s.imp.recordTaken ∧ (setRing k r s).imp.headWord = s.imp.headWord ∧
    (setRing k r s).hmon = s.hmon ∧ (setRing k r s).drec = s.drec ∧ (setRing k r s).freeIndex = s.freeIndex ∧
    (setRing k r s).pending = s.pending := by
  simp [setRing]

@[simp] theorem updateJob_keeps (id : Nat) (f : Job → Job) (s : State) :
    (updateJob id f s).part = s.part ∧ (updateJob id f s).resetHeld = s.resetHeld ∧
    (updateJob id f s).lp = s.lp ∧ (updateJob id f s).prx = s.prx ∧ (updateJob id f s).pdir = s.pdir ∧
    (updateJob id f s).psc = s.psc ∧ (updateJob id f s).dram = s.dram ∧ (updateJob id f s).sct = s.sct ∧
    (updateJob id f s).ru = s.ru ∧ (updateJob id f s).psch.queue.length = s.psch.queue.length ∧
    (updateJob id f s).psch.history = s.psch.history ∧ (updateJob id f s).psch.armed = s.psch.armed ∧
    (updateJob id f s).psch.fresh = s.psch.fresh ∧ (updateJob id f s).imp = s.imp ∧
    (updateJob id f s).hmon = s.hmon ∧ (updateJob id f s).drec = s.drec ∧
    (updateJob id f s).freeIndex = s.freeIndex ∧ (updateJob id f s).pending = s.pending := by
  simp [updateJob]

@[simp] theorem driveVerdict_keeps (s : State) :
    (driveVerdict s).part = s.part ∧ (driveVerdict s).resetHeld = s.resetHeld ∧ (driveVerdict s).lp = s.lp ∧
    (driveVerdict s).prx = s.prx ∧ (driveVerdict s).pdir = s.pdir ∧ (driveVerdict s).psc = s.psc ∧
    (driveVerdict s).dram = s.dram ∧ (driveVerdict s).sct = s.sct ∧ (driveVerdict s).ru = s.ru ∧
    (driveVerdict s).psch = s.psch ∧ (driveVerdict s).imp = s.imp ∧ (driveVerdict s).hmon = s.hmon ∧
    (driveVerdict s).drec.plateOpen = s.drec.plateOpen ∧
    (driveVerdict s).drec.sweepHeight = s.drec.sweepHeight ∧ (driveVerdict s).drec.geometry = s.drec.geometry ∧
    (driveVerdict s).drec.list = s.drec.list ∧ (driveVerdict s).drec.verdict = s.drec.verdict ∧
    (driveVerdict s).freeIndex = s.freeIndex ∧ (driveVerdict s).pending = s.pending := by
  simp [driveVerdict]

@[simp] theorem handDefect_keeps (d : Defect) (s : State) :
    (handDefect d s).part = s.part ∧ (handDefect d s).resetHeld = s.resetHeld ∧ (handDefect d s).lp = s.lp ∧
    (handDefect d s).prx = s.prx ∧ (handDefect d s).pdir = s.pdir ∧ (handDefect d s).psc = s.psc ∧
    (handDefect d s).dram = s.dram ∧ (handDefect d s).sct = s.sct ∧ (handDefect d s).ru = s.ru ∧
    (handDefect d s).psch = s.psch ∧ (handDefect d s).imp = s.imp ∧ (handDefect d s).hmon = s.hmon ∧
    (handDefect d s).drec.plateOpen = s.drec.plateOpen ∧
    (handDefect d s).drec.sweepHeight = s.drec.sweepHeight ∧ (handDefect d s).drec.geometry = s.drec.geometry ∧
    (handDefect d s).drec.mark = s.drec.mark ∧ (handDefect d s).drec.reject = s.drec.reject ∧
    (handDefect d s).freeIndex = s.freeIndex ∧ (handDefect d s).pending = s.pending := by
  simp [handDefect]

@[simp] theorem openPlate_keeps (s : State) :
    (openPlate s).part = s.part ∧ (openPlate s).resetHeld = s.resetHeld ∧ (openPlate s).lp = s.lp ∧
    (openPlate s).prx = s.prx ∧ (openPlate s).pdir = s.pdir ∧ (openPlate s).psc = s.psc ∧
    (openPlate s).dram = s.dram ∧ (openPlate s).sct = s.sct ∧ (openPlate s).ru = s.ru ∧
    (openPlate s).psch = s.psch ∧ (openPlate s).imp = s.imp ∧ (openPlate s).hmon = s.hmon ∧
    (openPlate s).drec.mark = s.drec.mark ∧ (openPlate s).drec.reject = s.drec.reject ∧
    (openPlate s).freeIndex = s.freeIndex ∧ (openPlate s).pending = s.pending := by
  unfold openPlate
  (repeat' split) <;> simp

@[simp] theorem fixVerdict_keeps (s : State) :
    (fixVerdict s).part = s.part ∧ (fixVerdict s).resetHeld = s.resetHeld ∧ (fixVerdict s).lp = s.lp ∧
    (fixVerdict s).prx = s.prx ∧ (fixVerdict s).pdir = s.pdir ∧ (fixVerdict s).psc = s.psc ∧
    (fixVerdict s).dram = s.dram ∧ (fixVerdict s).sct = s.sct ∧ (fixVerdict s).ru = s.ru ∧
    (fixVerdict s).psch = s.psch ∧ (fixVerdict s).imp = s.imp ∧ (fixVerdict s).hmon = s.hmon ∧
    (fixVerdict s).drec.sweepHeight = s.drec.sweepHeight ∧ (fixVerdict s).drec.geometry = s.drec.geometry ∧
    (fixVerdict s).drec.list = s.drec.list ∧ (fixVerdict s).drec.verdict = s.drec.verdict ∧
    (fixVerdict s).freeIndex = s.freeIndex ∧ (fixVerdict s).pending = s.pending := by
  simp [fixVerdict]

@[simp] theorem closePlate_keeps (s : State) :
    (closePlate s).part = s.part ∧ (closePlate s).resetHeld = s.resetHeld ∧ (closePlate s).lp = s.lp ∧
    (closePlate s).prx = s.prx ∧ (closePlate s).pdir = s.pdir ∧ (closePlate s).psc = s.psc ∧
    (closePlate s).dram = s.dram ∧ (closePlate s).sct = s.sct ∧ (closePlate s).ru = s.ru ∧
    (closePlate s).psch = s.psch ∧ (closePlate s).imp = s.imp ∧ (closePlate s).hmon = s.hmon ∧
    (closePlate s).drec.sweepHeight = s.drec.sweepHeight ∧ (closePlate s).drec.geometry = s.drec.geometry ∧
    (closePlate s).drec.list = s.drec.list ∧ (closePlate s).drec.verdict = s.drec.verdict ∧
    (closePlate s).drec.mark = s.drec.mark ∧ (closePlate s).drec.reject = s.drec.reject ∧
    (closePlate s).freeIndex = s.freeIndex ∧ (closePlate s).pending = s.pending := by
  simp [closePlate]

@[simp] theorem returnChain_keeps (head : Option Nat) (s : State) :
    (returnChain head s).1.part = s.part ∧ (returnChain head s).1.resetHeld = s.resetHeld ∧
    (returnChain head s).1.lp = s.lp ∧ (returnChain head s).1.prx = s.prx ∧
    (returnChain head s).1.pdir = s.pdir ∧ (returnChain head s).1.psc.storeMiB = s.psc.storeMiB ∧
    (returnChain head s).1.psc.poolSize = s.psc.poolSize ∧
    (returnChain head s).1.psc.inFlight = s.psc.inFlight ∧ (returnChain head s).1.psc.waiting = s.psc.waiting ∧
    (returnChain head s).1.psc.refreshInterval = s.psc.refreshInterval ∧
    (returnChain head s).1.psc.refreshMerged = s.psc.refreshMerged ∧ (returnChain head s).1.dram = s.dram ∧
    (returnChain head s).1.sct = s.sct ∧ (returnChain head s).1.ru = s.ru ∧
    (returnChain head s).1.psch = s.psch ∧ (returnChain head s).1.imp = s.imp ∧
    (returnChain head s).1.hmon = s.hmon ∧ (returnChain head s).1.drec = s.drec ∧
    (returnChain head s).1.freeIndex = s.freeIndex ∧ (returnChain head s).1.pending = s.pending := by
  simp [returnChain]

end Sys2Proof.Machine
end

