-- ==== Sys2Proof/Laws/Frames.lean ====
section
/-! SUPPORT. The frame of each composite operation: one simp lemma for each, a conjunction over the fields that it
leaves alone whatever the state, in the order in which the operations are defined. -/

namespace Sys2Proof.Machine

/-- A fold keeps what each of its steps keeps. -/
theorem foldl_keeps {α β γ : Type} (P : α → γ) (f : α → β → α) (h : ∀ a b, P (f a b) = P a) (l : List β)
    (a : α) : P (l.foldl f a) = P a := by
  induction l generalizing a with
  | nil => rfl
  | cons b r ih => simp [ih, h]

@[simp] theorem noteEntry_keeps (ev : PageEvent) (h : Nat) (s : State) :
    (noteEntry ev h s).part = s.part ∧ (noteEntry ev h s).resetHeld = s.resetHeld ∧
    (noteEntry ev h s).lp.framer = s.lp.framer ∧ (noteEntry ev h s).lp.cmdQueue = s.lp.cmdQueue ∧
    (noteEntry ev h s).lp.replyReserved = s.lp.replyReserved ∧
    (noteEntry ev h s).lp.replyFinished = s.lp.replyFinished ∧ (noteEntry ev h s).lp.tx = s.lp.tx ∧
    (noteEntry ev h s).lp.linkErrors = s.lp.linkErrors ∧ (noteEntry ev h s).lp.overrun = s.lp.overrun ∧
    (noteEntry ev h s).lp.watchdogPeriod = s.lp.watchdogPeriod ∧
    (noteEntry ev h s).lp.watchdogRunning = s.lp.watchdogRunning ∧
    (noteEntry ev h s).lp.unattended = s.lp.unattended ∧ (noteEntry ev h s).lp.linkLost = s.lp.linkLost ∧
    (noteEntry ev h s).prx = s.prx ∧ (noteEntry ev h s).pdir = s.pdir ∧ (noteEntry ev h s).psc = s.psc ∧
    (noteEntry ev h s).dram = s.dram ∧ (noteEntry ev h s).sct = s.sct ∧ (noteEntry ev h s).ru = s.ru ∧
    (noteEntry ev h s).psch = s.psch ∧ (noteEntry ev h s).imp = s.imp ∧ (noteEntry ev h s).hmon = s.hmon ∧
    (noteEntry ev h s).drec = s.drec ∧ (noteEntry ev h s).freeIndex = s.freeIndex ∧
    (noteEntry ev h s).pending = s.pending := by
  simp [noteEntry]

@[simp] theorem emptyChunkOf_keeps (h : Nat) (s : State) :
    (emptyChunkOf h s).part = s.part ∧ (emptyChunkOf h s).resetHeld = s.resetHeld ∧
    (emptyChunkOf h s).lp = s.lp ∧ (emptyChunkOf h s).prx.contexts = s.prx.contexts ∧
    (emptyChunkOf h s).prx.timeout = s.prx.timeout ∧ (emptyChunkOf h s).pdir = s.pdir ∧
    (emptyChunkOf h s).psc.storeMiB = s.psc.storeMiB ∧ (emptyChunkOf h s).psc.links = s.psc.links ∧
    (emptyChunkOf h s).psc.poolHead = s.psc.poolHead ∧ (emptyChunkOf h s).psc.poolTail = s.psc.poolTail ∧
    (emptyChunkOf h s).psc.freeCount = s.psc.freeCount ∧ (emptyChunkOf h s).psc.poolSize = s.psc.poolSize ∧
    (emptyChunkOf h s).psc.refreshInterval = s.psc.refreshInterval ∧
    (emptyChunkOf h s).psc.refreshMerged = s.psc.refreshMerged ∧ (emptyChunkOf h s).dram = s.dram ∧
    (emptyChunkOf h s).sct = s.sct ∧ (emptyChunkOf h s).ru = s.ru ∧ (emptyChunkOf h s).psch = s.psch ∧
    (emptyChunkOf h s).imp = s.imp ∧ (emptyChunkOf h s).hmon = s.hmon ∧ (emptyChunkOf h s).drec = s.drec ∧
    (emptyChunkOf h s).freeIndex = s.freeIndex ∧ (emptyChunkOf h s).pending = s.pending := by
  unfold emptyChunkOf
  (repeat' split) <;> simp

@[simp] theorem freeContextOf_keeps (h : Nat) (s : State) :
    (freeContextOf h s).part = s.part ∧ (freeContextOf h s).resetHeld = s.resetHeld ∧
    (freeContextOf h s).lp = s.lp ∧ (freeContextOf h s).prx.contexts.length = s.prx.contexts.length ∧
    (freeContextOf h s).prx.chunk = s.prx.chunk ∧ (freeContextOf h s).prx.timeout = s.prx.timeout ∧
    (freeContextOf h s).pdir = s.pdir ∧ (freeContextOf h s).psc = s.psc ∧ (freeContextOf h s).dram = s.dram ∧
    (freeContextOf h s).sct = s.sct ∧ (freeContextOf h s).ru = s.ru ∧ (freeContextOf h s).psch = s.psch ∧
    (freeContextOf h s).imp = s.imp ∧ (freeContextOf h s).hmon = s.hmon ∧ (freeContextOf h s).drec = s.drec ∧
    (freeContextOf h s).freeIndex = s.freeIndex ∧ (freeContextOf h s).pending = s.pending := by
  unfold freeContextOf
  (repeat' split) <;> simp

@[simp] theorem prxPump_keeps (s : State) :
    (prxPump s).part = s.part ∧ (prxPump s).resetHeld = s.resetHeld ∧ (prxPump s).lp = s.lp ∧
    (prxPump s).prx.contexts = s.prx.contexts ∧ (prxPump s).prx.timeout = s.prx.timeout ∧
    (prxPump s).pdir = s.pdir ∧ (prxPump s).psc.storeMiB = s.psc.storeMiB ∧
    (prxPump s).psc.links = s.psc.links ∧ (prxPump s).psc.poolHead = s.psc.poolHead ∧
    (prxPump s).psc.poolTail = s.psc.poolTail ∧ (prxPump s).psc.freeCount = s.psc.freeCount ∧
    (prxPump s).psc.poolSize = s.psc.poolSize ∧ (prxPump s).psc.refreshInterval = s.psc.refreshInterval ∧
    (prxPump s).psc.refreshMerged = s.psc.refreshMerged ∧ (prxPump s).dram = s.dram ∧ (prxPump s).sct = s.sct ∧
    (prxPump s).ru = s.ru ∧ (prxPump s).psch = s.psch ∧ (prxPump s).imp = s.imp ∧ (prxPump s).hmon = s.hmon ∧
    (prxPump s).drec = s.drec ∧ (prxPump s).freeIndex = s.freeIndex ∧ (prxPump s).pending = s.pending := by
  unfold prxPump
  (repeat' split) <;> simp

@[simp] theorem missBand_keeps (h : Nat) (s : State) (b : Nat) :
    (missBand h s b).part = s.part ∧ (missBand h s b).resetHeld = s.resetHeld ∧ (missBand h s b).lp = s.lp ∧
    (missBand h s b).prx = s.prx ∧ (missBand h s b).pdir.entries.length = s.pdir.entries.length ∧
    (missBand h s b).pdir.counter = s.pdir.counter ∧ (missBand h s b).psc.storeMiB = s.psc.storeMiB ∧
    (missBand h s b).psc.poolSize = s.psc.poolSize ∧ (missBand h s b).psc.inFlight = s.psc.inFlight ∧
    (missBand h s b).psc.waiting = s.psc.waiting ∧
    (missBand h s b).psc.refreshInterval = s.psc.refreshInterval ∧
    (missBand h s b).psc.refreshMerged = s.psc.refreshMerged ∧ (missBand h s b).dram = s.dram ∧
    (missBand h s b).sct = s.sct ∧ (missBand h s b).ru = s.ru ∧ (missBand h s b).psch = s.psch ∧
    (missBand h s b).imp = s.imp ∧ (missBand h s b).hmon = s.hmon ∧ (missBand h s b).drec = s.drec ∧
    (missBand h s b).freeIndex = s.freeIndex ∧ (missBand h s b).pending = s.pending := by
  unfold missBand
  (repeat' split) <;> simp

@[simp] theorem missBands_keeps (h : Nat) (s : State) :
    (missBands h s).part = s.part ∧ (missBands h s).resetHeld = s.resetHeld ∧ (missBands h s).lp = s.lp ∧
    (missBands h s).prx = s.prx ∧ (missBands h s).pdir.entries.length = s.pdir.entries.length ∧
    (missBands h s).pdir.counter = s.pdir.counter ∧ (missBands h s).psc.storeMiB = s.psc.storeMiB ∧
    (missBands h s).psc.poolSize = s.psc.poolSize ∧ (missBands h s).psc.inFlight = s.psc.inFlight ∧
    (missBands h s).psc.waiting = s.psc.waiting ∧ (missBands h s).psc.refreshInterval = s.psc.refreshInterval ∧
    (missBands h s).psc.refreshMerged = s.psc.refreshMerged ∧ (missBands h s).dram = s.dram ∧
    (missBands h s).sct = s.sct ∧ (missBands h s).ru = s.ru ∧ (missBands h s).psch = s.psch ∧
    (missBands h s).imp = s.imp ∧ (missBands h s).hmon = s.hmon ∧ (missBands h s).drec = s.drec ∧
    (missBands h s).freeIndex = s.freeIndex ∧ (missBands h s).pending = s.pending := by
  unfold missBands
  exact ⟨foldl_keeps (fun x : State => x.part) _ (by intros; simp) _ _,
    foldl_keeps (fun x : State => x.resetHeld) _ (by intros; simp) _ _,
    foldl_keeps (fun x : State => x.lp) _ (by intros; simp) _ _,
    foldl_keeps (fun x : State => x.prx) _ (by intros; simp) _ _,
    foldl_keeps (fun x : State => x.pdir.entries.length) _ (by intros; simp) _ _,
    foldl_keeps (fun x : State => x.pdir.counter) _ (by intros; simp) _ _,
    foldl_keeps (fun x : State => x.psc.storeMiB) _ (by intros; simp) _ _,
    foldl_keeps (fun x : State => x.psc.poolSize) _ (by intros; simp) _ _,
    foldl_keeps (fun x : State => x.psc.inFlight) _ (by intros; simp) _ _,
    foldl_keeps (fun x : State => x.psc.waiting) _ (by intros; simp) _ _,
    foldl_keeps (fun x : State => x.psc.refreshInterval) _ (by intros; simp) _ _,
    foldl_keeps (fun x : State => x.psc.refreshMerged) _ (by intros; simp) _ _,
    foldl_keeps (fun x : State => x.dram) _ (by intros; simp) _ _,
    foldl_keeps (fun x : State => x.sct) _ (by intros; simp) _ _,
    foldl_keeps (fun x : State => x.ru) _ (by intros; simp) _ _,
    foldl_keeps (fun x : State => x.psch) _ (by intros; simp) _ _,
    foldl_keeps (fun x : State => x.imp) _ (by intros; simp) _ _,
    foldl_keeps (fun x : State => x.hmon) _ (by intros; simp) _ _,
    foldl_keeps (fun x : State => x.drec) _ (by intros; simp) _ _,
    foldl_keeps (fun x : State => x.freeIndex) _ (by intros; simp) _ _,
    foldl_keeps (fun x : State => x.pending) _ (by intros; simp) _ _⟩

@[simp] theorem endRepair_keeps (h : Nat) (note : Option PageEvent) (s : State) :
    (endRepair h note s).part = s.part ∧ (endRepair h note s).resetHeld = s.resetHeld ∧
    (endRepair h note s).lp.framer = s.lp.framer ∧ (endRepair h note s).lp.cmdQueue = s.lp.cmdQueue ∧
    (endRepair h note s).lp.replyReserved = s.lp.replyReserved ∧
    (endRepair h note s).lp.replyFinished = s.lp.replyFinished ∧ (endRepair h note s).lp.tx = s.lp.tx ∧
    (endRepair h note s).lp.linkErrors = s.lp.linkErrors ∧ (endRepair h note s).lp.overrun = s.lp.overrun ∧
    (endRepair h note s).lp.watchdogPeriod = s.lp.watchdogPeriod ∧
    (endRepair h note s).lp.watchdogRunning = s.lp.watchdogRunning ∧
    (endRepair h note s).lp.unattended = s.lp.unattended ∧ (endRepair h note s).lp.linkLost = s.lp.linkLost ∧
    (endRepair h note s).prx.contexts.length = s.prx.contexts.length ∧
    (endRepair h note s).prx.timeout = s.prx.timeout ∧
    (endRepair h note s).pdir.entries.length = s.pdir.entries.length ∧
    (endRepair h note s).pdir.counter = s.pdir.counter ∧ (endRepair h note s).psc.storeMiB = s.psc.storeMiB ∧
    (endRepair h note s).psc.poolSize = s.psc.poolSize ∧
    (endRepair h note s).psc.refreshInterval = s.psc.refreshInterval ∧
    (endRepair h note s).psc.refreshMerged = s.psc.refreshMerged ∧ (endRepair h note s).dram = s.dram ∧
    (endRepair h note s).sct = s.sct ∧ (endRepair h note s).ru = s.ru ∧ (endRepair h note s).psch = s.psch ∧
    (endRepair h note s).imp = s.imp ∧ (endRepair h note s).hmon = s.hmon ∧ (endRepair h note s).drec = s.drec ∧
    (endRepair h note s).freeIndex = s.freeIndex ∧ (endRepair h note s).pending = s.pending := by
  unfold endRepair
  (repeat' split) <;> simp

@[simp] theorem releaseBand_keeps (h : Nat) (s : State × Nat) (b : Nat) :
    (releaseBand h s b).1.part = s.1.part ∧ (releaseBand h s b).1.resetHeld = s.1.resetHeld ∧
    (releaseBand h s b).1.lp = s.1.lp ∧ (releaseBand h s b).1.prx = s.1.prx ∧
    (releaseBand h s b).1.pdir = s.1.pdir ∧ (releaseBand h s b).1.psc.storeMiB = s.1.psc.storeMiB ∧
    (releaseBand h s b).1.psc.poolSize = s.1.psc.poolSize ∧
    (releaseBand h s b).1.psc.inFlight = s.1.psc.inFlight ∧
    (releaseBand h s b).1.psc.waiting = s.1.psc.waiting ∧
    (releaseBand h s b).1.psc.refreshInterval = s.1.psc.refreshInterval ∧
    (releaseBand h s b).1.psc.refreshMerged = s.1.psc.refreshMerged ∧ (releaseBand h s b).1.dram = s.1.dram ∧
    (releaseBand h s b).1.sct = s.1.sct ∧ (releaseBand h s b).1.ru = s.1.ru ∧
    (releaseBand h s b).1.psch = s.1.psch ∧ (releaseBand h s b).1.imp = s.1.imp ∧
    (releaseBand h s b).1.hmon = s.1.hmon ∧ (releaseBand h s b).1.drec = s.1.drec ∧
    (releaseBand h s b).1.freeIndex = s.1.freeIndex ∧ (releaseBand h s b).1.pending = s.1.pending := by
  unfold releaseBand
  (repeat' split) <;> simp

@[simp] theorem releaseChains_keeps (h : Nat) (s : State) :
    (releaseChains h s).1.part = s.part ∧ (releaseChains h s).1.resetHeld = s.resetHeld ∧
    (releaseChains h s).1.lp = s.lp ∧ (releaseChains h s).1.prx = s.prx ∧ (releaseChains h s).1.pdir = s.pdir ∧
    (releaseChains h s).1.psc.storeMiB = s.psc.storeMiB ∧ (releaseChains h s).1.psc.poolSize = s.psc.poolSize ∧
    (releaseChains h s).1.psc.inFlight = s.psc.inFlight ∧ (releaseChains h s).1.psc.waiting = s.psc.waiting ∧
    (releaseChains h s).1.psc.refreshInterval = s.psc.refreshInterval ∧
    (releaseChains h s).1.psc.refreshMerged = s.psc.refreshMerged ∧ (releaseChains h s).1.dram = s.dram ∧
    (releaseChains h s).1.sct = s.sct ∧ (releaseChains h s).1.ru = s.ru ∧ (releaseChains h s).1.psch = s.psch ∧
    (releaseChains h s).1.imp = s.imp ∧ (releaseChains h s).1.hmon = s.hmon ∧
    (releaseChains h s).1.drec = s.drec ∧ (releaseChains h s).1.freeIndex = s.freeIndex ∧
    (releaseChains h s).1.pending = s.pending := by
  unfold releaseChains
  exact ⟨foldl_keeps (fun x : State × Nat => x.1.part) _ (by intros; simp) _ _,
    foldl_keeps (fun x : State × Nat => x.1.resetHeld) _ (by intros; simp) _ _,
    foldl_keeps (fun x : State × Nat => x.1.lp) _ (by intros; simp) _ _,
    foldl_keeps (fun x : State × Nat => x.1.prx) _ (by intros; simp) _ _,
    foldl_keeps (fun x : State × Nat => x.1.pdir) _ (by intros; simp) _ _,
    foldl_keeps (fun x : State × Nat => x.1.psc.storeMiB) _ (by intros; simp) _ _,
    foldl_keeps (fun x : State × Nat => x.1.psc.poolSize) _ (by intros; simp) _ _,
    foldl_keeps (fun x : State × Nat => x.1.psc.inFlight) _ (by intros; simp) _ _,
    foldl_keeps (fun x : State × Nat => x.1.psc.waiting) _ (by intros; simp) _ _,
    foldl_keeps (fun x : State × Nat => x.1.psc.refreshInterval) _ (by intros; simp) _ _,
    foldl_keeps (fun x : State × Nat => x.1.psc.refreshMerged) _ (by intros; simp) _ _,
    foldl_keeps (fun x : State × Nat => x.1.dram) _ (by intros; simp) _ _,
    foldl_keeps (fun x : State × Nat => x.1.sct) _ (by intros; simp) _ _,
    foldl_keeps (fun x : State × Nat => x.1.ru) _ (by intros; simp) _ _,
    foldl_keeps (fun x : State × Nat => x.1.psch) _ (by intros; simp) _ _,
    foldl_keeps (fun x : State × Nat => x.1.imp) _ (by intros; simp) _ _,
    foldl_keeps (fun x : State × Nat => x.1.hmon) _ (by intros; simp) _ _,
    foldl_keeps (fun x : State × Nat => x.1.drec) _ (by intros; simp) _ _,
    foldl_keeps (fun x : State × Nat => x.1.freeIndex) _ (by intros; simp) _ _,
    foldl_keeps (fun x : State × Nat => x.1.pending) _ (by intros; simp) _ _⟩

@[simp] theorem releaseEntry_keeps (h : Nat) (cause : ReleaseCause) (s : State) :
    (releaseEntry h cause s).part = s.part ∧ (releaseEntry h cause s).resetHeld = s.resetHeld ∧
    (releaseEntry h cause s).lp.framer = s.lp.framer ∧ (releaseEntry h cause s).lp.cmdQueue = s.lp.cmdQueue ∧
    (releaseEntry h cause s).lp.replyReserved = s.lp.replyReserved ∧
    (releaseEntry h cause s).lp.replyFinished = s.lp.replyFinished ∧ (releaseEntry h cause s).lp.tx = s.lp.tx ∧
    (releaseEntry h cause s).lp.linkErrors = s.lp.linkErrors ∧
    (releaseEntry h cause s).lp.overrun = s.lp.overrun ∧
    (releaseEntry h cause s).lp.watchdogPeriod = s.lp.watchdogPeriod ∧
    (releaseEntry h cause s).lp.watchdogRunning = s.lp.watchdogRunning ∧
    (releaseEntry h cause s).lp.unattended = s.lp.unattended ∧
    (releaseEntry h cause s).lp.linkLost = s.lp.linkLost ∧
    (releaseEntry h cause s).prx.contexts.length = s.prx.contexts.length ∧
    (releaseEntry h cause s).prx.timeout = s.prx.timeout ∧
    (releaseEntry h cause s).pdir.entries.length = s.pdir.entries.length ∧
    (releaseEntry h cause s).pdir.counter = s.pdir.counter ∧
    (releaseEntry h cause s).psc.storeMiB = s.psc.storeMiB ∧
    (releaseEntry h cause s).psc.poolSize = s.psc.poolSize ∧
    (releaseEntry h cause s).psc.refreshInterval = s.psc.refreshInterval ∧
    (releaseEntry h cause s).psc.refreshMerged = s.psc.refreshMerged ∧ (releaseEntry h cause s).dram = s.dram ∧
    (releaseEntry h cause s).sct = s.sct ∧ (releaseEntry h cause s).ru = s.ru ∧
    (releaseEntry h cause s).psch = s.psch ∧ (releaseEntry h cause s).imp = s.imp ∧
    (releaseEntry h cause s).hmon = s.hmon ∧ (releaseEntry h cause s).drec = s.drec ∧
    (releaseEntry h cause s).freeIndex = s.freeIndex ∧ (releaseEntry h cause s).pending = s.pending := by
  simp [releaseEntry]

@[simp] theorem retire_keeps (by_ h : Nat) (s : State) :
    (retire by_ h s).part = s.part ∧ (retire by_ h s).resetHeld = s.resetHeld ∧
    (retire by_ h s).lp.framer = s.lp.framer ∧ (retire by_ h s).lp.cmdQueue = s.lp.cmdQueue ∧
    (retire by_ h s).lp.replyReserved = s.lp.replyReserved ∧
    (retire by_ h s).lp.replyFinished = s.lp.replyFinished ∧ (retire by_ h s).lp.tx = s.lp.tx ∧
    (retire by_ h s).lp.linkErrors = s.lp.linkErrors ∧ (retire by_ h s).lp.overrun = s.lp.overrun ∧
    (retire by_ h s).lp.watchdogPeriod = s.lp.watchdogPeriod ∧
    (retire by_ h s).lp.watchdogRunning = s.lp.watchdogRunning ∧
    (retire by_ h s).lp.unattended = s.lp.unattended ∧ (retire by_ h s).lp.linkLost = s.lp.linkLost ∧
    (retire by_ h s).prx.contexts.length = s.prx.contexts.length ∧
    (retire by_ h s).prx.timeout = s.prx.timeout ∧
    (retire by_ h s).pdir.entries.length = s.pdir.entries.length ∧
    (retire by_ h s).pdir.counter = s.pdir.counter ∧ (retire by_ h s).psc.storeMiB = s.psc.storeMiB ∧
    (retire by_ h s).psc.poolSize = s.psc.poolSize ∧
    (retire by_ h s).psc.refreshInterval = s.psc.refreshInterval ∧
    (retire by_ h s).psc.refreshMerged = s.psc.refreshMerged ∧ (retire by_ h s).dram = s.dram ∧
    (retire by_ h s).sct = s.sct ∧ (retire by_ h s).ru = s.ru ∧ (retire by_ h s).psch = s.psch ∧
    (retire by_ h s).imp = s.imp ∧ (retire by_ h s).hmon = s.hmon ∧ (retire by_ h s).drec = s.drec ∧
    (retire by_ h s).freeIndex = s.freeIndex ∧ (retire by_ h s).pending = s.pending := by
  unfold retire
  dsimp only
  (repeat' split) <;> simp

@[simp] theorem retireIfOlder_keeps (by_ : Nat) (s : State) (h : Nat) :
    (retireIfOlder by_ s h).part = s.part ∧ (retireIfOlder by_ s h).resetHeld = s.resetHeld ∧
    (retireIfOlder by_ s h).lp.framer = s.lp.framer ∧ (retireIfOlder by_ s h).lp.cmdQueue = s.lp.cmdQueue ∧
    (retireIfOlder by_ s h).lp.replyReserved = s.lp.replyReserved ∧
    (retireIfOlder by_ s h).lp.replyFinished = s.lp.replyFinished ∧ (retireIfOlder by_ s h).lp.tx = s.lp.tx ∧
    (retireIfOlder by_ s h).lp.linkErrors = s.lp.linkErrors ∧
    (retireIfOlder by_ s h).lp.overrun = s.lp.overrun ∧
    (retireIfOlder by_ s h).lp.watchdogPeriod = s.lp.watchdogPeriod ∧
    (retireIfOlder by_ s h).lp.watchdogRunning = s.lp.watchdogRunning ∧
    (retireIfOlder by_ s h).lp.unattended = s.lp.unattended ∧
    (retireIfOlder by_ s h).lp.linkLost = s.lp.linkLost ∧
    (retireIfOlder by_ s h).prx.contexts.length = s.prx.contexts.length ∧
    (retireIfOlder by_ s h).prx.timeout = s.prx.timeout ∧
    (retireIfOlder by_ s h).pdir.entries.length = s.pdir.entries.length ∧
    (retireIfOlder by_ s h).pdir.counter = s.pdir.counter ∧
    (retireIfOlder by_ s h).psc.storeMiB = s.psc.storeMiB ∧
    (retireIfOlder by_ s h).psc.poolSize = s.psc.poolSize ∧
    (retireIfOlder by_ s h).psc.refreshInterval = s.psc.refreshInterval ∧
    (retireIfOlder by_ s h).psc.refreshMerged = s.psc.refreshMerged ∧ (retireIfOlder by_ s h).dram = s.dram ∧
    (retireIfOlder by_ s h).sct = s.sct ∧ (retireIfOlder by_ s h).ru = s.ru ∧
    (retireIfOlder by_ s h).psch = s.psch ∧ (retireIfOlder by_ s h).imp = s.imp ∧
    (retireIfOlder by_ s h).hmon = s.hmon ∧ (retireIfOlder by_ s h).drec = s.drec ∧
    (retireIfOlder by_ s h).freeIndex = s.freeIndex ∧ (retireIfOlder by_ s h).pending = s.pending := by
  unfold retireIfOlder
  (repeat' split) <;> simp

@[simp] theorem supersede_keeps (by_ : Nat) (s : State) :
    (supersede by_ s).part = s.part ∧ (supersede by_ s).resetHeld = s.resetHeld ∧
    (supersede by_ s).lp.framer = s.lp.framer ∧ (supersede by_ s).lp.cmdQueue = s.lp.cmdQueue ∧
    (supersede by_ s).lp.replyReserved = s.lp.replyReserved ∧
    (supersede by_ s).lp.replyFinished = s.lp.replyFinished ∧ (supersede by_ s).lp.tx = s.lp.tx ∧
    (supersede by_ s).lp.linkErrors = s.lp.linkErrors ∧ (supersede by_ s).lp.overrun = s.lp.overrun ∧
    (supersede by_ s).lp.watchdogPeriod = s.lp.watchdogPeriod ∧
    (supersede by_ s).lp.watchdogRunning = s.lp.watchdogRunning ∧
    (supersede by_ s).lp.unattended = s.lp.unattended ∧ (supersede by_ s).lp.linkLost = s.lp.linkLost ∧
    (supersede by_ s).prx.contexts.length = s.prx.contexts.length ∧
    (supersede by_ s).prx.timeout = s.prx.timeout ∧
    (supersede by_ s).pdir.entries.length = s.pdir.entries.length ∧
    (supersede by_ s).pdir.counter = s.pdir.counter ∧ (supersede by_ s).psc.storeMiB = s.psc.storeMiB ∧
    (supersede by_ s).psc.poolSize = s.psc.poolSize ∧
    (supersede by_ s).psc.refreshInterval = s.psc.refreshInterval ∧
    (supersede by_ s).psc.refreshMerged = s.psc.refreshMerged ∧ (supersede by_ s).dram = s.dram ∧
    (supersede by_ s).sct = s.sct ∧ (supersede by_ s).ru = s.ru ∧ (supersede by_ s).psch = s.psch ∧
    (supersede by_ s).imp = s.imp ∧ (supersede by_ s).hmon = s.hmon ∧ (supersede by_ s).drec = s.drec ∧
    (supersede by_ s).freeIndex = s.freeIndex ∧ (supersede by_ s).pending = s.pending := by
  unfold supersede
  exact ⟨foldl_keeps (fun x : State => x.part) _ (by intros; simp) _ _,
    foldl_keeps (fun x : State => x.resetHeld) _ (by intros; simp) _ _,
    foldl_keeps (fun x : State => x.lp.framer) _ (by intros; simp) _ _,
    foldl_keeps (fun x : State => x.lp.cmdQueue) _ (by intros; simp) _ _,
    foldl_keeps (fun x : State => x.lp.replyReserved) _ (by intros; simp) _ _,
    foldl_keeps (fun x : State => x.lp.replyFinished) _ (by intros; simp) _ _,
    foldl_keeps (fun x : State => x.lp.tx) _ (by intros; simp) _ _,
    foldl_keeps (fun x : State => x.lp.linkErrors) _ (by intros; simp) _ _,
    foldl_keeps (fun x : State => x.lp.overrun) _ (by intros; simp) _ _,
    foldl_keeps (fun x : State => x.lp.watchdogPeriod) _ (by intros; simp) _ _,
    foldl_keeps (fun x : State => x.lp.watchdogRunning) _ (by intros; simp) _ _,
    foldl_keeps (fun x : State => x.lp.unattended) _ (by intros; simp) _ _,
    foldl_keeps (fun x : State => x.lp.linkLost) _ (by intros; simp) _ _,
    foldl_keeps (fun x : State => x.prx.contexts.length) _ (by intros; simp) _ _,
    foldl_keeps (fun x : State => x.prx.timeout) _ (by intros; simp) _ _,
    foldl_keeps (fun x : State => x.pdir.entries.length) _ (by intros; simp) _ _,
    foldl_keeps (fun x : State => x.pdir.counter) _ (by intros; simp) _ _,
    foldl_keeps (fun x : State => x.psc.storeMiB) _ (by intros; simp) _ _,
    foldl_keeps (fun x : State => x.psc.poolSize) _ (by intros; simp) _ _,
    foldl_keeps (fun x : State => x.psc.refreshInterval) _ (by intros; simp) _ _,
    foldl_keeps (fun x : State => x.psc.refreshMerged) _ (by intros; simp) _ _,
    foldl_keeps (fun x : State => x.dram) _ (by intros; simp) _ _,
    foldl_keeps (fun x : State => x.sct) _ (by intros; simp) _ _,
    foldl_keeps (fun x : State => x.ru) _ (by intros; simp) _ _,
    foldl_keeps (fun x : State => x.psch) _ (by intros; simp) _ _,
    foldl_keeps (fun x : State => x.imp) _ (by intros; simp) _ _,
    foldl_keeps (fun x : State => x.hmon) _ (by intros; simp) _ _,
    foldl_keeps (fun x : State => x.drec) _ (by intros; simp) _ _,
    foldl_keeps (fun x : State => x.freeIndex) _ (by intros; simp) _ _,
    foldl_keeps (fun x : State => x.pending) _ (by intros; simp) _ _⟩

@[simp] theorem closeReception_keeps (ev : PageEvent) (byOpen : Bool) (h : Nat) (s : State) :
    (closeReception ev byOpen h s).part = s.part ∧ (closeReception ev byOpen h s).resetHeld = s.resetHeld ∧
    (closeReception ev byOpen h s).lp.framer = s.lp.framer ∧
    (closeReception ev byOpen h s).lp.cmdQueue = s.lp.cmdQueue ∧
    (closeReception ev byOpen h s).lp.replyReserved = s.lp.replyReserved ∧
    (closeReception ev byOpen h s).lp.replyFinished = s.lp.replyFinished ∧
    (closeReception ev byOpen h s).lp.tx = s.lp.tx ∧
    (closeReception ev byOpen h s).lp.linkErrors = s.lp.linkErrors ∧
    (closeReception ev byOpen h s).lp.overrun = s.lp.overrun ∧
    (closeReception ev byOpen h s).lp.watchdogPeriod = s.lp.watchdogPeriod ∧
    (closeReception ev byOpen h s).lp.watchdogRunning = s.lp.watchdogRunning ∧
    (closeReception ev byOpen h s).lp.unattended = s.lp.unattended ∧
    (closeReception ev byOpen h s).lp.linkLost = s.lp.linkLost ∧
    (closeReception ev byOpen h s).prx.contexts.length = s.prx.contexts.length ∧
    (closeReception ev byOpen h s).prx.timeout = s.prx.timeout ∧
    (closeReception ev byOpen h s).pdir.entries.length = s.pdir.entries.length ∧
    (closeReception ev byOpen h s).pdir.counter = s.pdir.counter ∧
    (closeReception ev byOpen h s).psc.storeMiB = s.psc.storeMiB ∧
    (closeReception ev byOpen h s).psc.poolSize = s.psc.poolSize ∧
    (closeReception ev byOpen h s).psc.refreshInterval = s.psc.refreshInterval ∧
    (closeReception ev byOpen h s).psc.refreshMerged = s.psc.refreshMerged ∧
    (closeReception ev byOpen h s).dram = s.dram ∧ (closeReception ev byOpen h s).sct = s.sct ∧
    (closeReception ev byOpen h s).ru = s.ru ∧ (closeReception ev byOpen h s).psch = s.psch ∧
    (closeReception ev byOpen h s).imp = s.imp ∧ (closeReception ev byOpen h s).hmon = s.hmon ∧
    (closeReception ev byOpen h s).drec = s.drec ∧ (closeReception ev byOpen h s).freeIndex = s.freeIndex ∧
    (closeReception ev byOpen h s).pending = s.pending := by
  unfold closeReception
  dsimp only
  (repeat' split) <;> simp

@[simp] theorem closeEntry_keeps (ev : PageEvent) (h : Nat) (s : State) :
    (closeEntry ev h s).part = s.part ∧ (closeEntry ev h s).resetHeld = s.resetHeld ∧
    (closeEntry ev h s).lp.framer = s.lp.framer ∧ (closeEntry ev h s).lp.cmdQueue = s.lp.cmdQueue ∧
    (closeEntry ev h s).lp.replyReserved = s.lp.replyReserved ∧
    (closeEntry ev h s).lp.replyFinished = s.lp.replyFinished ∧ (closeEntry ev h s).lp.tx = s.lp.tx ∧
    (closeEntry ev h s).lp.linkErrors = s.lp.linkErrors ∧ (closeEntry ev h s).lp.overrun = s.lp.overrun ∧
    (closeEntry ev h s).lp.watchdogPeriod = s.lp.watchdogPeriod ∧
    (closeEntry ev h s).lp.watchdogRunning = s.lp.watchdogRunning ∧
    (closeEntry ev h s).lp.unattended = s.lp.unattended ∧ (closeEntry ev h s).lp.linkLost = s.lp.linkLost ∧
    (closeEntry ev h s).prx.contexts.length = s.prx.contexts.length ∧
    (closeEntry ev h s).prx.timeout = s.prx.timeout ∧
    (closeEntry ev h s).pdir.entries.length = s.pdir.entries.length ∧
    (closeEntry ev h s).pdir.counter = s.pdir.counter ∧ (closeEntry ev h s).psc.storeMiB = s.psc.storeMiB ∧
    (closeEntry ev h s).psc.poolSize = s.psc.poolSize ∧
    (closeEntry ev h s).psc.refreshInterval = s.psc.refreshInterval ∧
    (closeEntry ev h s).psc.refreshMerged = s.psc.refreshMerged ∧ (closeEntry ev h s).dram = s.dram ∧
    (closeEntry ev h s).sct = s.sct ∧ (closeEntry ev h s).ru = s.ru ∧ (closeEntry ev h s).psch = s.psch ∧
    (closeEntry ev h s).imp = s.imp ∧ (closeEntry ev h s).hmon = s.hmon ∧ (closeEntry ev h s).drec = s.drec ∧
    (closeEntry ev h s).freeIndex = s.freeIndex ∧ (closeEntry ev h s).pending = s.pending := by
  unfold closeEntry
  (repeat' split) <;> simp

@[simp] theorem completeBand_keeps (i h b : Nat) (s : State) :
    (completeBand i h b s).part = s.part ∧ (completeBand i h b s).resetHeld = s.resetHeld ∧
    (completeBand i h b s).lp.framer = s.lp.framer ∧ (completeBand i h b s).lp.cmdQueue = s.lp.cmdQueue ∧
    (completeBand i h b s).lp.replyReserved = s.lp.replyReserved ∧
    (completeBand i h b s).lp.replyFinished = s.lp.replyFinished ∧ (completeBand i h b s).lp.tx = s.lp.tx ∧
    (completeBand i h b s).lp.linkErrors = s.lp.linkErrors ∧ (completeBand i h b s).lp.overrun = s.lp.overrun ∧
    (completeBand i h b s).lp.watchdogPeriod = s.lp.watchdogPeriod ∧
    (completeBand i h b s).lp.watchdogRunning = s.lp.watchdogRunning ∧
    (completeBand i h b s).lp.unattended = s.lp.unattended ∧
    (completeBand i h b s).lp.linkLost = s.lp.linkLost ∧
    (completeBand i h b s).prx.contexts.length = s.prx.contexts.length ∧
    (completeBand i h b s).prx.chunk = s.prx.chunk ∧ (completeBand i h b s).prx.timeout = s.prx.timeout ∧
    (completeBand i h b s).pdir.entries.length = s.pdir.entries.length ∧
    (completeBand i h b s).pdir.counter = s.pdir.counter ∧ (completeBand i h b s).psc = s.psc ∧
    (completeBand i h b s).dram = s.dram ∧ (completeBand i h b s).sct = s.sct ∧
    (completeBand i h b s).ru = s.ru ∧ (completeBand i h b s).psch = s.psch ∧
    (completeBand i h b s).imp = s.imp ∧ (completeBand i h b s).hmon = s.hmon ∧
    (completeBand i h b s).drec = s.drec ∧ (completeBand i h b s).freeIndex = s.freeIndex ∧
    (completeBand i h b s).pending = s.pending := by
  unfold completeBand
  dsimp only
  (repeat' split) <;> simp

@[simp] theorem drainChunk_keeps (c : Chunk) (s : State) :
    (drainChunk c s).part = s.part ∧ (drainChunk c s).resetHeld = s.resetHeld ∧
    (drainChunk c s).lp.framer = s.lp.framer ∧ (drainChunk c s).lp.cmdQueue = s.lp.cmdQueue ∧
    (drainChunk c s).lp.replyReserved = s.lp.replyReserved ∧
    (drainChunk c s).lp.replyFinished = s.lp.replyFinished ∧ (drainChunk c s).lp.tx = s.lp.tx ∧
    (drainChunk c s).lp.linkErrors = s.lp.linkErrors ∧ (drainChunk c s).lp.overrun = s.lp.overrun ∧
    (drainChunk c s).lp.watchdogPeriod = s.lp.watchdogPeriod ∧
    (drainChunk c s).lp.watchdogRunning = s.lp.watchdogRunning ∧
    (drainChunk c s).lp.unattended = s.lp.unattended ∧ (drainChunk c s).lp.linkLost = s.lp.linkLost ∧
    (drainChunk c s).prx.contexts.length = s.prx.contexts.length ∧
    (drainChunk c s).prx.timeout = s.prx.timeout ∧
    (drainChunk c s).pdir.entries.length = s.pdir.entries.length ∧
    (drainChunk c s).pdir.counter = s.pdir.counter ∧ (drainChunk c s).psc = s.psc ∧
    (drainChunk c s).dram = s.dram ∧ (drainChunk c s).sct = s.sct ∧ (drainChunk c s).ru = s.ru ∧
    (drainChunk c s).psch = s.psch ∧ (drainChunk c s).imp = s.imp ∧ (drainChunk c s).hmon = s.hmon ∧
    (drainChunk c s).drec = s.drec ∧ (drainChunk c s).freeIndex = s.freeIndex ∧
    (drainChunk c s).pending = s.pending := by
  unfold drainChunk
  dsimp only
  (repeat' split) <;> simp

@[simp] theorem prxBurstDone_keeps (stale : Bool) (s : State) :
    (prxBurstDone stale s).part = s.part ∧ (prxBurstDone stale s).resetHeld = s.resetHeld ∧
    (prxBurstDone stale s).lp.framer = s.lp.framer ∧ (prxBurstDone stale s).lp.cmdQueue = s.lp.cmdQueue ∧
    (prxBurstDone stale s).lp.replyReserved = s.lp.replyReserved ∧
    (prxBurstDone stale s).lp.replyFinished = s.lp.replyFinished ∧ (prxBurstDone stale s).lp.tx = s.lp.tx ∧
    (prxBurstDone stale s).lp.linkErrors = s.lp.linkErrors ∧ (prxBurstDone stale s).lp.overrun = s.lp.overrun ∧
    (prxBurstDone stale s).lp.watchdogPeriod = s.lp.watchdogPeriod ∧
    (prxBurstDone stale s).lp.watchdogRunning = s.lp.watchdogRunning ∧
    (prxBurstDone stale s).lp.unattended = s.lp.unattended ∧
    (prxBurstDone stale s).lp.linkLost = s.lp.linkLost ∧
    (prxBurstDone stale s).prx.contexts.length = s.prx.contexts.length ∧
    (prxBurstDone stale s).prx.timeout = s.prx.timeout ∧
    (prxBurstDone stale s).pdir.entries.length = s.pdir.entries.length ∧
    (prxBurstDone stale s).pdir.counter = s.pdir.counter ∧
    (prxBurstDone stale s).psc.storeMiB = s.psc.storeMiB ∧ (prxBurstDone stale s).psc.links = s.psc.links ∧
    (prxBurstDone stale s).psc.poolHead = s.psc.poolHead ∧
    (prxBurstDone stale s).psc.poolTail = s.psc.poolTail ∧
    (prxBurstDone stale s).psc.freeCount = s.psc.freeCount ∧
    (prxBurstDone stale s).psc.poolSize = s.psc.poolSize ∧
    (prxBurstDone stale s).psc.refreshInterval = s.psc.refreshInterval ∧
    (prxBurstDone stale s).psc.refreshMerged = s.psc.refreshMerged ∧ (prxBurstDone stale s).dram = s.dram ∧
    (prxBurstDone stale s).sct = s.sct ∧ (prxBurstDone stale s).ru = s.ru ∧
    (prxBurstDone stale s).psch = s.psch ∧ (prxBurstDone stale s).imp = s.imp ∧
    (prxBurstDone stale s).hmon = s.hmon ∧ (prxBurstDone stale s).drec = s.drec ∧
    (prxBurstDone stale s).freeIndex = s.freeIndex ∧ (prxBurstDone stale s).pending = s.pending := by
  unfold prxBurstDone
  (repeat' split) <;> simp

@[simp] theorem openRepair_keeps (i h b : Nat) (s : State) :
    (openRepair i h b s).part = s.part ∧ (openRepair i h b s).resetHeld = s.resetHeld ∧
    (openRepair i h b s).lp = s.lp ∧ (openRepair i h b s).prx.contexts.length = s.prx.contexts.length ∧
    (openRepair i h b s).prx.chunk = s.prx.chunk ∧ (openRepair i h b s).prx.timeout = s.prx.timeout ∧
    (openRepair i h b s).pdir.entries.length = s.pdir.entries.length ∧
    (openRepair i h b s).pdir.counter = s.pdir.counter ∧ (openRepair i h b s).psc.storeMiB = s.psc.storeMiB ∧
    (openRepair i h b s).psc.poolSize = s.psc.poolSize ∧ (openRepair i h b s).psc.inFlight = s.psc.inFlight ∧
    (openRepair i h b s).psc.waiting = s.psc.waiting ∧
    (openRepair i h b s).psc.refreshInterval = s.psc.refreshInterval ∧
    (openRepair i h b s).psc.refreshMerged = s.psc.refreshMerged ∧ (openRepair i h b s).dram = s.dram ∧
    (openRepair i h b s).sct = s.sct ∧ (openRepair i h b s).ru = s.ru ∧ (openRepair i h b s).psch = s.psch ∧
    (openRepair i h b s).imp = s.imp ∧ (openRepair i h b s).hmon = s.hmon ∧ (openRepair i h b s).drec = s.drec ∧
    (openRepair i h b s).freeIndex = s.freeIndex ∧ (openRepair i h b s).pending = s.pending := by
  unfold openRepair
  (repeat' split) <;> simp

@[simp] theorem startTimer_keeps (i : Nat) (s : State) :
    (startTimer i s).part = s.part ∧ (startTimer i s).resetHeld = s.resetHeld ∧ (startTimer i s).lp = s.lp ∧
    (startTimer i s).prx.contexts.length = s.prx.contexts.length ∧ (startTimer i s).prx.chunk = s.prx.chunk ∧
    (startTimer i s).prx.timeout = s.prx.timeout ∧ (startTimer i s).pdir = s.pdir ∧
    (startTimer i s).psc = s.psc ∧ (startTimer i s).dram = s.dram ∧ (startTimer i s).sct = s.sct ∧
    (startTimer i s).ru = s.ru ∧ (startTimer i s).psch = s.psch ∧ (startTimer i s).imp = s.imp ∧
    (startTimer i s).hmon = s.hmon ∧ (startTimer i s).drec = s.drec ∧ (startTimer i s).freeIndex = s.freeIndex ∧
    (startTimer i s).pending = s.pending := by
  unfold startTimer
  (repeat' split) <;> simp

@[simp] theorem markStore_keeps (h : Nat) (s : State) :
    (markStore h s).part = s.part ∧ (markStore h s).resetHeld = s.resetHeld ∧
    (markStore h s).lp.framer = s.lp.framer ∧ (markStore h s).lp.cmdQueue = s.lp.cmdQueue ∧
    (markStore h s).lp.replyReserved = s.lp.replyReserved ∧
    (markStore h s).lp.replyFinished = s.lp.replyFinished ∧ (markStore h s).lp.tx = s.lp.tx ∧
    (markStore h s).lp.linkErrors = s.lp.linkErrors ∧ (markStore h s).lp.overrun = s.lp.overrun ∧
    (markStore h s).lp.watchdogPeriod = s.lp.watchdogPeriod ∧
    (markStore h s).lp.watchdogRunning = s.lp.watchdogRunning ∧
    (markStore h s).lp.unattended = s.lp.unattended ∧ (markStore h s).lp.linkLost = s.lp.linkLost ∧
    (markStore h s).prx = s.prx ∧ (markStore h s).pdir.entries.length = s.pdir.entries.length ∧
    (markStore h s).pdir.counter = s.pdir.counter ∧ (markStore h s).psc = s.psc ∧
    (markStore h s).dram = s.dram ∧ (markStore h s).sct = s.sct ∧ (markStore h s).ru = s.ru ∧
    (markStore h s).psch = s.psch ∧ (markStore h s).imp = s.imp ∧ (markStore h s).hmon = s.hmon ∧
    (markStore h s).drec = s.drec ∧ (markStore h s).freeIndex = s.freeIndex ∧
    (markStore h s).pending = s.pending := by
  unfold markStore
  dsimp only
  (repeat' split) <;> simp

@[simp] theorem damageEntry_keeps (s : State) (h : Nat) :
    (damageEntry s h).part = s.part ∧ (damageEntry s h).resetHeld = s.resetHeld ∧
    (damageEntry s h).lp.framer = s.lp.framer ∧ (damageEntry s h).lp.cmdQueue = s.lp.cmdQueue ∧
    (damageEntry s h).lp.replyReserved = s.lp.replyReserved ∧
    (damageEntry s h).lp.replyFinished = s.lp.replyFinished ∧ (damageEntry s h).lp.tx = s.lp.tx ∧
    (damageEntry s h).lp.linkErrors = s.lp.linkErrors ∧ (damageEntry s h).lp.overrun = s.lp.overrun ∧
    (damageEntry s h).lp.watchdogPeriod = s.lp.watchdogPeriod ∧
    (damageEntry s h).lp.watchdogRunning = s.lp.watchdogRunning ∧
    (damageEntry s h).lp.unattended = s.lp.unattended ∧ (damageEntry s h).lp.linkLost = s.lp.linkLost ∧
    (damageEntry s h).prx = s.prx ∧ (damageEntry s h).pdir.entries.length = s.pdir.entries.length ∧
    (damageEntry s h).pdir.counter = s.pdir.counter ∧ (damageEntry s h).psc = s.psc ∧
    (damageEntry s h).dram = s.dram ∧ (damageEntry s h).sct = s.sct ∧ (damageEntry s h).ru = s.ru ∧
    (damageEntry s h).psch = s.psch ∧ (damageEntry s h).imp = s.imp ∧ (damageEntry s h).hmon = s.hmon ∧
    (damageEntry s h).drec = s.drec ∧ (damageEntry s h).freeIndex = s.freeIndex ∧
    (damageEntry s h).pending = s.pending := by
  unfold damageEntry
  (repeat' split) <;> simp

@[simp] theorem damageStore_keeps (s : State) :
    (damageStore s).part = s.part ∧ (damageStore s).resetHeld = s.resetHeld ∧
    (damageStore s).lp.framer = s.lp.framer ∧ (damageStore s).lp.cmdQueue = s.lp.cmdQueue ∧
    (damageStore s).lp.replyReserved = s.lp.replyReserved ∧
    (damageStore s).lp.replyFinished = s.lp.replyFinished ∧ (damageStore s).lp.tx = s.lp.tx ∧
    (damageStore s).lp.linkErrors = s.lp.linkErrors ∧ (damageStore s).lp.overrun = s.lp.overrun ∧
    (damageStore s).lp.watchdogPeriod = s.lp.watchdogPeriod ∧
    (damageStore s).lp.watchdogRunning = s.lp.watchdogRunning ∧
    (damageStore s).lp.unattended = s.lp.unattended ∧ (damageStore s).lp.linkLost = s.lp.linkLost ∧
    (damageStore s).prx = s.prx ∧ (damageStore s).pdir.entries.length = s.pdir.entries.length ∧
    (damageStore s).pdir.counter = s.pdir.counter ∧ (damageStore s).psc = s.psc ∧
    (damageStore s).dram = s.dram ∧ (damageStore s).sct = s.sct ∧ (damageStore s).ru = s.ru ∧
    (damageStore s).psch = s.psch ∧ (damageStore s).imp = s.imp ∧ (damageStore s).hmon = s.hmon ∧
    (damageStore s).drec = s.drec ∧ (damageStore s).freeIndex = s.freeIndex ∧
    (damageStore s).pending = s.pending := by
  unfold damageStore
  exact ⟨foldl_keeps (fun x : State => x.part) _ (by intros; simp) _ _,
    foldl_keeps (fun x : State => x.resetHeld) _ (by intros; simp) _ _,
    foldl_keeps (fun x : State => x.lp.framer) _ (by intros; simp) _ _,
    foldl_keeps (fun x : State => x.lp.cmdQueue) _ (by intros; simp) _ _,
    foldl_keeps (fun x : State => x.lp.replyReserved) _ (by intros; simp) _ _,
    foldl_keeps (fun x : State => x.lp.replyFinished) _ (by intros; simp) _ _,
    foldl_keeps (fun x : State => x.lp.tx) _ (by intros; simp) _ _,
    foldl_keeps (fun x : State => x.lp.linkErrors) _ (by intros; simp) _ _,
    foldl_keeps (fun x : State => x.lp.overrun) _ (by intros; simp) _ _,
    foldl_keeps (fun x : State => x.lp.watchdogPeriod) _ (by intros; simp) _ _,
    foldl_keeps (fun x : State => x.lp.watchdogRunning) _ (by intros; simp) _ _,
    foldl_keeps (fun x : State => x.lp.unattended) _ (by intros; simp) _ _,
    foldl_keeps (fun x : State => x.lp.linkLost) _ (by intros; simp) _ _,
    foldl_keeps (fun x : State => x.prx) _ (by intros; simp) _ _,
    foldl_keeps (fun x : State => x.pdir.entries.length) _ (by intros; simp) _ _,
    foldl_keeps (fun x : State => x.pdir.counter) _ (by intros; simp) _ _,
    foldl_keeps (fun x : State => x.psc) _ (by intros; simp) _ _,
    foldl_keeps (fun x : State => x.dram) _ (by intros; simp) _ _,
    foldl_keeps (fun x : State => x.sct) _ (by intros; simp) _ _,
    foldl_keeps (fun x : State => x.ru) _ (by intros; simp) _ _,
    foldl_keeps (fun x : State => x.psch) _ (by intros; simp) _ _,
    foldl_keeps (fun x : State => x.imp) _ (by intros; simp) _ _,
    foldl_keeps (fun x : State => x.hmon) _ (by intros; simp) _ _,
    foldl_keeps (fun x : State => x.drec) _ (by intros; simp) _ _,
    foldl_keeps (fun x : State => x.freeIndex) _ (by intros; simp) _ _,
    foldl_keeps (fun x : State => x.pending) _ (by intros; simp) _ _⟩

@[simp] theorem bindEntry_keeps (s : State) (h : Nat) :
    (bindEntry s h).part = s.part ∧ (bindEntry s h).resetHeld = s.resetHeld ∧
    (bindEntry s h).lp.framer = s.lp.framer ∧ (bindEntry s h).lp.cmdQueue = s.lp.cmdQueue ∧
    (bindEntry s h).lp.replyReserved = s.lp.replyReserved ∧
    (bindEntry s h).lp.replyFinished = s.lp.replyFinished ∧ (bindEntry s h).lp.tx = s.lp.tx ∧
    (bindEntry s h).lp.linkErrors = s.lp.linkErrors ∧ (bindEntry s h).lp.overrun = s.lp.overrun ∧
    (bindEntry s h).lp.watchdogPeriod = s.lp.watchdogPeriod ∧
    (bindEntry s h).lp.watchdogRunning = s.lp.watchdogRunning ∧
    (bindEntry s h).lp.unattended = s.lp.unattended ∧ (bindEntry s h).lp.linkLost = s.lp.linkLost ∧
    (bindEntry s h).prx.contexts.length = s.prx.contexts.length ∧ (bindEntry s h).prx.timeout = s.prx.timeout ∧
    (bindEntry s h).pdir.entries.length = s.pdir.entries.length ∧
    (bindEntry s h).pdir.counter = s.pdir.counter ∧ (bindEntry s h).psc.storeMiB = s.psc.storeMiB ∧
    (bindEntry s h).psc.poolSize = s.psc.poolSize ∧
    (bindEntry s h).psc.refreshInterval = s.psc.refreshInterval ∧
    (bindEntry s h).psc.refreshMerged = s.psc.refreshMerged ∧ (bindEntry s h).dram = s.dram ∧
    (bindEntry s h).sct = s.sct ∧ (bindEntry s h).ru = s.ru ∧ (bindEntry s h).psch = s.psch ∧
    (bindEntry s h).imp = s.imp ∧ (bindEntry s h).hmon = s.hmon ∧ (bindEntry s h).drec = s.drec ∧
    (bindEntry s h).freeIndex = s.freeIndex ∧ (bindEntry s h).pending = s.pending := by
  unfold bindEntry
  (repeat' split) <;> simp

@[simp] theorem unbindEntry_keeps (s : State) (h : Nat) :
    (unbindEntry s h).part = s.part ∧ (unbindEntry s h).resetHeld = s.resetHeld ∧
    (unbindEntry s h).lp.framer = s.lp.framer ∧ (unbindEntry s h).lp.cmdQueue = s.lp.cmdQueue ∧
    (unbindEntry s h).lp.replyReserved = s.lp.replyReserved ∧
    (unbindEntry s h).lp.replyFinished = s.lp.replyFinished ∧ (unbindEntry s h).lp.tx = s.lp.tx ∧
    (unbindEntry s h).lp.linkErrors = s.lp.linkErrors ∧ (unbindEntry s h).lp.overrun = s.lp.overrun ∧
    (unbindEntry s h).lp.watchdogPeriod = s.lp.watchdogPeriod ∧
    (unbindEntry s h).lp.watchdogRunning = s.lp.watchdogRunning ∧
    (unbindEntry s h).lp.unattended = s.lp.unattended ∧ (unbindEntry s h).lp.linkLost = s.lp.linkLost ∧
    (unbindEntry s h).prx.contexts.length = s.prx.contexts.length ∧
    (unbindEntry s h).prx.timeout = s.prx.timeout ∧
    (unbindEntry s h).pdir.entries.length = s.pdir.entries.length ∧
    (unbindEntry s h).pdir.counter = s.pdir.counter ∧ (unbindEntry s h).psc.storeMiB = s.psc.storeMiB ∧
    (unbindEntry s h).psc.poolSize = s.psc.poolSize ∧
    (unbindEntry s h).psc.refreshInterval = s.psc.refreshInterval ∧
    (unbindEntry s h).psc.refreshMerged = s.psc.refreshMerged ∧ (unbindEntry s h).dram = s.dram ∧
    (unbindEntry s h).sct = s.sct ∧ (unbindEntry s h).ru = s.ru ∧ (unbindEntry s h).psch = s.psch ∧
    (unbindEntry s h).imp = s.imp ∧ (unbindEntry s h).hmon = s.hmon ∧ (unbindEntry s h).drec = s.drec ∧
    (unbindEntry s h).freeIndex = s.freeIndex ∧ (unbindEntry s h).pending = s.pending := by
  unfold unbindEntry
  dsimp only
  (repeat' split) <;> simp

@[simp] theorem tilePump_keeps (s : State) :
    (tilePump s).part = s.part ∧ (tilePump s).resetHeld = s.resetHeld ∧ (tilePump s).lp = s.lp ∧
    (tilePump s).prx = s.prx ∧ (tilePump s).pdir = s.pdir ∧ (tilePump s).psc.storeMiB = s.psc.storeMiB ∧
    (tilePump s).psc.links = s.psc.links ∧ (tilePump s).psc.poolHead = s.psc.poolHead ∧
    (tilePump s).psc.poolTail = s.psc.poolTail ∧ (tilePump s).psc.freeCount = s.psc.freeCount ∧
    (tilePump s).psc.poolSize = s.psc.poolSize ∧ (tilePump s).psc.refreshInterval = s.psc.refreshInterval ∧
    (tilePump s).psc.refreshMerged = s.psc.refreshMerged ∧ (tilePump s).dram = s.dram ∧
    (tilePump s).sct.sets = s.sct.sets ∧ (tilePump s).sct.cache = s.sct.cache ∧
    (tilePump s).sct.tag = s.sct.tag ∧ (tilePump s).sct.fill = s.sct.fill ∧ (tilePump s).ru = s.ru ∧
    (tilePump s).psch = s.psch ∧ (tilePump s).imp = s.imp ∧ (tilePump s).hmon = s.hmon ∧
    (tilePump s).drec = s.drec ∧ (tilePump s).freeIndex = s.freeIndex ∧ (tilePump s).pending = s.pending := by
  unfold tilePump
  (repeat' split) <;> simp

@[simp] theorem tileBurstDone_keeps (s : State) :
    (tileBurstDone s).part = s.part ∧ (tileBurstDone s).resetHeld = s.resetHeld ∧ (tileBurstDone s).lp = s.lp ∧
    (tileBurstDone s).prx = s.prx ∧ (tileBurstDone s).pdir = s.pdir ∧
    (tileBurstDone s).psc.storeMiB = s.psc.storeMiB ∧ (tileBurstDone s).psc.links = s.psc.links ∧
    (tileBurstDone s).psc.poolHead = s.psc.poolHead ∧ (tileBurstDone s).psc.poolTail = s.psc.poolTail ∧
    (tileBurstDone s).psc.freeCount = s.psc.freeCount ∧ (tileBurstDone s).psc.poolSize = s.psc.poolSize ∧
    (tileBurstDone s).psc.refreshInterval = s.psc.refreshInterval ∧
    (tileBurstDone s).psc.refreshMerged = s.psc.refreshMerged ∧ (tileBurstDone s).dram = s.dram ∧
    (tileBurstDone s).sct.sets = s.sct.sets ∧ (tileBurstDone s).sct.cache = s.sct.cache ∧
    (tileBurstDone s).sct.tag = s.sct.tag ∧ (tileBurstDone s).sct.fill = s.sct.fill ∧
    (tileBurstDone s).ru = s.ru ∧ (tileBurstDone s).psch = s.psch ∧ (tileBurstDone s).imp = s.imp ∧
    (tileBurstDone s).hmon = s.hmon ∧ (tileBurstDone s).drec = s.drec ∧
    (tileBurstDone s).freeIndex = s.freeIndex ∧ (tileBurstDone s).pending = s.pending := by
  unfold tileBurstDone
  (repeat' split) <;> simp

@[simp] theorem fillPump_keeps (s : State) :
    (fillPump s).part = s.part ∧ (fillPump s).resetHeld = s.resetHeld ∧ (fillPump s).lp = s.lp ∧
    (fillPump s).prx = s.prx ∧ (fillPump s).pdir = s.pdir ∧ (fillPump s).psc.storeMiB = s.psc.storeMiB ∧
    (fillPump s).psc.links = s.psc.links ∧ (fillPump s).psc.poolHead = s.psc.poolHead ∧
    (fillPump s).psc.poolTail = s.psc.poolTail ∧ (fillPump s).psc.freeCount = s.psc.freeCount ∧
    (fillPump s).psc.poolSize = s.psc.poolSize ∧ (fillPump s).psc.refreshInterval = s.psc.refreshInterval ∧
    (fillPump s).psc.refreshMerged = s.psc.refreshMerged ∧ (fillPump s).dram = s.dram ∧
    (fillPump s).sct = s.sct ∧ (fillPump s).ru = s.ru ∧ (fillPump s).psch = s.psch ∧ (fillPump s).imp = s.imp ∧
    (fillPump s).hmon = s.hmon ∧ (fillPump s).drec = s.drec ∧ (fillPump s).freeIndex = s.freeIndex ∧
    (fillPump s).pending = s.pending := by
  unfold fillPump
  (repeat' split) <;> simp

@[simp] theorem beginFill_keeps (t g : Nat) (s : State) :
    (beginFill t g s).part = s.part ∧ (beginFill t g s).resetHeld = s.resetHeld ∧ (beginFill t g s).lp = s.lp ∧
    (beginFill t g s).prx = s.prx ∧ (beginFill t g s).pdir = s.pdir ∧
    (beginFill t g s).psc.storeMiB = s.psc.storeMiB ∧ (beginFill t g s).psc.links = s.psc.links ∧
    (beginFill t g s).psc.poolHead = s.psc.poolHead ∧ (beginFill t g s).psc.poolTail = s.psc.poolTail ∧
    (beginFill t g s).psc.freeCount = s.psc.freeCount ∧ (beginFill t g s).psc.poolSize = s.psc.poolSize ∧
    (beginFill t g s).psc.refreshInterval = s.psc.refreshInterval ∧
    (beginFill t g s).psc.refreshMerged = s.psc.refreshMerged ∧ (beginFill t g s).dram = s.dram ∧
    (beginFill t g s).sct.sets = s.sct.sets ∧ (beginFill t g s).sct.cache = s.sct.cache ∧
    (beginFill t g s).sct.tileBuf = s.sct.tileBuf ∧ (beginFill t g s).ru = s.ru ∧
    (beginFill t g s).psch = s.psch ∧ (beginFill t g s).imp = s.imp ∧ (beginFill t g s).hmon = s.hmon ∧
    (beginFill t g s).drec = s.drec ∧ (beginFill t g s).freeIndex = s.freeIndex ∧
    (beginFill t g s).pending = s.pending := by
  simp [beginFill]

@[simp] theorem takeFill_keeps (f : Fill) (bs : List Byte) (s : State) :
    (takeFill f bs s).part = s.part ∧ (takeFill f bs s).resetHeld = s.resetHeld ∧ (takeFill f bs s).lp = s.lp ∧
    (takeFill f bs s).prx = s.prx ∧ (takeFill f bs s).pdir = s.pdir ∧ (takeFill f bs s).psc = s.psc ∧
    (takeFill f bs s).dram = s.dram ∧ (takeFill f bs s).sct.sets = s.sct.sets ∧
    (takeFill f bs s).sct.tag = s.sct.tag ∧ (takeFill f bs s).sct.tileBuf = s.sct.tileBuf ∧
    (takeFill f bs s).ru = s.ru ∧ (takeFill f bs s).psch = s.psch ∧ (takeFill f bs s).imp = s.imp ∧
    (takeFill f bs s).hmon = s.hmon ∧ (takeFill f bs s).drec = s.drec ∧
    (takeFill f bs s).freeIndex = s.freeIndex ∧ (takeFill f bs s).pending = s.pending := by
  simp [takeFill]

@[simp] theorem dropFill_keeps (s : State) :
    (dropFill s).part = s.part ∧ (dropFill s).resetHeld = s.resetHeld ∧ (dropFill s).lp = s.lp ∧
    (dropFill s).prx = s.prx ∧ (dropFill s).pdir = s.pdir ∧ (dropFill s).psc.storeMiB = s.psc.storeMiB ∧
    (dropFill s).psc.links = s.psc.links ∧ (dropFill s).psc.poolHead = s.psc.poolHead ∧
    (dropFill s).psc.poolTail = s.psc.poolTail ∧ (dropFill s).psc.freeCount = s.psc.freeCount ∧
    (dropFill s).psc.poolSize = s.psc.poolSize ∧ (dropFill s).psc.refreshInterval = s.psc.refreshInterval ∧
    (dropFill s).psc.refreshMerged = s.psc.refreshMerged ∧ (dropFill s).dram = s.dram ∧
    (dropFill s).sct.sets = s.sct.sets ∧ (dropFill s).sct.cache = s.sct.cache ∧
    (dropFill s).sct.tag = s.sct.tag ∧ (dropFill s).sct.tileBuf = s.sct.tileBuf ∧ (dropFill s).ru = s.ru ∧
    (dropFill s).psch = s.psch ∧ (dropFill s).imp = s.imp ∧ (dropFill s).hmon = s.hmon ∧
    (dropFill s).drec = s.drec ∧ (dropFill s).freeIndex = s.freeIndex ∧ (dropFill s).pending = s.pending := by
  unfold dropFill
  (repeat' split) <;> simp

@[simp] theorem ruPump_keeps (s : State) :
    (ruPump s).part = s.part ∧ (ruPump s).resetHeld = s.resetHeld ∧ (ruPump s).lp = s.lp ∧
    (ruPump s).prx = s.prx ∧ (ruPump s).pdir = s.pdir ∧ (ruPump s).psc.storeMiB = s.psc.storeMiB ∧
    (ruPump s).psc.links = s.psc.links ∧ (ruPump s).psc.poolHead = s.psc.poolHead ∧
    (ruPump s).psc.poolTail = s.psc.poolTail ∧ (ruPump s).psc.freeCount = s.psc.freeCount ∧
    (ruPump s).psc.poolSize = s.psc.poolSize ∧ (ruPump s).psc.refreshInterval = s.psc.refreshInterval ∧
    (ruPump s).psc.refreshMerged = s.psc.refreshMerged ∧ (ruPump s).dram = s.dram ∧ (ruPump s).sct = s.sct ∧
    (ruPump s).ru = s.ru ∧ (ruPump s).psch = s.psch ∧ (ruPump s).imp = s.imp ∧ (ruPump s).hmon = s.hmon ∧
    (ruPump s).drec = s.drec ∧ (ruPump s).freeIndex = s.freeIndex ∧ (ruPump s).pending = s.pending := by
  unfold ruPump
  (repeat' split) <;> simp

@[simp] theorem ruPlace_keeps (top : Nat) (l : List RuSlot) (s : State) :
    (ruPlace top l s).part = s.part ∧ (ruPlace top l s).resetHeld = s.resetHeld ∧ (ruPlace top l s).lp = s.lp ∧
    (ruPlace top l s).prx = s.prx ∧ (ruPlace top l s).pdir = s.pdir ∧
    (ruPlace top l s).psc.storeMiB = s.psc.storeMiB ∧ (ruPlace top l s).psc.links = s.psc.links ∧
    (ruPlace top l s).psc.poolHead = s.psc.poolHead ∧ (ruPlace top l s).psc.poolTail = s.psc.poolTail ∧
    (ruPlace top l s).psc.freeCount = s.psc.freeCount ∧ (ruPlace top l s).psc.poolSize = s.psc.poolSize ∧
    (ruPlace top l s).psc.refreshInterval = s.psc.refreshInterval ∧
    (ruPlace top l s).psc.refreshMerged = s.psc.refreshMerged ∧ (ruPlace top l s).dram = s.dram ∧
    (ruPlace top l s).sct = s.sct ∧ (ruPlace top l s).ru.phase = s.ru.phase ∧
    (ruPlace top l s).ru.job = s.ru.job ∧ (ruPlace top l s).ru.cursor = s.ru.cursor ∧
    (ruPlace top l s).ru.claimed = s.ru.claimed ∧ (ruPlace top l s).ru.lineArt = s.ru.lineArt ∧
    (ruPlace top l s).ru.screen = s.ru.screen ∧ (ruPlace top l s).psch = s.psch ∧
    (ruPlace top l s).imp = s.imp ∧ (ruPlace top l s).hmon = s.hmon ∧
    (ruPlace top l s).drec.plateOpen = s.drec.plateOpen ∧
    (ruPlace top l s).drec.sweepHeight = s.drec.sweepHeight ∧
    (ruPlace top l s).drec.geometry = s.drec.geometry ∧ (ruPlace top l s).drec.mark = s.drec.mark ∧
    (ruPlace top l s).drec.reject = s.drec.reject ∧ (ruPlace top l s).freeIndex = s.freeIndex ∧
    (ruPlace top l s).pending = s.pending := by
  induction l generalizing s with
  | nil => simp [ruPlace]
  | cons a r ih => unfold ruPlace; (repeat' split) <;> simp [ih]

@[simp] theorem ruLook_keeps (s : State) :
    (ruLook s).part = s.part ∧ (ruLook s).resetHeld = s.resetHeld ∧ (ruLook s).lp = s.lp ∧
    (ruLook s).prx = s.prx ∧ (ruLook s).pdir = s.pdir ∧ (ruLook s).psc.storeMiB = s.psc.storeMiB ∧
    (ruLook s).psc.links = s.psc.links ∧ (ruLook s).psc.poolHead = s.psc.poolHead ∧
    (ruLook s).psc.poolTail = s.psc.poolTail ∧ (ruLook s).psc.freeCount = s.psc.freeCount ∧
    (ruLook s).psc.poolSize = s.psc.poolSize ∧ (ruLook s).psc.refreshInterval = s.psc.refreshInterval ∧
    (ruLook s).psc.refreshMerged = s.psc.refreshMerged ∧ (ruLook s).dram = s.dram ∧ (ruLook s).sct = s.sct ∧
    (ruLook s).ru.job = s.ru.job ∧ (ruLook s).ru.cursor = s.ru.cursor ∧ (ruLook s).psch = s.psch ∧
    (ruLook s).imp.nrev = s.imp.nrev ∧ (ruLook s).imp.lead = s.imp.lead ∧ (ruLook s).imp.swath = s.imp.swath ∧
    (ruLook s).imp.half = s.imp.half ∧ (ruLook s).imp.dwellLimit = s.imp.dwellLimit ∧
    (ruLook s).imp.watermark = s.imp.watermark ∧ (ruLook s).imp.ring.length = s.imp.ring.length ∧
    (ruLook s).imp.rev = s.imp.rev ∧ (ruLook s).imp.prev = s.imp.prev ∧ (ruLook s).imp.closing = s.imp.closing ∧
    (ruLook s).imp.exposed = s.imp.exposed ∧ (ruLook s).imp.firstExpose = s.imp.firstExpose ∧
    (ruLook s).imp.dwellCount = s.imp.dwellCount ∧ (ruLook s).imp.steps = s.imp.steps ∧
    (ruLook s).imp.cancelPending = s.imp.cancelPending ∧ (ruLook s).imp.endDecided = s.imp.endDecided ∧
    (ruLook s).imp.fifo = s.imp.fifo ∧ (ruLook s).imp.nextFetch = s.imp.nextFetch ∧
    (ruLook s).imp.nextSend = s.imp.nextSend ∧ (ruLook s).imp.refill = s.imp.refill ∧
    (ruLook s).imp.underrun = s.imp.underrun ∧ (ruLook s).imp.recordTaken = s.imp.recordTaken ∧
    (ruLook s).imp.headWord = s.imp.headWord ∧ (ruLook s).hmon = s.hmon ∧
    (ruLook s).drec.plateOpen = s.drec.plateOpen ∧ (ruLook s).drec.sweepHeight = s.drec.sweepHeight ∧
    (ruLook s).drec.geometry = s.drec.geometry ∧ (ruLook s).drec.mark = s.drec.mark ∧
    (ruLook s).drec.reject = s.drec.reject ∧ (ruLook s).freeIndex = s.freeIndex ∧
    (ruLook s).pending = s.pending := by
  unfold ruLook
  dsimp only
  (repeat' split) <;> simp

@[simp] theorem ruFault_keeps (top : Nat) (c : DecodeContext) (s : State) :
    (ruFault top c s).part = s.part ∧ (ruFault top c s).resetHeld = s.resetHeld ∧ (ruFault top c s).lp = s.lp ∧
    (ruFault top c s).prx = s.prx ∧ (ruFault top c s).pdir = s.pdir ∧
    (ruFault top c s).psc.storeMiB = s.psc.storeMiB ∧ (ruFault top c s).psc.links = s.psc.links ∧
    (ruFault top c s).psc.poolHead = s.psc.poolHead ∧ (ruFault top c s).psc.poolTail = s.psc.poolTail ∧
    (ruFault top c s).psc.freeCount = s.psc.freeCount ∧ (ruFault top c s).psc.poolSize = s.psc.poolSize ∧
    (ruFault top c s).psc.refreshInterval = s.psc.refreshInterval ∧
    (ruFault top c s).psc.refreshMerged = s.psc.refreshMerged ∧ (ruFault top c s).dram = s.dram ∧
    (ruFault top c s).sct = s.sct ∧ (ruFault top c s).ru.phase = s.ru.phase ∧
    (ruFault top c s).ru.job = s.ru.job ∧ (ruFault top c s).ru.cursor = s.ru.cursor ∧
    (ruFault top c s).ru.claimed = s.ru.claimed ∧ (ruFault top c s).ru.screen = s.ru.screen ∧
    (ruFault top c s).psch = s.psch ∧ (ruFault top c s).imp = s.imp ∧ (ruFault top c s).hmon = s.hmon ∧
    (ruFault top c s).drec.plateOpen = s.drec.plateOpen ∧
    (ruFault top c s).drec.sweepHeight = s.drec.sweepHeight ∧
    (ruFault top c s).drec.geometry = s.drec.geometry ∧ (ruFault top c s).drec.mark = s.drec.mark ∧
    (ruFault top c s).drec.reject = s.drec.reject ∧ (ruFault top c s).freeIndex = s.freeIndex ∧
    (ruFault top c s).pending = s.pending := by
  unfold ruFault
  (repeat' split) <;> simp

@[simp] theorem ruReadDone_keeps (stale : Bool) (bs : List Byte) (s : State) :
    (ruReadDone stale bs s).part = s.part ∧ (ruReadDone stale bs s).resetHeld = s.resetHeld ∧
    (ruReadDone stale bs s).lp = s.lp ∧ (ruReadDone stale bs s).prx = s.prx ∧
    (ruReadDone stale bs s).pdir = s.pdir ∧ (ruReadDone stale bs s).psc.storeMiB = s.psc.storeMiB ∧
    (ruReadDone stale bs s).psc.links = s.psc.links ∧ (ruReadDone stale bs s).psc.poolHead = s.psc.poolHead ∧
    (ruReadDone stale bs s).psc.poolTail = s.psc.poolTail ∧
    (ruReadDone stale bs s).psc.freeCount = s.psc.freeCount ∧
    (ruReadDone stale bs s).psc.poolSize = s.psc.poolSize ∧
    (ruReadDone stale bs s).psc.refreshInterval = s.psc.refreshInterval ∧
    (ruReadDone stale bs s).psc.refreshMerged = s.psc.refreshMerged ∧ (ruReadDone stale bs s).dram = s.dram ∧
    (ruReadDone stale bs s).sct = s.sct ∧ (ruReadDone stale bs s).psch = s.psch ∧
    (ruReadDone stale bs s).imp = s.imp ∧ (ruReadDone stale bs s).hmon = s.hmon ∧
    (ruReadDone stale bs s).drec.plateOpen = s.drec.plateOpen ∧
    (ruReadDone stale bs s).drec.sweepHeight = s.drec.sweepHeight ∧
    (ruReadDone stale bs s).drec.geometry = s.drec.geometry ∧ (ruReadDone stale bs s).drec.mark = s.drec.mark ∧
    (ruReadDone stale bs s).drec.reject = s.drec.reject ∧ (ruReadDone stale bs s).freeIndex = s.freeIndex ∧
    (ruReadDone stale bs s).pending = s.pending := by
  unfold ruReadDone
  (repeat' split) <;> simp

@[simp] theorem ruWriteDone_keeps (stale : Bool) (s : State) :
    (ruWriteDone stale s).part = s.part ∧ (ruWriteDone stale s).resetHeld = s.resetHeld ∧
    (ruWriteDone stale s).lp = s.lp ∧ (ruWriteDone stale s).prx = s.prx ∧ (ruWriteDone stale s).pdir = s.pdir ∧
    (ruWriteDone stale s).psc.storeMiB = s.psc.storeMiB ∧ (ruWriteDone stale s).psc.links = s.psc.links ∧
    (ruWriteDone stale s).psc.poolHead = s.psc.poolHead ∧ (ruWriteDone stale s).psc.poolTail = s.psc.poolTail ∧
    (ruWriteDone stale s).psc.freeCount = s.psc.freeCount ∧
    (ruWriteDone stale s).psc.poolSize = s.psc.poolSize ∧
    (ruWriteDone stale s).psc.refreshInterval = s.psc.refreshInterval ∧
    (ruWriteDone stale s).psc.refreshMerged = s.psc.refreshMerged ∧ (ruWriteDone stale s).dram = s.dram ∧
    (ruWriteDone stale s).sct = s.sct ∧ (ruWriteDone stale s).ru.job = s.ru.job ∧
    (ruWriteDone stale s).psch = s.psch ∧ (ruWriteDone stale s).imp.nrev = s.imp.nrev ∧
    (ruWriteDone stale s).imp.lead = s.imp.lead ∧ (ruWriteDone stale s).imp.swath = s.imp.swath ∧
    (ruWriteDone stale s).imp.half = s.imp.half ∧ (ruWriteDone stale s).imp.dwellLimit = s.imp.dwellLimit ∧
    (ruWriteDone stale s).imp.watermark = s.imp.watermark ∧
    (ruWriteDone stale s).imp.ring.length = s.imp.ring.length ∧ (ruWriteDone stale s).imp.rev = s.imp.rev ∧
    (ruWriteDone stale s).imp.prev = s.imp.prev ∧ (ruWriteDone stale s).imp.closing = s.imp.closing ∧
    (ruWriteDone stale s).imp.exposed = s.imp.exposed ∧
    (ruWriteDone stale s).imp.firstExpose = s.imp.firstExpose ∧
    (ruWriteDone stale s).imp.dwellCount = s.imp.dwellCount ∧ (ruWriteDone stale s).imp.steps = s.imp.steps ∧
    (ruWriteDone stale s).imp.cancelPending = s.imp.cancelPending ∧
    (ruWriteDone stale s).imp.endDecided = s.imp.endDecided ∧ (ruWriteDone stale s).imp.fifo = s.imp.fifo ∧
    (ruWriteDone stale s).imp.nextFetch = s.imp.nextFetch ∧
    (ruWriteDone stale s).imp.nextSend = s.imp.nextSend ∧ (ruWriteDone stale s).imp.refill = s.imp.refill ∧
    (ruWriteDone stale s).imp.underrun = s.imp.underrun ∧
    (ruWriteDone stale s).imp.recordTaken = s.imp.recordTaken ∧
    (ruWriteDone stale s).imp.headWord = s.imp.headWord ∧ (ruWriteDone stale s).hmon = s.hmon ∧
    (ruWriteDone stale s).drec.plateOpen = s.drec.plateOpen ∧
    (ruWriteDone stale s).drec.sweepHeight = s.drec.sweepHeight ∧
    (ruWriteDone stale s).drec.geometry = s.drec.geometry ∧ (ruWriteDone stale s).drec.mark = s.drec.mark ∧
    (ruWriteDone stale s).drec.reject = s.drec.reject ∧ (ruWriteDone stale s).freeIndex = s.freeIndex ∧
    (ruWriteDone stale s).pending = s.pending := by
  unfold ruWriteDone
  (repeat' split) <;> simp

@[simp] theorem freeFilling_keeps (s : State) (k : Nat) :
    (freeFilling s k).part = s.part ∧ (freeFilling s k).resetHeld = s.resetHeld ∧ (freeFilling s k).lp = s.lp ∧
    (freeFilling s k).prx = s.prx ∧ (freeFilling s k).pdir = s.pdir ∧ (freeFilling s k).psc = s.psc ∧
    (freeFilling s k).dram = s.dram ∧ (freeFilling s k).sct = s.sct ∧ (freeFilling s k).ru = s.ru ∧
    (freeFilling s k).psch = s.psch ∧ (freeFilling s k).imp.nrev = s.imp.nrev ∧
    (freeFilling s k).imp.lead = s.imp.lead ∧ (freeFilling s k).imp.swath = s.imp.swath ∧
    (freeFilling s k).imp.half = s.imp.half ∧ (freeFilling s k).imp.dwellLimit = s.imp.dwellLimit ∧
    (freeFilling s k).imp.watermark = s.imp.watermark ∧ (freeFilling s k).imp.ring.length = s.imp.ring.length ∧
    (freeFilling s k).imp.rev = s.imp.rev ∧ (freeFilling s k).imp.prev = s.imp.prev ∧
    (freeFilling s k).imp.closing = s.imp.closing ∧ (freeFilling s k).imp.exposed = s.imp.exposed ∧
    (freeFilling s k).imp.firstExpose = s.imp.firstExpose ∧
    (freeFilling s k).imp.dwellCount = s.imp.dwellCount ∧ (freeFilling s k).imp.steps = s.imp.steps ∧
    (freeFilling s k).imp.cancelPending = s.imp.cancelPending ∧
    (freeFilling s k).imp.endDecided = s.imp.endDecided ∧ (freeFilling s k).imp.fifo = s.imp.fifo ∧
    (freeFilling s k).imp.nextFetch = s.imp.nextFetch ∧ (freeFilling s k).imp.nextSend = s.imp.nextSend ∧
    (freeFilling s k).imp.refill = s.imp.refill ∧ (freeFilling s k).imp.underrun = s.imp.underrun ∧
    (freeFilling s k).imp.recordTaken = s.imp.recordTaken ∧ (freeFilling s k).imp.headWord = s.imp.headWord ∧
    (freeFilling s k).hmon = s.hmon ∧ (freeFilling s k).drec = s.drec ∧
    (freeFilling s k).freeIndex = s.freeIndex ∧ (freeFilling s k).pending = s.pending := by
  unfold freeFilling
  (repeat' split) <;> simp

@[simp] theorem ruStop_keeps (s : State) :
    (ruStop s).part = s.part ∧ (ruStop s).resetHeld = s.resetHeld ∧ (ruStop s).lp = s.lp ∧
    (ruStop s).prx = s.prx ∧ (ruStop s).pdir = s.pdir ∧ (ruStop s).psc.storeMiB = s.psc.storeMiB ∧
    (ruStop s).psc.links = s.psc.links ∧ (ruStop s).psc.poolHead = s.psc.poolHead ∧
    (ruStop s).psc.poolTail = s.psc.poolTail ∧ (ruStop s).psc.freeCount = s.psc.freeCount ∧
    (ruStop s).psc.poolSize = s.psc.poolSize ∧ (ruStop s).psc.refreshInterval = s.psc.refreshInterval ∧
    (ruStop s).psc.refreshMerged = s.psc.refreshMerged ∧ (ruStop s).dram = s.dram ∧ (ruStop s).sct = s.sct ∧
    (ruStop s).ru.lineArt = s.ru.lineArt ∧ (ruStop s).ru.screen = s.ru.screen ∧
    (ruStop s).ru.windows = s.ru.windows ∧ (ruStop s).psch = s.psch ∧ (ruStop s).imp.nrev = s.imp.nrev ∧
    (ruStop s).imp.lead = s.imp.lead ∧ (ruStop s).imp.swath = s.imp.swath ∧ (ruStop s).imp.half = s.imp.half ∧
    (ruStop s).imp.dwellLimit = s.imp.dwellLimit ∧ (ruStop s).imp.watermark = s.imp.watermark ∧
    (ruStop s).imp.ring.length = s.imp.ring.length ∧ (ruStop s).imp.rev = s.imp.rev ∧
    (ruStop s).imp.prev = s.imp.prev ∧ (ruStop s).imp.closing = s.imp.closing ∧
    (ruStop s).imp.exposed = s.imp.exposed ∧ (ruStop s).imp.firstExpose = s.imp.firstExpose ∧
    (ruStop s).imp.dwellCount = s.imp.dwellCount ∧ (ruStop s).imp.steps = s.imp.steps ∧
    (ruStop s).imp.cancelPending = s.imp.cancelPending ∧ (ruStop s).imp.endDecided = s.imp.endDecided ∧
    (ruStop s).imp.fifo = s.imp.fifo ∧ (ruStop s).imp.nextFetch = s.imp.nextFetch ∧
    (ruStop s).imp.nextSend = s.imp.nextSend ∧ (ruStop s).imp.refill = s.imp.refill ∧
    (ruStop s).imp.underrun = s.imp.underrun ∧ (ruStop s).imp.recordTaken = s.imp.recordTaken ∧
    (ruStop s).imp.headWord = s.imp.headWord ∧ (ruStop s).hmon = s.hmon ∧ (ruStop s).drec = s.drec ∧
    (ruStop s).freeIndex = s.freeIndex ∧ (ruStop s).pending = s.pending := by
  unfold ruStop
  dsimp only
  (repeat' split) <;> simp

@[simp] theorem ruStart_keeps (j : RuJob) (s : State) :
    (ruStart j s).part = s.part ∧ (ruStart j s).resetHeld = s.resetHeld ∧ (ruStart j s).lp = s.lp ∧
    (ruStart j s).prx = s.prx ∧ (ruStart j s).pdir = s.pdir ∧ (ruStart j s).psc.storeMiB = s.psc.storeMiB ∧
    (ruStart j s).psc.links = s.psc.links ∧ (ruStart j s).psc.poolHead = s.psc.poolHead ∧
    (ruStart j s).psc.poolTail = s.psc.poolTail ∧ (ruStart j s).psc.freeCount = s.psc.freeCount ∧
    (ruStart j s).psc.poolSize = s.psc.poolSize ∧ (ruStart j s).psc.refreshInterval = s.psc.refreshInterval ∧
    (ruStart j s).psc.refreshMerged = s.psc.refreshMerged ∧ (ruStart j s).dram = s.dram ∧
    (ruStart j s).sct = s.sct ∧ (ruStart j s).psch = s.psch ∧ (ruStart j s).imp.nrev = s.imp.nrev ∧
    (ruStart j s).imp.lead = s.imp.lead ∧ (ruStart j s).imp.swath = s.imp.swath ∧
    (ruStart j s).imp.half = s.imp.half ∧ (ruStart j s).imp.dwellLimit = s.imp.dwellLimit ∧
    (ruStart j s).imp.watermark = s.imp.watermark ∧ (ruStart j s).imp.ring.length = s.imp.ring.length ∧
    (ruStart j s).imp.rev = s.imp.rev ∧ (ruStart j s).imp.prev = s.imp.prev ∧
    (ruStart j s).imp.closing = s.imp.closing ∧ (ruStart j s).imp.exposed = s.imp.exposed ∧
    (ruStart j s).imp.firstExpose = s.imp.firstExpose ∧ (ruStart j s).imp.dwellCount = s.imp.dwellCount ∧
    (ruStart j s).imp.steps = s.imp.steps ∧ (ruStart j s).imp.cancelPending = s.imp.cancelPending ∧
    (ruStart j s).imp.endDecided = s.imp.endDecided ∧ (ruStart j s).imp.fifo = s.imp.fifo ∧
    (ruStart j s).imp.nextFetch = s.imp.nextFetch ∧ (ruStart j s).imp.nextSend = s.imp.nextSend ∧
    (ruStart j s).imp.refill = s.imp.refill ∧ (ruStart j s).imp.underrun = s.imp.underrun ∧
    (ruStart j s).imp.recordTaken = s.imp.recordTaken ∧ (ruStart j s).imp.headWord = s.imp.headWord ∧
    (ruStart j s).hmon = s.hmon ∧ (ruStart j s).drec.plateOpen = s.drec.plateOpen ∧
    (ruStart j s).drec.sweepHeight = s.drec.sweepHeight ∧ (ruStart j s).drec.geometry = s.drec.geometry ∧
    (ruStart j s).drec.mark = s.drec.mark ∧ (ruStart j s).drec.reject = s.drec.reject ∧
    (ruStart j s).freeIndex = s.freeIndex ∧ (ruStart j s).pending = s.pending := by
  simp [ruStart]

@[simp] theorem impPump_keeps (s : State) :
    (impPump s).part = s.part ∧ (impPump s).resetHeld = s.resetHeld ∧ (impPump s).lp = s.lp ∧
    (impPump s).prx = s.prx ∧ (impPump s).pdir = s.pdir ∧ (impPump s).psc.storeMiB = s.psc.storeMiB ∧
    (impPump s).psc.links = s.psc.links ∧ (impPump s).psc.poolHead = s.psc.poolHead ∧
    (impPump s).psc.poolTail = s.psc.poolTail ∧ (impPump s).psc.freeCount = s.psc.freeCount ∧
    (impPump s).psc.poolSize = s.psc.poolSize ∧ (impPump s).psc.refreshInterval = s.psc.refreshInterval ∧
    (impPump s).psc.refreshMerged = s.psc.refreshMerged ∧ (impPump s).dram = s.dram ∧ (impPump s).sct = s.sct ∧
    (impPump s).ru = s.ru ∧ (impPump s).psch = s.psch ∧ (impPump s).imp.nrev = s.imp.nrev ∧
    (impPump s).imp.lead = s.imp.lead ∧ (impPump s).imp.swath = s.imp.swath ∧
    (impPump s).imp.half = s.imp.half ∧ (impPump s).imp.dwellLimit = s.imp.dwellLimit ∧
    (impPump s).imp.watermark = s.imp.watermark ∧ (impPump s).imp.ring = s.imp.ring ∧
    (impPump s).imp.rev = s.imp.rev ∧ (impPump s).imp.prev = s.imp.prev ∧
    (impPump s).imp.closing = s.imp.closing ∧ (impPump s).imp.exposed = s.imp.exposed ∧
    (impPump s).imp.firstExpose = s.imp.firstExpose ∧ (impPump s).imp.dwellCount = s.imp.dwellCount ∧
    (impPump s).imp.steps = s.imp.steps ∧ (impPump s).imp.cancelPending = s.imp.cancelPending ∧
    (impPump s).imp.endDecided = s.imp.endDecided ∧ (impPump s).imp.fifo = s.imp.fifo ∧
    (impPump s).imp.nextSend = s.imp.nextSend ∧ (impPump s).imp.underrun = s.imp.underrun ∧
    (impPump s).imp.recordTaken = s.imp.recordTaken ∧ (impPump s).imp.headWord = s.imp.headWord ∧
    (impPump s).hmon = s.hmon ∧ (impPump s).drec = s.drec ∧ (impPump s).freeIndex = s.freeIndex ∧
    (impPump s).pending = s.pending := by
  unfold impPump
  dsimp only
  (repeat' split) <;> simp

@[simp] theorem fetchDone_keeps (stale : Bool) (addr : Nat) (bs : List Byte) (s : State) :
    (fetchDone stale addr bs s).part = s.part ∧ (fetchDone stale addr bs s).resetHeld = s.resetHeld ∧
    (fetchDone stale addr bs s).lp = s.lp ∧ (fetchDone stale addr bs s).prx = s.prx ∧
    (fetchDone stale addr bs s).pdir = s.pdir ∧ (fetchDone stale addr bs s).psc.storeMiB = s.psc.storeMiB ∧
    (fetchDone stale addr bs s).psc.links = s.psc.links ∧
    (fetchDone stale addr bs s).psc.poolHead = s.psc.poolHead ∧
    (fetchDone stale addr bs s).psc.poolTail = s.psc.poolTail ∧
    (fetchDone stale addr bs s).psc.freeCount = s.psc.freeCount ∧
    (fetchDone stale addr bs s).psc.poolSize = s.psc.poolSize ∧
    (fetchDone stale addr bs s).psc.refreshInterval = s.psc.refreshInterval ∧
    (fetchDone stale addr bs s).psc.refreshMerged = s.psc.refreshMerged ∧
    (fetchDone stale addr bs s).dram = s.dram ∧ (fetchDone stale addr bs s).sct = s.sct ∧
    (fetchDone stale addr bs s).ru = s.ru ∧ (fetchDone stale addr bs s).psch = s.psch ∧
    (fetchDone stale addr bs s).imp.nrev = s.imp.nrev ∧ (fetchDone stale addr bs s).imp.lead = s.imp.lead ∧
    (fetchDone stale addr bs s).imp.swath = s.imp.swath ∧ (fetchDone stale addr bs s).imp.half = s.imp.half ∧
    (fetchDone stale addr bs s).imp.dwellLimit = s.imp.dwellLimit ∧
    (fetchDone stale addr bs s).imp.watermark = s.imp.watermark ∧
    (fetchDone stale addr bs s).imp.ring = s.imp.ring ∧ (fetchDone stale addr bs s).imp.rev = s.imp.rev ∧
    (fetchDone stale addr bs s).imp.prev = s.imp.prev ∧
    (fetchDone stale addr bs s).imp.closing = s.imp.closing ∧
    (fetchDone stale addr bs s).imp.exposed = s.imp.exposed ∧
    (fetchDone stale addr bs s).imp.firstExpose = s.imp.firstExpose ∧
    (fetchDone stale addr bs s).imp.dwellCount = s.imp.dwellCount ∧
    (fetchDone stale addr bs s).imp.steps = s.imp.steps ∧
    (fetchDone stale addr bs s).imp.cancelPending = s.imp.cancelPending ∧
    (fetchDone stale addr bs s).imp.endDecided = s.imp.endDecided ∧
    (fetchDone stale addr bs s).imp.nextSend = s.imp.nextSend ∧
    (fetchDone stale addr bs s).imp.underrun = s.imp.underrun ∧
    (fetchDone stale addr bs s).imp.recordTaken = s.imp.recordTaken ∧
    (fetchDone stale addr bs s).imp.headWord = s.imp.headWord ∧ (fetchDone stale addr bs s).hmon = s.hmon ∧
    (fetchDone stale addr bs s).drec = s.drec ∧ (fetchDone stale addr bs s).freeIndex = s.freeIndex ∧
    (fetchDone stale addr bs s).pending = s.pending := by
  unfold fetchDone
  (repeat' split) <;> simp

@[simp] theorem emptyFifo_keeps (s : State) :
    (emptyFifo s).part = s.part ∧ (emptyFifo s).resetHeld = s.resetHeld ∧ (emptyFifo s).lp = s.lp ∧
    (emptyFifo s).prx = s.prx ∧ (emptyFifo s).pdir = s.pdir ∧ (emptyFifo s).psc.storeMiB = s.psc.storeMiB ∧
    (emptyFifo s).psc.links = s.psc.links ∧ (emptyFifo s).psc.poolHead = s.psc.poolHead ∧
    (emptyFifo s).psc.poolTail = s.psc.poolTail ∧ (emptyFifo s).psc.freeCount = s.psc.freeCount ∧
    (emptyFifo s).psc.poolSize = s.psc.poolSize ∧ (emptyFifo s).psc.refreshInterval = s.psc.refreshInterval ∧
    (emptyFifo s).psc.refreshMerged = s.psc.refreshMerged ∧ (emptyFifo s).dram = s.dram ∧
    (emptyFifo s).sct = s.sct ∧ (emptyFifo s).ru = s.ru ∧ (emptyFifo s).psch = s.psch ∧
    (emptyFifo s).imp.nrev = s.imp.nrev ∧ (emptyFifo s).imp.lead = s.imp.lead ∧
    (emptyFifo s).imp.swath = s.imp.swath ∧ (emptyFifo s).imp.half = s.imp.half ∧
    (emptyFifo s).imp.dwellLimit = s.imp.dwellLimit ∧ (emptyFifo s).imp.watermark = s.imp.watermark ∧
    (emptyFifo s).imp.ring = s.imp.ring ∧ (emptyFifo s).imp.rev = s.imp.rev ∧
    (emptyFifo s).imp.prev = s.imp.prev ∧ (emptyFifo s).imp.closing = s.imp.closing ∧
    (emptyFifo s).imp.exposed = s.imp.exposed ∧ (emptyFifo s).imp.firstExpose = s.imp.firstExpose ∧
    (emptyFifo s).imp.dwellCount = s.imp.dwellCount ∧ (emptyFifo s).imp.steps = s.imp.steps ∧
    (emptyFifo s).imp.cancelPending = s.imp.cancelPending ∧ (emptyFifo s).imp.endDecided = s.imp.endDecided ∧
    (emptyFifo s).imp.nextFetch = s.imp.nextFetch ∧ (emptyFifo s).imp.nextSend = s.imp.nextSend ∧
    (emptyFifo s).imp.underrun = s.imp.underrun ∧ (emptyFifo s).imp.recordTaken = s.imp.recordTaken ∧
    (emptyFifo s).imp.headWord = s.imp.headWord ∧ (emptyFifo s).hmon = s.hmon ∧ (emptyFifo s).drec = s.drec ∧
    (emptyFifo s).freeIndex = s.freeIndex ∧ (emptyFifo s).pending = s.pending := by
  simp [emptyFifo]

@[simp] theorem sendRaster_keeps (x : Nat) (s : State) :
    (sendRaster x s).part = s.part ∧ (sendRaster x s).resetHeld = s.resetHeld ∧ (sendRaster x s).lp = s.lp ∧
    (sendRaster x s).prx = s.prx ∧ (sendRaster x s).pdir = s.pdir ∧
    (sendRaster x s).psc.storeMiB = s.psc.storeMiB ∧ (sendRaster x s).psc.links = s.psc.links ∧
    (sendRaster x s).psc.poolHead = s.psc.poolHead ∧ (sendRaster x s).psc.poolTail = s.psc.poolTail ∧
    (sendRaster x s).psc.freeCount = s.psc.freeCount ∧ (sendRaster x s).psc.poolSize = s.psc.poolSize ∧
    (sendRaster x s).psc.refreshInterval = s.psc.refreshInterval ∧
    (sendRaster x s).psc.refreshMerged = s.psc.refreshMerged ∧ (sendRaster x s).dram = s.dram ∧
    (sendRaster x s).sct = s.sct ∧ (sendRaster x s).ru = s.ru ∧ (sendRaster x s).psch = s.psch ∧
    (sendRaster x s).imp.nrev = s.imp.nrev ∧ (sendRaster x s).imp.lead = s.imp.lead ∧
    (sendRaster x s).imp.swath = s.imp.swath ∧ (sendRaster x s).imp.half = s.imp.half ∧
    (sendRaster x s).imp.dwellLimit = s.imp.dwellLimit ∧ (sendRaster x s).imp.watermark = s.imp.watermark ∧
    (sendRaster x s).imp.ring = s.imp.ring ∧ (sendRaster x s).imp.rev = s.imp.rev ∧
    (sendRaster x s).imp.prev = s.imp.prev ∧ (sendRaster x s).imp.closing = s.imp.closing ∧
    (sendRaster x s).imp.exposed = s.imp.exposed ∧ (sendRaster x s).imp.firstExpose = s.imp.firstExpose ∧
    (sendRaster x s).imp.dwellCount = s.imp.dwellCount ∧ (sendRaster x s).imp.steps = s.imp.steps ∧
    (sendRaster x s).imp.cancelPending = s.imp.cancelPending ∧
    (sendRaster x s).imp.endDecided = s.imp.endDecided ∧ (sendRaster x s).imp.recordTaken = s.imp.recordTaken ∧
    (sendRaster x s).hmon = s.hmon ∧ (sendRaster x s).drec = s.drec ∧ (sendRaster x s).freeIndex = s.freeIndex ∧
    (sendRaster x s).pending = s.pending := by
  unfold sendRaster
  (repeat' split) <;> simp

@[simp] theorem impSlot_keeps (s : State) :
    (impSlot s).part = s.part ∧ (impSlot s).resetHeld = s.resetHeld ∧ (impSlot s).lp = s.lp ∧
    (impSlot s).prx = s.prx ∧ (impSlot s).pdir = s.pdir ∧ (impSlot s).psc.storeMiB = s.psc.storeMiB ∧
    (impSlot s).psc.links = s.psc.links ∧ (impSlot s).psc.poolHead = s.psc.poolHead ∧
    (impSlot s).psc.poolTail = s.psc.poolTail ∧ (impSlot s).psc.freeCount = s.psc.freeCount ∧
    (impSlot s).psc.poolSize = s.psc.poolSize ∧ (impSlot s).psc.refreshInterval = s.psc.refreshInterval ∧
    (impSlot s).psc.refreshMerged = s.psc.refreshMerged ∧ (impSlot s).dram = s.dram ∧ (impSlot s).sct = s.sct ∧
    (impSlot s).ru = s.ru ∧ (impSlot s).psch = s.psch ∧ (impSlot s).imp.nrev = s.imp.nrev ∧
    (impSlot s).imp.lead = s.imp.lead ∧ (impSlot s).imp.swath = s.imp.swath ∧
    (impSlot s).imp.half = s.imp.half ∧ (impSlot s).imp.dwellLimit = s.imp.dwellLimit ∧
    (impSlot s).imp.watermark = s.imp.watermark ∧ (impSlot s).imp.ring = s.imp.ring ∧
    (impSlot s).imp.prev = s.imp.prev ∧ (impSlot s).imp.closing = s.imp.closing ∧
    (impSlot s).imp.exposed = s.imp.exposed ∧ (impSlot s).imp.firstExpose = s.imp.firstExpose ∧
    (impSlot s).imp.dwellCount = s.imp.dwellCount ∧ (impSlot s).imp.steps = s.imp.steps ∧
    (impSlot s).imp.cancelPending = s.imp.cancelPending ∧ (impSlot s).imp.endDecided = s.imp.endDecided ∧
    (impSlot s).imp.recordTaken = s.imp.recordTaken ∧ (impSlot s).hmon = s.hmon ∧ (impSlot s).drec = s.drec ∧
    (impSlot s).freeIndex = s.freeIndex ∧ (impSlot s).pending = s.pending := by
  unfold impSlot
  dsimp only
  (repeat' split) <;> simp

@[simp] theorem leavePlate_keeps (cut : Bool) (s : State) :
    (leavePlate cut s).part = s.part ∧ (leavePlate cut s).resetHeld = s.resetHeld ∧ (leavePlate cut s).lp = s.lp ∧
    (leavePlate cut s).prx = s.prx ∧ (leavePlate cut s).pdir = s.pdir ∧
    (leavePlate cut s).psc.storeMiB = s.psc.storeMiB ∧ (leavePlate cut s).psc.links = s.psc.links ∧
    (leavePlate cut s).psc.poolHead = s.psc.poolHead ∧ (leavePlate cut s).psc.poolTail = s.psc.poolTail ∧
    (leavePlate cut s).psc.freeCount = s.psc.freeCount ∧ (leavePlate cut s).psc.poolSize = s.psc.poolSize ∧
    (leavePlate cut s).psc.refreshInterval = s.psc.refreshInterval ∧
    (leavePlate cut s).psc.refreshMerged = s.psc.refreshMerged ∧ (leavePlate cut s).dram = s.dram ∧
    (leavePlate cut s).sct = s.sct ∧ (leavePlate cut s).ru = s.ru ∧ (leavePlate cut s).psch = s.psch ∧
    (leavePlate cut s).imp.nrev = s.imp.nrev ∧ (leavePlate cut s).imp.lead = s.imp.lead ∧
    (leavePlate cut s).imp.swath = s.imp.swath ∧ (leavePlate cut s).imp.half = s.imp.half ∧
    (leavePlate cut s).imp.dwellLimit = s.imp.dwellLimit ∧ (leavePlate cut s).imp.watermark = s.imp.watermark ∧
    (leavePlate cut s).imp.ring.length = s.imp.ring.length ∧ (leavePlate cut s).imp.nextFetch = s.imp.nextFetch ∧
    (leavePlate cut s).imp.nextSend = s.imp.nextSend ∧ (leavePlate cut s).imp.recordTaken = s.imp.recordTaken ∧
    (leavePlate cut s).imp.headWord = s.imp.headWord ∧ (leavePlate cut s).hmon = s.hmon ∧
    (leavePlate cut s).drec = s.drec ∧ (leavePlate cut s).freeIndex = s.freeIndex ∧
    (leavePlate cut s).pending = s.pending := by
  simp [leavePlate]

@[simp] theorem plateEnd_keeps (s : State) :
    (plateEnd s).part = s.part ∧ (plateEnd s).resetHeld = s.resetHeld ∧ (plateEnd s).lp = s.lp ∧
    (plateEnd s).prx = s.prx ∧ (plateEnd s).pdir = s.pdir ∧ (plateEnd s).psc.storeMiB = s.psc.storeMiB ∧
    (plateEnd s).psc.links = s.psc.links ∧ (plateEnd s).psc.poolHead = s.psc.poolHead ∧
    (plateEnd s).psc.poolTail = s.psc.poolTail ∧ (plateEnd s).psc.freeCount = s.psc.freeCount ∧
    (plateEnd s).psc.poolSize = s.psc.poolSize ∧ (plateEnd s).psc.refreshInterval = s.psc.refreshInterval ∧
    (plateEnd s).psc.refreshMerged = s.psc.refreshMerged ∧ (plateEnd s).dram = s.dram ∧
    (plateEnd s).sct = s.sct ∧ (plateEnd s).ru = s.ru ∧ (plateEnd s).psch = s.psch ∧
    (plateEnd s).imp.nrev = s.imp.nrev ∧ (plateEnd s).imp.lead = s.imp.lead ∧
    (plateEnd s).imp.swath = s.imp.swath ∧ (plateEnd s).imp.half = s.imp.half ∧
    (plateEnd s).imp.dwellLimit = s.imp.dwellLimit ∧ (plateEnd s).imp.watermark = s.imp.watermark ∧
    (plateEnd s).imp.ring.length = s.imp.ring.length ∧ (plateEnd s).imp.nextFetch = s.imp.nextFetch ∧
    (plateEnd s).imp.nextSend = s.imp.nextSend ∧ (plateEnd s).imp.recordTaken = s.imp.recordTaken ∧
    (plateEnd s).imp.headWord = s.imp.headWord ∧ (plateEnd s).hmon = s.hmon ∧ (plateEnd s).drec = s.drec ∧
    (plateEnd s).freeIndex = s.freeIndex ∧ (plateEnd s).pending = s.pending := by
  simp [plateEnd]

@[simp] theorem plateStart_keeps (s : State) :
    (plateStart s).part = s.part ∧ (plateStart s).resetHeld = s.resetHeld ∧ (plateStart s).lp = s.lp ∧
    (plateStart s).prx = s.prx ∧ (plateStart s).pdir = s.pdir ∧ (plateStart s).psc = s.psc ∧
    (plateStart s).dram = s.dram ∧ (plateStart s).sct = s.sct ∧ (plateStart s).ru = s.ru ∧
    (plateStart s).psch = s.psch ∧ (plateStart s).imp.nrev = s.imp.nrev ∧ (plateStart s).imp.lead = s.imp.lead ∧
    (plateStart s).imp.swath = s.imp.swath ∧ (plateStart s).imp.half = s.imp.half ∧
    (plateStart s).imp.dwellLimit = s.imp.dwellLimit ∧ (plateStart s).imp.watermark = s.imp.watermark ∧
    (plateStart s).imp.ring.length = s.imp.ring.length ∧ (plateStart s).imp.rev = s.imp.rev ∧
    (plateStart s).imp.prev = s.imp.prev ∧ (plateStart s).imp.fifo = s.imp.fifo ∧
    (plateStart s).imp.nextFetch = s.imp.nextFetch ∧ (plateStart s).imp.nextSend = s.imp.nextSend ∧
    (plateStart s).imp.refill = s.imp.refill ∧ (plateStart s).imp.underrun = s.imp.underrun ∧
    (plateStart s).imp.recordTaken = s.imp.recordTaken ∧ (plateStart s).imp.headWord = s.imp.headWord ∧
    (plateStart s).hmon = s.hmon ∧ (plateStart s).drec = s.drec ∧ (plateStart s).freeIndex = s.freeIndex ∧
    (plateStart s).pending = s.pending := by
  simp [plateStart]

@[simp] theorem handAbort_keeps (j : Job) (r : JobResult) (s : State) :
    (handAbort j r s).part = s.part ∧ (handAbort j r s).resetHeld = s.resetHeld ∧ (handAbort j r s).lp = s.lp ∧
    (handAbort j r s).prx = s.prx ∧ (handAbort j r s).pdir = s.pdir ∧ (handAbort j r s).psc = s.psc ∧
    (handAbort j r s).dram = s.dram ∧ (handAbort j r s).sct = s.sct ∧ (handAbort j r s).ru = s.ru ∧
    (handAbort j r s).psch = s.psch ∧ (handAbort j r s).imp = s.imp ∧ (handAbort j r s).hmon = s.hmon ∧
    (handAbort j r s).drec.plateOpen = s.drec.plateOpen ∧
    (handAbort j r s).drec.sweepHeight = s.drec.sweepHeight ∧
    (handAbort j r s).drec.geometry = s.drec.geometry ∧ (handAbort j r s).drec.mark = s.drec.mark ∧
    (handAbort j r s).drec.reject = s.drec.reject ∧ (handAbort j r s).freeIndex = s.freeIndex ∧
    (handAbort j r s).pending = s.pending := by
  unfold handAbort
  (repeat' split) <;> simp

@[simp] theorem archiveJob_keeps (j : Job) (l : List Defect) (s : State) :
    (archiveJob j l s).part = s.part ∧ (archiveJob j l s).resetHeld = s.resetHeld ∧
    (archiveJob j l s).lp.framer = s.lp.framer ∧ (archiveJob j l s).lp.cmdQueue = s.lp.cmdQueue ∧
    (archiveJob j l s).lp.replyReserved = s.lp.replyReserved ∧
    (archiveJob j l s).lp.replyFinished = s.lp.replyFinished ∧ (archiveJob j l s).lp.tx = s.lp.tx ∧
    (archiveJob j l s).lp.linkErrors = s.lp.linkErrors ∧ (archiveJob j l s).lp.overrun = s.lp.overrun ∧
    (archiveJob j l s).lp.watchdogPeriod = s.lp.watchdogPeriod ∧
    (archiveJob j l s).lp.watchdogRunning = s.lp.watchdogRunning ∧
    (archiveJob j l s).lp.unattended = s.lp.unattended ∧ (archiveJob j l s).lp.linkLost = s.lp.linkLost ∧
    (archiveJob j l s).prx = s.prx ∧ (archiveJob j l s).pdir = s.pdir ∧ (archiveJob j l s).psc = s.psc ∧
    (archiveJob j l s).dram = s.dram ∧ (archiveJob j l s).sct = s.sct ∧ (archiveJob j l s).ru = s.ru ∧
    (archiveJob j l s).psch.fresh = s.psch.fresh ∧ (archiveJob j l s).imp = s.imp ∧
    (archiveJob j l s).hmon = s.hmon ∧ (archiveJob j l s).drec = s.drec ∧
    (archiveJob j l s).freeIndex = s.freeIndex ∧ (archiveJob j l s).pending = s.pending := by
  unfold archiveJob
  (repeat' split) <;> simp

@[simp] theorem unbindJob_keeps (j : Job) (s : State) :
    (unbindJob j s).part = s.part ∧ (unbindJob j s).resetHeld = s.resetHeld ∧
    (unbindJob j s).lp.framer = s.lp.framer ∧ (unbindJob j s).lp.cmdQueue = s.lp.cmdQueue ∧
    (unbindJob j s).lp.replyReserved = s.lp.replyReserved ∧
    (unbindJob j s).lp.replyFinished = s.lp.replyFinished ∧ (unbindJob j s).lp.tx = s.lp.tx ∧
    (unbindJob j s).lp.linkErrors = s.lp.linkErrors ∧ (unbindJob j s).lp.overrun = s.lp.overrun ∧
    (unbindJob j s).lp.watchdogPeriod = s.lp.watchdogPeriod ∧
    (unbindJob j s).lp.watchdogRunning = s.lp.watchdogRunning ∧
    (unbindJob j s).lp.unattended = s.lp.unattended ∧ (unbindJob j s).lp.linkLost = s.lp.linkLost ∧
    (unbindJob j s).prx.contexts.length = s.prx.contexts.length ∧ (unbindJob j s).prx.timeout = s.prx.timeout ∧
    (unbindJob j s).pdir.entries.length = s.pdir.entries.length ∧
    (unbindJob j s).pdir.counter = s.pdir.counter ∧ (unbindJob j s).psc.storeMiB = s.psc.storeMiB ∧
    (unbindJob j s).psc.poolSize = s.psc.poolSize ∧
    (unbindJob j s).psc.refreshInterval = s.psc.refreshInterval ∧
    (unbindJob j s).psc.refreshMerged = s.psc.refreshMerged ∧ (unbindJob j s).dram = s.dram ∧
    (unbindJob j s).sct = s.sct ∧ (unbindJob j s).ru = s.ru ∧ (unbindJob j s).psch = s.psch ∧
    (unbindJob j s).imp = s.imp ∧ (unbindJob j s).hmon = s.hmon ∧ (unbindJob j s).drec = s.drec ∧
    (unbindJob j s).freeIndex = s.freeIndex ∧ (unbindJob j s).pending = s.pending := by
  unfold unbindJob
  exact ⟨foldl_keeps (fun x : State => x.part) _ (by intros; simp) _ _,
    foldl_keeps (fun x : State => x.resetHeld) _ (by intros; simp) _ _,
    foldl_keeps (fun x : State => x.lp.framer) _ (by intros; simp) _ _,
    foldl_keeps (fun x : State => x.lp.cmdQueue) _ (by intros; simp) _ _,
    foldl_keeps (fun x : State => x.lp.replyReserved) _ (by intros; simp) _ _,
    foldl_keeps (fun x : State => x.lp.replyFinished) _ (by intros; simp) _ _,
    foldl_keeps (fun x : State => x.lp.tx) _ (by intros; simp) _ _,
    foldl_keeps (fun x : State => x.lp.linkErrors) _ (by intros; simp) _ _,
    foldl_keeps (fun x : State => x.lp.overrun) _ (by intros; simp) _ _,
    foldl_keeps (fun x : State => x.lp.watchdogPeriod) _ (by intros; simp) _ _,
    foldl_keeps (fun x : State => x.lp.watchdogRunning) _ (by intros; simp) _ _,
    foldl_keeps (fun x : State => x.lp.unattended) _ (by intros; simp) _ _,
    foldl_keeps (fun x : State => x.lp.linkLost) _ (by intros; simp) _ _,
    foldl_keeps (fun x : State => x.prx.contexts.length) _ (by intros; simp) _ _,
    foldl_keeps (fun x : State => x.prx.timeout) _ (by intros; simp) _ _,
    foldl_keeps (fun x : State => x.pdir.entries.length) _ (by intros; simp) _ _,
    foldl_keeps (fun x : State => x.pdir.counter) _ (by intros; simp) _ _,
    foldl_keeps (fun x : State => x.psc.storeMiB) _ (by intros; simp) _ _,
    foldl_keeps (fun x : State => x.psc.poolSize) _ (by intros; simp) _ _,
    foldl_keeps (fun x : State => x.psc.refreshInterval) _ (by intros; simp) _ _,
    foldl_keeps (fun x : State => x.psc.refreshMerged) _ (by intros; simp) _ _,
    foldl_keeps (fun x : State => x.dram) _ (by intros; simp) _ _,
    foldl_keeps (fun x : State => x.sct) _ (by intros; simp) _ _,
    foldl_keeps (fun x : State => x.ru) _ (by intros; simp) _ _,
    foldl_keeps (fun x : State => x.psch) _ (by intros; simp) _ _,
    foldl_keeps (fun x : State => x.imp) _ (by intros; simp) _ _,
    foldl_keeps (fun x : State => x.hmon) _ (by intros; simp) _ _,
    foldl_keeps (fun x : State => x.drec) _ (by intros; simp) _ _,
    foldl_keeps (fun x : State => x.freeIndex) _ (by intros; simp) _ _,
    foldl_keeps (fun x : State => x.pending) _ (by intros; simp) _ _⟩

@[simp] theorem endArmedJob_keeps (r : JobResult) (f : Option FitFault) (s : State) :
    (endArmedJob r f s).part = s.part ∧ (endArmedJob r f s).resetHeld = s.resetHeld ∧
    (endArmedJob r f s).lp.framer = s.lp.framer ∧ (endArmedJob r f s).lp.cmdQueue = s.lp.cmdQueue ∧
    (endArmedJob r f s).lp.replyReserved = s.lp.replyReserved ∧
    (endArmedJob r f s).lp.replyFinished = s.lp.replyFinished ∧ (endArmedJob r f s).lp.tx = s.lp.tx ∧
    (endArmedJob r f s).lp.linkErrors = s.lp.linkErrors ∧ (endArmedJob r f s).lp.overrun = s.lp.overrun ∧
    (endArmedJob r f s).lp.watchdogPeriod = s.lp.watchdogPeriod ∧
    (endArmedJob r f s).lp.watchdogRunning = s.lp.watchdogRunning ∧
    (endArmedJob r f s).lp.unattended = s.lp.unattended ∧ (endArmedJob r f s).lp.linkLost = s.lp.linkLost ∧
    (endArmedJob r f s).prx.contexts.length = s.prx.contexts.length ∧
    (endArmedJob r f s).prx.timeout = s.prx.timeout ∧
    (endArmedJob r f s).pdir.entries.length = s.pdir.entries.length ∧
    (endArmedJob r f s).pdir.counter = s.pdir.counter ∧ (endArmedJob r f s).psc.storeMiB = s.psc.storeMiB ∧
    (endArmedJob r f s).psc.poolSize = s.psc.poolSize ∧
    (endArmedJob r f s).psc.refreshInterval = s.psc.refreshInterval ∧
    (endArmedJob r f s).psc.refreshMerged = s.psc.refreshMerged ∧ (endArmedJob r f s).dram = s.dram ∧
    (endArmedJob r f s).sct.sets = s.sct.sets ∧ (endArmedJob r f s).sct.cache = s.sct.cache ∧
    (endArmedJob r f s).sct.tag = s.sct.tag ∧ (endArmedJob r f s).sct.tileBuf = s.sct.tileBuf ∧
    (endArmedJob r f s).ru.lineArt = s.ru.lineArt ∧ (endArmedJob r f s).ru.screen = s.ru.screen ∧
    (endArmedJob r f s).ru.windows = s.ru.windows ∧ (endArmedJob r f s).psch.fresh = s.psch.fresh ∧
    (endArmedJob r f s).imp.nrev = s.imp.nrev ∧ (endArmedJob r f s).imp.lead = s.imp.lead ∧
    (endArmedJob r f s).imp.swath = s.imp.swath ∧ (endArmedJob r f s).imp.half = s.imp.half ∧
    (endArmedJob r f s).imp.dwellLimit = s.imp.dwellLimit ∧
    (endArmedJob r f s).imp.watermark = s.imp.watermark ∧
    (endArmedJob r f s).imp.ring.length = s.imp.ring.length ∧
    (endArmedJob r f s).imp.nextFetch = s.imp.nextFetch ∧ (endArmedJob r f s).imp.nextSend = s.imp.nextSend ∧
    (endArmedJob r f s).imp.recordTaken = s.imp.recordTaken ∧
    (endArmedJob r f s).imp.headWord = s.imp.headWord ∧ (endArmedJob r f s).hmon = s.hmon ∧
    (endArmedJob r f s).drec.sweepHeight = s.drec.sweepHeight ∧
    (endArmedJob r f s).drec.geometry = s.drec.geometry ∧ (endArmedJob r f s).freeIndex = s.freeIndex ∧
    (endArmedJob r f s).pending = s.pending := by
  unfold endArmedJob
  (repeat' split) <;> simp

@[simp] theorem beginArming_keeps (j : Job) (s : State) :
    (beginArming j s).part = s.part ∧ (beginArming j s).resetHeld = s.resetHeld ∧ (beginArming j s).lp = s.lp ∧
    (beginArming j s).prx = s.prx ∧ (beginArming j s).pdir = s.pdir ∧ (beginArming j s).psc = s.psc ∧
    (beginArming j s).dram = s.dram ∧ (beginArming j s).sct = s.sct ∧ (beginArming j s).ru = s.ru ∧
    (beginArming j s).psch.queue.length = s.psch.queue.length ∧
    (beginArming j s).psch.history = s.psch.history ∧ (beginArming j s).psch.fresh = s.psch.fresh ∧
    (beginArming j s).imp = s.imp ∧ (beginArming j s).hmon = s.hmon ∧
    (beginArming j s).drec.mark = s.drec.mark ∧ (beginArming j s).drec.reject = s.drec.reject ∧
    (beginArming j s).freeIndex = s.freeIndex ∧ (beginArming j s).pending = s.pending := by
  simp [beginArming]

@[simp] theorem foldl_bindEntry_keeps (l : List Nat) (s : State) :
    (l.foldl bindEntry s).part = s.part ∧ (l.foldl bindEntry s).resetHeld = s.resetHeld ∧
    (l.foldl bindEntry s).lp.framer = s.lp.framer ∧ (l.foldl bindEntry s).lp.cmdQueue = s.lp.cmdQueue ∧
    (l.foldl bindEntry s).lp.replyReserved = s.lp.replyReserved ∧
    (l.foldl bindEntry s).lp.replyFinished = s.lp.replyFinished ∧ (l.foldl bindEntry s).lp.tx = s.lp.tx ∧
    (l.foldl bindEntry s).lp.linkErrors = s.lp.linkErrors ∧ (l.foldl bindEntry s).lp.overrun = s.lp.overrun ∧
    (l.foldl bindEntry s).lp.watchdogPeriod = s.lp.watchdogPeriod ∧
    (l.foldl bindEntry s).lp.watchdogRunning = s.lp.watchdogRunning ∧
    (l.foldl bindEntry s).lp.unattended = s.lp.unattended ∧ (l.foldl bindEntry s).lp.linkLost = s.lp.linkLost ∧
    (l.foldl bindEntry s).prx.contexts.length = s.prx.contexts.length ∧
    (l.foldl bindEntry s).prx.timeout = s.prx.timeout ∧
    (l.foldl bindEntry s).pdir.entries.length = s.pdir.entries.length ∧
    (l.foldl bindEntry s).pdir.counter = s.pdir.counter ∧ (l.foldl bindEntry s).psc.storeMiB = s.psc.storeMiB ∧
    (l.foldl bindEntry s).psc.poolSize = s.psc.poolSize ∧
    (l.foldl bindEntry s).psc.refreshInterval = s.psc.refreshInterval ∧
    (l.foldl bindEntry s).psc.refreshMerged = s.psc.refreshMerged ∧ (l.foldl bindEntry s).dram = s.dram ∧
    (l.foldl bindEntry s).sct = s.sct ∧ (l.foldl bindEntry s).ru = s.ru ∧ (l.foldl bindEntry s).psch = s.psch ∧
    (l.foldl bindEntry s).imp = s.imp ∧ (l.foldl bindEntry s).hmon = s.hmon ∧
    (l.foldl bindEntry s).drec = s.drec ∧ (l.foldl bindEntry s).freeIndex = s.freeIndex ∧
    (l.foldl bindEntry s).pending = s.pending := by
  exact ⟨foldl_keeps (fun x : State => x.part) _ (by intros; simp) _ _,
    foldl_keeps (fun x : State => x.resetHeld) _ (by intros; simp) _ _,
    foldl_keeps (fun x : State => x.lp.framer) _ (by intros; simp) _ _,
    foldl_keeps (fun x : State => x.lp.cmdQueue) _ (by intros; simp) _ _,
    foldl_keeps (fun x : State => x.lp.replyReserved) _ (by intros; simp) _ _,
    foldl_keeps (fun x : State => x.lp.replyFinished) _ (by intros; simp) _ _,
    foldl_keeps (fun x : State => x.lp.tx) _ (by intros; simp) _ _,
    foldl_keeps (fun x : State => x.lp.linkErrors) _ (by intros; simp) _ _,
    foldl_keeps (fun x : State => x.lp.overrun) _ (by intros; simp) _ _,
    foldl_keeps (fun x : State => x.lp.watchdogPeriod) _ (by intros; simp) _ _,
    foldl_keeps (fun x : State => x.lp.watchdogRunning) _ (by intros; simp) _ _,
    foldl_keeps (fun x : State => x.lp.unattended) _ (by intros; simp) _ _,
    foldl_keeps (fun x : State => x.lp.linkLost) _ (by intros; simp) _ _,
    foldl_keeps (fun x : State => x.prx.contexts.length) _ (by intros; simp) _ _,
    foldl_keeps (fun x : State => x.prx.timeout) _ (by intros; simp) _ _,
    foldl_keeps (fun x : State => x.pdir.entries.length) _ (by intros; simp) _ _,
    foldl_keeps (fun x : State => x.pdir.counter) _ (by intros; simp) _ _,
    foldl_keeps (fun x : State => x.psc.storeMiB) _ (by intros; simp) _ _,
    foldl_keeps (fun x : State => x.psc.poolSize) _ (by intros; simp) _ _,
    foldl_keeps (fun x : State => x.psc.refreshInterval) _ (by intros; simp) _ _,
    foldl_keeps (fun x : State => x.psc.refreshMerged) _ (by intros; simp) _ _,
    foldl_keeps (fun x : State => x.dram) _ (by intros; simp) _ _,
    foldl_keeps (fun x : State => x.sct) _ (by intros; simp) _ _,
    foldl_keeps (fun x : State => x.ru) _ (by intros; simp) _ _,
    foldl_keeps (fun x : State => x.psch) _ (by intros; simp) _ _,
    foldl_keeps (fun x : State => x.imp) _ (by intros; simp) _ _,
    foldl_keeps (fun x : State => x.hmon) _ (by intros; simp) _ _,
    foldl_keeps (fun x : State => x.drec) _ (by intros; simp) _ _,
    foldl_keeps (fun x : State => x.freeIndex) _ (by intros; simp) _ _,
    foldl_keeps (fun x : State => x.pending) _ (by intros; simp) _ _⟩

@[simp] theorem bindJob_keeps (j : Job) (s : State) :
    (bindJob j s).part = s.part ∧ (bindJob j s).resetHeld = s.resetHeld ∧
    (bindJob j s).lp.framer = s.lp.framer ∧ (bindJob j s).lp.cmdQueue = s.lp.cmdQueue ∧
    (bindJob j s).lp.replyReserved = s.lp.replyReserved ∧ (bindJob j s).lp.replyFinished = s.lp.replyFinished ∧
    (bindJob j s).lp.tx = s.lp.tx ∧ (bindJob j s).lp.linkErrors = s.lp.linkErrors ∧
    (bindJob j s).lp.overrun = s.lp.overrun ∧ (bindJob j s).lp.watchdogPeriod = s.lp.watchdogPeriod ∧
    (bindJob j s).lp.watchdogRunning = s.lp.watchdogRunning ∧ (bindJob j s).lp.unattended = s.lp.unattended ∧
    (bindJob j s).lp.linkLost = s.lp.linkLost ∧ (bindJob j s).prx.contexts.length = s.prx.contexts.length ∧
    (bindJob j s).prx.timeout = s.prx.timeout ∧ (bindJob j s).pdir.entries.length = s.pdir.entries.length ∧
    (bindJob j s).pdir.counter = s.pdir.counter ∧ (bindJob j s).psc.storeMiB = s.psc.storeMiB ∧
    (bindJob j s).psc.poolSize = s.psc.poolSize ∧ (bindJob j s).psc.refreshInterval = s.psc.refreshInterval ∧
    (bindJob j s).psc.refreshMerged = s.psc.refreshMerged ∧ (bindJob j s).dram = s.dram ∧
    (bindJob j s).sct = s.sct ∧ (bindJob j s).ru = s.ru ∧
    (bindJob j s).psch.queue.length = s.psch.queue.length ∧ (bindJob j s).psch.history = s.psch.history ∧
    (bindJob j s).psch.armed = s.psch.armed ∧ (bindJob j s).psch.fresh = s.psch.fresh ∧
    (bindJob j s).imp = s.imp ∧ (bindJob j s).hmon = s.hmon ∧ (bindJob j s).drec.plateOpen = s.drec.plateOpen ∧
    (bindJob j s).drec.sweepHeight = s.drec.sweepHeight ∧ (bindJob j s).drec.list = s.drec.list ∧
    (bindJob j s).drec.verdict = s.drec.verdict ∧ (bindJob j s).drec.mark = s.drec.mark ∧
    (bindJob j s).drec.reject = s.drec.reject ∧ (bindJob j s).freeIndex = s.freeIndex ∧
    (bindJob j s).pending = s.pending := by
  simp [bindJob]

@[simp] theorem startImaging_keeps (s : State) :
    (startImaging s).part = s.part ∧ (startImaging s).resetHeld = s.resetHeld ∧
    (startImaging s).lp.framer = s.lp.framer ∧ (startImaging s).lp.cmdQueue = s.lp.cmdQueue ∧
    (startImaging s).lp.replyReserved = s.lp.replyReserved ∧
    (startImaging s).lp.replyFinished = s.lp.replyFinished ∧ (startImaging s).lp.tx = s.lp.tx ∧
    (startImaging s).lp.linkErrors = s.lp.linkErrors ∧ (startImaging s).lp.overrun = s.lp.overrun ∧
    (startImaging s).lp.watchdogPeriod = s.lp.watchdogPeriod ∧
    (startImaging s).lp.watchdogRunning = s.lp.watchdogRunning ∧
    (startImaging s).lp.unattended = s.lp.unattended ∧ (startImaging s).lp.linkLost = s.lp.linkLost ∧
    (startImaging s).prx = s.prx ∧ (startImaging s).pdir = s.pdir ∧
    (startImaging s).psc.storeMiB = s.psc.storeMiB ∧ (startImaging s).psc.links = s.psc.links ∧
    (startImaging s).psc.poolHead = s.psc.poolHead ∧ (startImaging s).psc.poolTail = s.psc.poolTail ∧
    (startImaging s).psc.freeCount = s.psc.freeCount ∧ (startImaging s).psc.poolSize = s.psc.poolSize ∧
    (startImaging s).psc.refreshInterval = s.psc.refreshInterval ∧
    (startImaging s).psc.refreshMerged = s.psc.refreshMerged ∧ (startImaging s).dram = s.dram ∧
    (startImaging s).sct = s.sct ∧ (startImaging s).psch.queue.length = s.psch.queue.length ∧
    (startImaging s).psch.history = s.psch.history ∧ (startImaging s).psch.armed = s.psch.armed ∧
    (startImaging s).imp.nrev = s.imp.nrev ∧ (startImaging s).imp.lead = s.imp.lead ∧
    (startImaging s).imp.swath = s.imp.swath ∧ (startImaging s).imp.half = s.imp.half ∧
    (startImaging s).imp.dwellLimit = s.imp.dwellLimit ∧ (startImaging s).imp.watermark = s.imp.watermark ∧
    (startImaging s).imp.ring.length = s.imp.ring.length ∧ (startImaging s).imp.rev = s.imp.rev ∧
    (startImaging s).imp.prev = s.imp.prev ∧ (startImaging s).imp.fifo = s.imp.fifo ∧
    (startImaging s).imp.nextFetch = s.imp.nextFetch ∧ (startImaging s).imp.nextSend = s.imp.nextSend ∧
    (startImaging s).imp.refill = s.imp.refill ∧ (startImaging s).imp.underrun = s.imp.underrun ∧
    (startImaging s).imp.recordTaken = s.imp.recordTaken ∧ (startImaging s).imp.headWord = s.imp.headWord ∧
    (startImaging s).hmon = s.hmon ∧ (startImaging s).drec.plateOpen = s.drec.plateOpen ∧
    (startImaging s).drec.sweepHeight = s.drec.sweepHeight ∧ (startImaging s).drec.geometry = s.drec.geometry ∧
    (startImaging s).drec.mark = s.drec.mark ∧ (startImaging s).drec.reject = s.drec.reject ∧
    (startImaging s).freeIndex = s.freeIndex ∧ (startImaging s).pending = s.pending := by
  unfold startImaging
  (repeat' split) <;> simp

@[simp] theorem tileCheck_keeps (j : Job) (s : State) :
    (tileCheck j s).part = s.part ∧ (tileCheck j s).resetHeld = s.resetHeld ∧
    (tileCheck j s).lp.framer = s.lp.framer ∧ (tileCheck j s).lp.cmdQueue = s.lp.cmdQueue ∧
    (tileCheck j s).lp.replyReserved = s.lp.replyReserved ∧
    (tileCheck j s).lp.replyFinished = s.lp.replyFinished ∧ (tileCheck j s).lp.tx = s.lp.tx ∧
    (tileCheck j s).lp.linkErrors = s.lp.linkErrors ∧ (tileCheck j s).lp.overrun = s.lp.overrun ∧
    (tileCheck j s).lp.watchdogPeriod = s.lp.watchdogPeriod ∧
    (tileCheck j s).lp.watchdogRunning = s.lp.watchdogRunning ∧
    (tileCheck j s).lp.unattended = s.lp.unattended ∧ (tileCheck j s).lp.linkLost = s.lp.linkLost ∧
    (tileCheck j s).prx = s.prx ∧ (tileCheck j s).pdir = s.pdir ∧
    (tileCheck j s).psc.storeMiB = s.psc.storeMiB ∧ (tileCheck j s).psc.links = s.psc.links ∧
    (tileCheck j s).psc.poolHead = s.psc.poolHead ∧ (tileCheck j s).psc.poolTail = s.psc.poolTail ∧
    (tileCheck j s).psc.freeCount = s.psc.freeCount ∧ (tileCheck j s).psc.poolSize = s.psc.poolSize ∧
    (tileCheck j s).psc.refreshInterval = s.psc.refreshInterval ∧
    (tileCheck j s).psc.refreshMerged = s.psc.refreshMerged ∧ (tileCheck j s).dram = s.dram ∧
    (tileCheck j s).sct.sets = s.sct.sets ∧ (tileCheck j s).sct.cache = s.sct.cache ∧
    (tileCheck j s).sct.tileBuf = s.sct.tileBuf ∧ (tileCheck j s).psch.queue.length = s.psch.queue.length ∧
    (tileCheck j s).psch.history = s.psch.history ∧ (tileCheck j s).psch.armed = s.psch.armed ∧
    (tileCheck j s).imp.nrev = s.imp.nrev ∧ (tileCheck j s).imp.lead = s.imp.lead ∧
    (tileCheck j s).imp.swath = s.imp.swath ∧ (tileCheck j s).imp.half = s.imp.half ∧
    (tileCheck j s).imp.dwellLimit = s.imp.dwellLimit ∧ (tileCheck j s).imp.watermark = s.imp.watermark ∧
    (tileCheck j s).imp.ring.length = s.imp.ring.length ∧ (tileCheck j s).imp.rev = s.imp.rev ∧
    (tileCheck j s).imp.prev = s.imp.prev ∧ (tileCheck j s).imp.fifo = s.imp.fifo ∧
    (tileCheck j s).imp.nextFetch = s.imp.nextFetch ∧ (tileCheck j s).imp.nextSend = s.imp.nextSend ∧
    (tileCheck j s).imp.refill = s.imp.refill ∧ (tileCheck j s).imp.underrun = s.imp.underrun ∧
    (tileCheck j s).imp.recordTaken = s.imp.recordTaken ∧ (tileCheck j s).imp.headWord = s.imp.headWord ∧
    (tileCheck j s).hmon = s.hmon ∧ (tileCheck j s).drec.plateOpen = s.drec.plateOpen ∧
    (tileCheck j s).drec.sweepHeight = s.drec.sweepHeight ∧ (tileCheck j s).drec.geometry = s.drec.geometry ∧
    (tileCheck j s).drec.mark = s.drec.mark ∧ (tileCheck j s).drec.reject = s.drec.reject ∧
    (tileCheck j s).freeIndex = s.freeIndex ∧ (tileCheck j s).pending = s.pending := by
  unfold tileCheck
  dsimp only
  (repeat' split) <;> simp

@[simp] theorem scheduleFrom_keeps (n : Nat) (s : State) :
    (scheduleFrom n s).part = s.part ∧ (scheduleFrom n s).resetHeld = s.resetHeld ∧
    (scheduleFrom n s).lp.framer = s.lp.framer ∧ (scheduleFrom n s).lp.cmdQueue = s.lp.cmdQueue ∧
    (scheduleFrom n s).lp.replyReserved = s.lp.replyReserved ∧
    (scheduleFrom n s).lp.replyFinished = s.lp.replyFinished ∧ (scheduleFrom n s).lp.tx = s.lp.tx ∧
    (scheduleFrom n s).lp.linkErrors = s.lp.linkErrors ∧ (scheduleFrom n s).lp.overrun = s.lp.overrun ∧
    (scheduleFrom n s).lp.watchdogPeriod = s.lp.watchdogPeriod ∧
    (scheduleFrom n s).lp.watchdogRunning = s.lp.watchdogRunning ∧
    (scheduleFrom n s).lp.unattended = s.lp.unattended ∧ (scheduleFrom n s).lp.linkLost = s.lp.linkLost ∧
    (scheduleFrom n s).prx.contexts.length = s.prx.contexts.length ∧
    (scheduleFrom n s).prx.timeout = s.prx.timeout ∧
    (scheduleFrom n s).pdir.entries.length = s.pdir.entries.length ∧
    (scheduleFrom n s).pdir.counter = s.pdir.counter ∧ (scheduleFrom n s).psc.storeMiB = s.psc.storeMiB ∧
    (scheduleFrom n s).psc.poolSize = s.psc.poolSize ∧
    (scheduleFrom n s).psc.refreshInterval = s.psc.refreshInterval ∧
    (scheduleFrom n s).psc.refreshMerged = s.psc.refreshMerged ∧ (scheduleFrom n s).dram = s.dram ∧
    (scheduleFrom n s).sct.sets = s.sct.sets ∧ (scheduleFrom n s).sct.cache = s.sct.cache ∧
    (scheduleFrom n s).sct.tileBuf = s.sct.tileBuf ∧ (scheduleFrom n s).imp.nrev = s.imp.nrev ∧
    (scheduleFrom n s).imp.lead = s.imp.lead ∧ (scheduleFrom n s).imp.swath = s.imp.swath ∧
    (scheduleFrom n s).imp.half = s.imp.half ∧ (scheduleFrom n s).imp.dwellLimit = s.imp.dwellLimit ∧
    (scheduleFrom n s).imp.watermark = s.imp.watermark ∧
    (scheduleFrom n s).imp.ring.length = s.imp.ring.length ∧
    (scheduleFrom n s).imp.nextFetch = s.imp.nextFetch ∧ (scheduleFrom n s).imp.nextSend = s.imp.nextSend ∧
    (scheduleFrom n s).imp.recordTaken = s.imp.recordTaken ∧ (scheduleFrom n s).imp.headWord = s.imp.headWord ∧
    (scheduleFrom n s).hmon = s.hmon ∧ (scheduleFrom n s).freeIndex = s.freeIndex ∧
    (scheduleFrom n s).pending = s.pending := by
  induction n generalizing s with
  | zero => simp [scheduleFrom]
  | succ n ih => unfold scheduleFrom; (repeat' split) <;> simp [ih]

@[simp] theorem scheduleTest_keeps (s : State) :
    (scheduleTest s).part = s.part ∧ (scheduleTest s).resetHeld = s.resetHeld ∧
    (scheduleTest s).lp.framer = s.lp.framer ∧ (scheduleTest s).lp.cmdQueue = s.lp.cmdQueue ∧
    (scheduleTest s).lp.replyReserved = s.lp.replyReserved ∧
    (scheduleTest s).lp.replyFinished = s.lp.replyFinished ∧ (scheduleTest s).lp.tx = s.lp.tx ∧
    (scheduleTest s).lp.linkErrors = s.lp.linkErrors ∧ (scheduleTest s).lp.overrun = s.lp.overrun ∧
    (scheduleTest s).lp.watchdogPeriod = s.lp.watchdogPeriod ∧
    (scheduleTest s).lp.watchdogRunning = s.lp.watchdogRunning ∧
    (scheduleTest s).lp.unattended = s.lp.unattended ∧ (scheduleTest s).lp.linkLost = s.lp.linkLost ∧
    (scheduleTest s).prx.contexts.length = s.prx.contexts.length ∧
    (scheduleTest s).prx.timeout = s.prx.timeout ∧
    (scheduleTest s).pdir.entries.length = s.pdir.entries.length ∧
    (scheduleTest s).pdir.counter = s.pdir.counter ∧ (scheduleTest s).psc.storeMiB = s.psc.storeMiB ∧
    (scheduleTest s).psc.poolSize = s.psc.poolSize ∧
    (scheduleTest s).psc.refreshInterval = s.psc.refreshInterval ∧
    (scheduleTest s).psc.refreshMerged = s.psc.refreshMerged ∧ (scheduleTest s).dram = s.dram ∧
    (scheduleTest s).sct.sets = s.sct.sets ∧ (scheduleTest s).sct.cache = s.sct.cache ∧
    (scheduleTest s).sct.tileBuf = s.sct.tileBuf ∧ (scheduleTest s).imp.nrev = s.imp.nrev ∧
    (scheduleTest s).imp.lead = s.imp.lead ∧ (scheduleTest s).imp.swath = s.imp.swath ∧
    (scheduleTest s).imp.half = s.imp.half ∧ (scheduleTest s).imp.dwellLimit = s.imp.dwellLimit ∧
    (scheduleTest s).imp.watermark = s.imp.watermark ∧ (scheduleTest s).imp.ring.length = s.imp.ring.length ∧
    (scheduleTest s).imp.nextFetch = s.imp.nextFetch ∧ (scheduleTest s).imp.nextSend = s.imp.nextSend ∧
    (scheduleTest s).imp.recordTaken = s.imp.recordTaken ∧ (scheduleTest s).imp.headWord = s.imp.headWord ∧
    (scheduleTest s).hmon = s.hmon ∧ (scheduleTest s).freeIndex = s.freeIndex ∧
    (scheduleTest s).pending = s.pending := by
  simp [scheduleTest]

@[simp] theorem endArmed_keeps (r : JobResult) (f : Option FitFault) (s : State) :
    (endArmed r f s).part = s.part ∧ (endArmed r f s).resetHeld = s.resetHeld ∧
    (endArmed r f s).lp.framer = s.lp.framer ∧ (endArmed r f s).lp.cmdQueue = s.lp.cmdQueue ∧
    (endArmed r f s).lp.replyReserved = s.lp.replyReserved ∧
    (endArmed r f s).lp.replyFinished = s.lp.replyFinished ∧ (endArmed r f s).lp.tx = s.lp.tx ∧
    (endArmed r f s).lp.linkErrors = s.lp.linkErrors ∧ (endArmed r f s).lp.overrun = s.lp.overrun ∧
    (endArmed r f s).lp.watchdogPeriod = s.lp.watchdogPeriod ∧
    (endArmed r f s).lp.watchdogRunning = s.lp.watchdogRunning ∧
    (endArmed r f s).lp.unattended = s.lp.unattended ∧ (endArmed r f s).lp.linkLost = s.lp.linkLost ∧
    (endArmed r f s).prx.contexts.length = s.prx.contexts.length ∧
    (endArmed r f s).prx.timeout = s.prx.timeout ∧
    (endArmed r f s).pdir.entries.length = s.pdir.entries.length ∧
    (endArmed r f s).pdir.counter = s.pdir.counter ∧ (endArmed r f s).psc.storeMiB = s.psc.storeMiB ∧
    (endArmed r f s).psc.poolSize = s.psc.poolSize ∧
    (endArmed r f s).psc.refreshInterval = s.psc.refreshInterval ∧
    (endArmed r f s).psc.refreshMerged = s.psc.refreshMerged ∧ (endArmed r f s).dram = s.dram ∧
    (endArmed r f s).sct.sets = s.sct.sets ∧ (endArmed r f s).sct.cache = s.sct.cache ∧
    (endArmed r f s).sct.tileBuf = s.sct.tileBuf ∧ (endArmed r f s).imp.nrev = s.imp.nrev ∧
    (endArmed r f s).imp.lead = s.imp.lead ∧ (endArmed r f s).imp.swath = s.imp.swath ∧
    (endArmed r f s).imp.half = s.imp.half ∧ (endArmed r f s).imp.dwellLimit = s.imp.dwellLimit ∧
    (endArmed r f s).imp.watermark = s.imp.watermark ∧ (endArmed r f s).imp.ring.length = s.imp.ring.length ∧
    (endArmed r f s).imp.nextFetch = s.imp.nextFetch ∧ (endArmed r f s).imp.nextSend = s.imp.nextSend ∧
    (endArmed r f s).imp.recordTaken = s.imp.recordTaken ∧ (endArmed r f s).imp.headWord = s.imp.headWord ∧
    (endArmed r f s).hmon = s.hmon ∧ (endArmed r f s).freeIndex = s.freeIndex ∧
    (endArmed r f s).pending = s.pending := by
  unfold endArmed
  (repeat' split) <;> simp

@[simp] theorem endImaging_keeps (r : JobResult) (s : State) :
    (endImaging r s).part = s.part ∧ (endImaging r s).resetHeld = s.resetHeld ∧
    (endImaging r s).lp.framer = s.lp.framer ∧ (endImaging r s).lp.cmdQueue = s.lp.cmdQueue ∧
    (endImaging r s).lp.replyReserved = s.lp.replyReserved ∧
    (endImaging r s).lp.replyFinished = s.lp.replyFinished ∧ (endImaging r s).lp.tx = s.lp.tx ∧
    (endImaging r s).lp.linkErrors = s.lp.linkErrors ∧ (endImaging r s).lp.overrun = s.lp.overrun ∧
    (endImaging r s).lp.watchdogPeriod = s.lp.watchdogPeriod ∧
    (endImaging r s).lp.watchdogRunning = s.lp.watchdogRunning ∧
    (endImaging r s).lp.unattended = s.lp.unattended ∧ (endImaging r s).lp.linkLost = s.lp.linkLost ∧
    (endImaging r s).prx.contexts.length = s.prx.contexts.length ∧
    (endImaging r s).prx.timeout = s.prx.timeout ∧
    (endImaging r s).pdir.entries.length = s.pdir.entries.length ∧
    (endImaging r s).pdir.counter = s.pdir.counter ∧ (endImaging r s).psc.storeMiB = s.psc.storeMiB ∧
    (endImaging r s).psc.poolSize = s.psc.poolSize ∧
    (endImaging r s).psc.refreshInterval = s.psc.refreshInterval ∧
    (endImaging r s).psc.refreshMerged = s.psc.refreshMerged ∧ (endImaging r s).dram = s.dram ∧
    (endImaging r s).sct.sets = s.sct.sets ∧ (endImaging r s).sct.cache = s.sct.cache ∧
    (endImaging r s).sct.tileBuf = s.sct.tileBuf ∧ (endImaging r s).imp.nrev = s.imp.nrev ∧
    (endImaging r s).imp.lead = s.imp.lead ∧ (endImaging r s).imp.swath = s.imp.swath ∧
    (endImaging r s).imp.half = s.imp.half ∧ (endImaging r s).imp.dwellLimit = s.imp.dwellLimit ∧
    (endImaging r s).imp.watermark = s.imp.watermark ∧ (endImaging r s).imp.ring.length = s.imp.ring.length ∧
    (endImaging r s).imp.nextFetch = s.imp.nextFetch ∧ (endImaging r s).imp.nextSend = s.imp.nextSend ∧
    (endImaging r s).imp.recordTaken = s.imp.recordTaken ∧ (endImaging r s).imp.headWord = s.imp.headWord ∧
    (endImaging r s).hmon = s.hmon ∧ (endImaging r s).freeIndex = s.freeIndex ∧
    (endImaging r s).pending = s.pending := by
  unfold endImaging
  (repeat' split) <;> simp

@[simp] theorem judgeFill_keeps (f : Fill) (s : State) :
    (judgeFill f s).part = s.part ∧ (judgeFill f s).resetHeld = s.resetHeld ∧
    (judgeFill f s).lp.framer = s.lp.framer ∧ (judgeFill f s).lp.cmdQueue = s.lp.cmdQueue ∧
    (judgeFill f s).lp.replyReserved = s.lp.replyReserved ∧
    (judgeFill f s).lp.replyFinished = s.lp.replyFinished ∧ (judgeFill f s).lp.tx = s.lp.tx ∧
    (judgeFill f s).lp.linkErrors = s.lp.linkErrors ∧ (judgeFill f s).lp.overrun = s.lp.overrun ∧
    (judgeFill f s).lp.watchdogPeriod = s.lp.watchdogPeriod ∧
    (judgeFill f s).lp.watchdogRunning = s.lp.watchdogRunning ∧
    (judgeFill f s).lp.unattended = s.lp.unattended ∧ (judgeFill f s).lp.linkLost = s.lp.linkLost ∧
    (judgeFill f s).prx.contexts.length = s.prx.contexts.length ∧ (judgeFill f s).prx.timeout = s.prx.timeout ∧
    (judgeFill f s).pdir.entries.length = s.pdir.entries.length ∧
    (judgeFill f s).pdir.counter = s.pdir.counter ∧ (judgeFill f s).psc.storeMiB = s.psc.storeMiB ∧
    (judgeFill f s).psc.poolSize = s.psc.poolSize ∧
    (judgeFill f s).psc.refreshInterval = s.psc.refreshInterval ∧
    (judgeFill f s).psc.refreshMerged = s.psc.refreshMerged ∧ (judgeFill f s).dram = s.dram ∧
    (judgeFill f s).sct.sets.length = s.sct.sets.length ∧ (judgeFill f s).sct.cache = s.sct.cache ∧
    (judgeFill f s).sct.tileBuf = s.sct.tileBuf ∧ (judgeFill f s).imp.nrev = s.imp.nrev ∧
    (judgeFill f s).imp.lead = s.imp.lead ∧ (judgeFill f s).imp.swath = s.imp.swath ∧
    (judgeFill f s).imp.half = s.imp.half ∧ (judgeFill f s).imp.dwellLimit = s.imp.dwellLimit ∧
    (judgeFill f s).imp.watermark = s.imp.watermark ∧ (judgeFill f s).imp.ring.length = s.imp.ring.length ∧
    (judgeFill f s).imp.nextFetch = s.imp.nextFetch ∧ (judgeFill f s).imp.nextSend = s.imp.nextSend ∧
    (judgeFill f s).imp.recordTaken = s.imp.recordTaken ∧ (judgeFill f s).imp.headWord = s.imp.headWord ∧
    (judgeFill f s).hmon = s.hmon ∧ (judgeFill f s).freeIndex = s.freeIndex ∧
    (judgeFill f s).pending = s.pending := by
  unfold judgeFill
  dsimp only
  (repeat' split) <;> simp

@[simp] theorem fillDone_keeps (stale : Bool) (bs : List Byte) (s : State) :
    (fillDone stale bs s).part = s.part ∧ (fillDone stale bs s).resetHeld = s.resetHeld ∧
    (fillDone stale bs s).lp.framer = s.lp.framer ∧ (fillDone stale bs s).lp.cmdQueue = s.lp.cmdQueue ∧
    (fillDone stale bs s).lp.replyReserved = s.lp.replyReserved ∧
    (fillDone stale bs s).lp.replyFinished = s.lp.replyFinished ∧ (fillDone stale bs s).lp.tx = s.lp.tx ∧
    (fillDone stale bs s).lp.linkErrors = s.lp.linkErrors ∧ (fillDone stale bs s).lp.overrun = s.lp.overrun ∧
    (fillDone stale bs s).lp.watchdogPeriod = s.lp.watchdogPeriod ∧
    (fillDone stale bs s).lp.watchdogRunning = s.lp.watchdogRunning ∧
    (fillDone stale bs s).lp.unattended = s.lp.unattended ∧ (fillDone stale bs s).lp.linkLost = s.lp.linkLost ∧
    (fillDone stale bs s).prx.contexts.length = s.prx.contexts.length ∧
    (fillDone stale bs s).prx.timeout = s.prx.timeout ∧
    (fillDone stale bs s).pdir.entries.length = s.pdir.entries.length ∧
    (fillDone stale bs s).pdir.counter = s.pdir.counter ∧ (fillDone stale bs s).psc.storeMiB = s.psc.storeMiB ∧
    (fillDone stale bs s).psc.poolSize = s.psc.poolSize ∧
    (fillDone stale bs s).psc.refreshInterval = s.psc.refreshInterval ∧
    (fillDone stale bs s).psc.refreshMerged = s.psc.refreshMerged ∧ (fillDone stale bs s).dram = s.dram ∧
    (fillDone stale bs s).sct.sets.length = s.sct.sets.length ∧
    (fillDone stale bs s).sct.tileBuf = s.sct.tileBuf ∧ (fillDone stale bs s).imp.nrev = s.imp.nrev ∧
    (fillDone stale bs s).imp.lead = s.imp.lead ∧ (fillDone stale bs s).imp.swath = s.imp.swath ∧
    (fillDone stale bs s).imp.half = s.imp.half ∧ (fillDone stale bs s).imp.dwellLimit = s.imp.dwellLimit ∧
    (fillDone stale bs s).imp.watermark = s.imp.watermark ∧
    (fillDone stale bs s).imp.ring.length = s.imp.ring.length ∧
    (fillDone stale bs s).imp.nextFetch = s.imp.nextFetch ∧
    (fillDone stale bs s).imp.nextSend = s.imp.nextSend ∧
    (fillDone stale bs s).imp.recordTaken = s.imp.recordTaken ∧
    (fillDone stale bs s).imp.headWord = s.imp.headWord ∧ (fillDone stale bs s).hmon = s.hmon ∧
    (fillDone stale bs s).freeIndex = s.freeIndex ∧ (fillDone stale bs s).pending = s.pending := by
  unfold fillDone
  dsimp only
  (repeat' split) <;> simp

@[simp] theorem discardFrame_keeps (s : State) :
    (discardFrame s).part = s.part ∧ (discardFrame s).resetHeld = s.resetHeld ∧
    (discardFrame s).lp.cmdQueue = s.lp.cmdQueue ∧ (discardFrame s).lp.replyReserved = s.lp.replyReserved ∧
    (discardFrame s).lp.replyFinished = s.lp.replyFinished ∧ (discardFrame s).lp.reports = s.lp.reports ∧
    (discardFrame s).lp.tx = s.lp.tx ∧ (discardFrame s).lp.overrun = s.lp.overrun ∧
    (discardFrame s).lp.reportsLost = s.lp.reportsLost ∧
    (discardFrame s).lp.watchdogPeriod = s.lp.watchdogPeriod ∧
    (discardFrame s).lp.watchdogRunning = s.lp.watchdogRunning ∧
    (discardFrame s).lp.unattended = s.lp.unattended ∧ (discardFrame s).lp.linkLost = s.lp.linkLost ∧
    (discardFrame s).prx = s.prx ∧ (discardFrame s).pdir = s.pdir ∧ (discardFrame s).psc = s.psc ∧
    (discardFrame s).dram = s.dram ∧ (discardFrame s).sct = s.sct ∧ (discardFrame s).ru = s.ru ∧
    (discardFrame s).psch = s.psch ∧ (discardFrame s).imp = s.imp ∧ (discardFrame s).hmon = s.hmon ∧
    (discardFrame s).drec = s.drec ∧ (discardFrame s).freeIndex = s.freeIndex ∧
    (discardFrame s).pending = s.pending := by
  simp [discardFrame]

@[simp] theorem acceptFrame_keeps (f : Frame) (s : State) :
    (acceptFrame f s).part = s.part ∧ (acceptFrame f s).resetHeld = s.resetHeld ∧
    (acceptFrame f s).prx.contexts.length = s.prx.contexts.length ∧
    (acceptFrame f s).prx.timeout = s.prx.timeout ∧
    (acceptFrame f s).pdir.entries.length = s.pdir.entries.length ∧
    (acceptFrame f s).pdir.counter = s.pdir.counter ∧ (acceptFrame f s).psc.storeMiB = s.psc.storeMiB ∧
    (acceptFrame f s).psc.poolSize = s.psc.poolSize ∧
    (acceptFrame f s).psc.refreshInterval = s.psc.refreshInterval ∧
    (acceptFrame f s).psc.refreshMerged = s.psc.refreshMerged ∧ (acceptFrame f s).dram = s.dram ∧
    (acceptFrame f s).sct.sets = s.sct.sets ∧ (acceptFrame f s).sct.cache = s.sct.cache ∧
    (acceptFrame f s).sct.tileBuf = s.sct.tileBuf ∧ (acceptFrame f s).imp.nrev = s.imp.nrev ∧
    (acceptFrame f s).imp.lead = s.imp.lead ∧ (acceptFrame f s).imp.swath = s.imp.swath ∧
    (acceptFrame f s).imp.half = s.imp.half ∧ (acceptFrame f s).imp.dwellLimit = s.imp.dwellLimit ∧
    (acceptFrame f s).imp.watermark = s.imp.watermark ∧ (acceptFrame f s).imp.ring.length = s.imp.ring.length ∧
    (acceptFrame f s).imp.nextFetch = s.imp.nextFetch ∧ (acceptFrame f s).imp.nextSend = s.imp.nextSend ∧
    (acceptFrame f s).imp.recordTaken = s.imp.recordTaken ∧ (acceptFrame f s).imp.headWord = s.imp.headWord ∧
    (acceptFrame f s).hmon = s.hmon ∧ (acceptFrame f s).freeIndex = s.freeIndex ∧
    (acceptFrame f s).pending = s.pending := by
  unfold acceptFrame
  (repeat' split) <;> simp

@[simp] theorem receiveByte_keeps (b : Byte) (s : State) :
    (receiveByte b s).part = s.part ∧ (receiveByte b s).resetHeld = s.resetHeld ∧
    (receiveByte b s).prx.contexts.length = s.prx.contexts.length ∧
    (receiveByte b s).prx.timeout = s.prx.timeout ∧
    (receiveByte b s).pdir.entries.length = s.pdir.entries.length ∧
    (receiveByte b s).pdir.counter = s.pdir.counter ∧ (receiveByte b s).psc.storeMiB = s.psc.storeMiB ∧
    (receiveByte b s).psc.poolSize = s.psc.poolSize ∧
    (receiveByte b s).psc.refreshInterval = s.psc.refreshInterval ∧
    (receiveByte b s).psc.refreshMerged = s.psc.refreshMerged ∧ (receiveByte b s).dram = s.dram ∧
    (receiveByte b s).sct.sets = s.sct.sets ∧ (receiveByte b s).sct.cache = s.sct.cache ∧
    (receiveByte b s).sct.tileBuf = s.sct.tileBuf ∧ (receiveByte b s).imp.nrev = s.imp.nrev ∧
    (receiveByte b s).imp.lead = s.imp.lead ∧ (receiveByte b s).imp.swath = s.imp.swath ∧
    (receiveByte b s).imp.half = s.imp.half ∧ (receiveByte b s).imp.dwellLimit = s.imp.dwellLimit ∧
    (receiveByte b s).imp.watermark = s.imp.watermark ∧ (receiveByte b s).imp.ring.length = s.imp.ring.length ∧
    (receiveByte b s).imp.nextFetch = s.imp.nextFetch ∧ (receiveByte b s).imp.nextSend = s.imp.nextSend ∧
    (receiveByte b s).imp.recordTaken = s.imp.recordTaken ∧ (receiveByte b s).imp.headWord = s.imp.headWord ∧
    (receiveByte b s).hmon = s.hmon ∧ (receiveByte b s).freeIndex = s.freeIndex ∧
    (receiveByte b s).pending = s.pending := by
  unfold receiveByte
  dsimp only
  (repeat' split) <;> simp

@[simp] theorem testIfEntriesChanged_keeps (b s : State) :
    (testIfEntriesChanged b s).part = s.part ∧ (testIfEntriesChanged b s).resetHeld = s.resetHeld ∧
    (testIfEntriesChanged b s).lp.framer = s.lp.framer ∧
    (testIfEntriesChanged b s).lp.cmdQueue = s.lp.cmdQueue ∧
    (testIfEntriesChanged b s).lp.replyReserved = s.lp.replyReserved ∧
    (testIfEntriesChanged b s).lp.replyFinished = s.lp.replyFinished ∧
    (testIfEntriesChanged b s).lp.tx = s.lp.tx ∧ (testIfEntriesChanged b s).lp.linkErrors = s.lp.linkErrors ∧
    (testIfEntriesChanged b s).lp.overrun = s.lp.overrun ∧
    (testIfEntriesChanged b s).lp.watchdogPeriod = s.lp.watchdogPeriod ∧
    (testIfEntriesChanged b s).lp.watchdogRunning = s.lp.watchdogRunning ∧
    (testIfEntriesChanged b s).lp.unattended = s.lp.unattended ∧
    (testIfEntriesChanged b s).lp.linkLost = s.lp.linkLost ∧
    (testIfEntriesChanged b s).prx.contexts.length = s.prx.contexts.length ∧
    (testIfEntriesChanged b s).prx.timeout = s.prx.timeout ∧
    (testIfEntriesChanged b s).pdir.entries.length = s.pdir.entries.length ∧
    (testIfEntriesChanged b s).pdir.counter = s.pdir.counter ∧
    (testIfEntriesChanged b s).psc.storeMiB = s.psc.storeMiB ∧
    (testIfEntriesChanged b s).psc.poolSize = s.psc.poolSize ∧
    (testIfEntriesChanged b s).psc.refreshInterval = s.psc.refreshInterval ∧
    (testIfEntriesChanged b s).psc.refreshMerged = s.psc.refreshMerged ∧
    (testIfEntriesChanged b s).dram = s.dram ∧ (testIfEntriesChanged b s).sct.sets = s.sct.sets ∧
    (testIfEntriesChanged b s).sct.cache = s.sct.cache ∧
    (testIfEntriesChanged b s).sct.tileBuf = s.sct.tileBuf ∧ (testIfEntriesChanged b s).imp.nrev = s.imp.nrev ∧
    (testIfEntriesChanged b s).imp.lead = s.imp.lead ∧ (testIfEntriesChanged b s).imp.swath = s.imp.swath ∧
    (testIfEntriesChanged b s).imp.half = s.imp.half ∧
    (testIfEntriesChanged b s).imp.dwellLimit = s.imp.dwellLimit ∧
    (testIfEntriesChanged b s).imp.watermark = s.imp.watermark ∧
    (testIfEntriesChanged b s).imp.ring.length = s.imp.ring.length ∧
    (testIfEntriesChanged b s).imp.nextFetch = s.imp.nextFetch ∧
    (testIfEntriesChanged b s).imp.nextSend = s.imp.nextSend ∧
    (testIfEntriesChanged b s).imp.recordTaken = s.imp.recordTaken ∧
    (testIfEntriesChanged b s).imp.headWord = s.imp.headWord ∧ (testIfEntriesChanged b s).hmon = s.hmon ∧
    (testIfEntriesChanged b s).freeIndex = s.freeIndex ∧ (testIfEntriesChanged b s).pending = s.pending := by
  unfold testIfEntriesChanged
  (repeat' split) <;> simp

@[simp] theorem closeOlder_keeps (older : Option Nat) (s : State) :
    (closeOlder older s).part = s.part ∧ (closeOlder older s).resetHeld = s.resetHeld ∧
    (closeOlder older s).lp.framer = s.lp.framer ∧ (closeOlder older s).lp.cmdQueue = s.lp.cmdQueue ∧
    (closeOlder older s).lp.replyReserved = s.lp.replyReserved ∧
    (closeOlder older s).lp.replyFinished = s.lp.replyFinished ∧ (closeOlder older s).lp.tx = s.lp.tx ∧
    (closeOlder older s).lp.linkErrors = s.lp.linkErrors ∧ (closeOlder older s).lp.overrun = s.lp.overrun ∧
    (closeOlder older s).lp.watchdogPeriod = s.lp.watchdogPeriod ∧
    (closeOlder older s).lp.watchdogRunning = s.lp.watchdogRunning ∧
    (closeOlder older s).lp.unattended = s.lp.unattended ∧ (closeOlder older s).lp.linkLost = s.lp.linkLost ∧
    (closeOlder older s).prx.contexts.length = s.prx.contexts.length ∧
    (closeOlder older s).prx.timeout = s.prx.timeout ∧
    (closeOlder older s).pdir.entries.length = s.pdir.entries.length ∧
    (closeOlder older s).pdir.counter = s.pdir.counter ∧ (closeOlder older s).psc.storeMiB = s.psc.storeMiB ∧
    (closeOlder older s).psc.poolSize = s.psc.poolSize ∧
    (closeOlder older s).psc.refreshInterval = s.psc.refreshInterval ∧
    (closeOlder older s).psc.refreshMerged = s.psc.refreshMerged ∧ (closeOlder older s).dram = s.dram ∧
    (closeOlder older s).sct = s.sct ∧ (closeOlder older s).ru = s.ru ∧ (closeOlder older s).psch = s.psch ∧
    (closeOlder older s).imp = s.imp ∧ (closeOlder older s).hmon = s.hmon ∧ (closeOlder older s).drec = s.drec ∧
    (closeOlder older s).freeIndex = s.freeIndex ∧ (closeOlder older s).pending = s.pending := by
  unfold closeOlder
  (repeat' split) <;> simp

@[simp] theorem expireReception_keeps (c : Context) (s : State) :
    (expireReception c s).part = s.part ∧ (expireReception c s).resetHeld = s.resetHeld ∧
    (expireReception c s).lp.framer = s.lp.framer ∧ (expireReception c s).lp.cmdQueue = s.lp.cmdQueue ∧
    (expireReception c s).lp.replyReserved = s.lp.replyReserved ∧
    (expireReception c s).lp.replyFinished = s.lp.replyFinished ∧ (expireReception c s).lp.tx = s.lp.tx ∧
    (expireReception c s).lp.linkErrors = s.lp.linkErrors ∧ (expireReception c s).lp.overrun = s.lp.overrun ∧
    (expireReception c s).lp.watchdogPeriod = s.lp.watchdogPeriod ∧
    (expireReception c s).lp.watchdogRunning = s.lp.watchdogRunning ∧
    (expireReception c s).lp.unattended = s.lp.unattended ∧ (expireReception c s).lp.linkLost = s.lp.linkLost ∧
    (expireReception c s).prx.contexts.length = s.prx.contexts.length ∧
    (expireReception c s).prx.timeout = s.prx.timeout ∧
    (expireReception c s).pdir.entries.length = s.pdir.entries.length ∧
    (expireReception c s).pdir.counter = s.pdir.counter ∧ (expireReception c s).psc.storeMiB = s.psc.storeMiB ∧
    (expireReception c s).psc.poolSize = s.psc.poolSize ∧
    (expireReception c s).psc.refreshInterval = s.psc.refreshInterval ∧
    (expireReception c s).psc.refreshMerged = s.psc.refreshMerged ∧ (expireReception c s).dram = s.dram ∧
    (expireReception c s).sct.sets = s.sct.sets ∧ (expireReception c s).sct.cache = s.sct.cache ∧
    (expireReception c s).sct.tileBuf = s.sct.tileBuf ∧ (expireReception c s).imp.nrev = s.imp.nrev ∧
    (expireReception c s).imp.lead = s.imp.lead ∧ (expireReception c s).imp.swath = s.imp.swath ∧
    (expireReception c s).imp.half = s.imp.half ∧ (expireReception c s).imp.dwellLimit = s.imp.dwellLimit ∧
    (expireReception c s).imp.watermark = s.imp.watermark ∧
    (expireReception c s).imp.ring.length = s.imp.ring.length ∧
    (expireReception c s).imp.nextFetch = s.imp.nextFetch ∧
    (expireReception c s).imp.nextSend = s.imp.nextSend ∧
    (expireReception c s).imp.recordTaken = s.imp.recordTaken ∧
    (expireReception c s).imp.headWord = s.imp.headWord ∧ (expireReception c s).hmon = s.hmon ∧
    (expireReception c s).freeIndex = s.freeIndex ∧ (expireReception c s).pending = s.pending := by
  simp [expireReception]

@[simp] theorem prxCompletion_keeps (stale : Bool) (s : State) :
    (prxCompletion stale s).part = s.part ∧ (prxCompletion stale s).resetHeld = s.resetHeld ∧
    (prxCompletion stale s).lp.framer = s.lp.framer ∧ (prxCompletion stale s).lp.cmdQueue = s.lp.cmdQueue ∧
    (prxCompletion stale s).lp.replyReserved = s.lp.replyReserved ∧
    (prxCompletion stale s).lp.replyFinished = s.lp.replyFinished ∧ (prxCompletion stale s).lp.tx = s.lp.tx ∧
    (prxCompletion stale s).lp.linkErrors = s.lp.linkErrors ∧
    (prxCompletion stale s).lp.overrun = s.lp.overrun ∧
    (prxCompletion stale s).lp.watchdogPeriod = s.lp.watchdogPeriod ∧
    (prxCompletion stale s).lp.watchdogRunning = s.lp.watchdogRunning ∧
    (prxCompletion stale s).lp.unattended = s.lp.unattended ∧
    (prxCompletion stale s).lp.linkLost = s.lp.linkLost ∧
    (prxCompletion stale s).prx.contexts.length = s.prx.contexts.length ∧
    (prxCompletion stale s).prx.timeout = s.prx.timeout ∧
    (prxCompletion stale s).pdir.entries.length = s.pdir.entries.length ∧
    (prxCompletion stale s).pdir.counter = s.pdir.counter ∧
    (prxCompletion stale s).psc.storeMiB = s.psc.storeMiB ∧
    (prxCompletion stale s).psc.poolSize = s.psc.poolSize ∧
    (prxCompletion stale s).psc.refreshInterval = s.psc.refreshInterval ∧
    (prxCompletion stale s).psc.refreshMerged = s.psc.refreshMerged ∧ (prxCompletion stale s).dram = s.dram ∧
    (prxCompletion stale s).sct.sets = s.sct.sets ∧ (prxCompletion stale s).sct.cache = s.sct.cache ∧
    (prxCompletion stale s).sct.tileBuf = s.sct.tileBuf ∧ (prxCompletion stale s).imp.nrev = s.imp.nrev ∧
    (prxCompletion stale s).imp.lead = s.imp.lead ∧ (prxCompletion stale s).imp.swath = s.imp.swath ∧
    (prxCompletion stale s).imp.half = s.imp.half ∧ (prxCompletion stale s).imp.dwellLimit = s.imp.dwellLimit ∧
    (prxCompletion stale s).imp.watermark = s.imp.watermark ∧
    (prxCompletion stale s).imp.ring.length = s.imp.ring.length ∧
    (prxCompletion stale s).imp.nextFetch = s.imp.nextFetch ∧
    (prxCompletion stale s).imp.nextSend = s.imp.nextSend ∧
    (prxCompletion stale s).imp.recordTaken = s.imp.recordTaken ∧
    (prxCompletion stale s).imp.headWord = s.imp.headWord ∧ (prxCompletion stale s).hmon = s.hmon ∧
    (prxCompletion stale s).freeIndex = s.freeIndex ∧ (prxCompletion stale s).pending = s.pending := by
  simp [prxCompletion]

@[simp] theorem mergeRefresh_keeps (s : State) :
    (mergeRefresh s).part = s.part ∧ (mergeRefresh s).resetHeld = s.resetHeld ∧
    (mergeRefresh s).lp.framer = s.lp.framer ∧ (mergeRefresh s).lp.cmdQueue = s.lp.cmdQueue ∧
    (mergeRefresh s).lp.replyReserved = s.lp.replyReserved ∧
    (mergeRefresh s).lp.replyFinished = s.lp.replyFinished ∧ (mergeRefresh s).lp.tx = s.lp.tx ∧
    (mergeRefresh s).lp.linkErrors = s.lp.linkErrors ∧ (mergeRefresh s).lp.overrun = s.lp.overrun ∧
    (mergeRefresh s).lp.watchdogPeriod = s.lp.watchdogPeriod ∧
    (mergeRefresh s).lp.watchdogRunning = s.lp.watchdogRunning ∧
    (mergeRefresh s).lp.unattended = s.lp.unattended ∧ (mergeRefresh s).lp.linkLost = s.lp.linkLost ∧
    (mergeRefresh s).prx.contexts.length = s.prx.contexts.length ∧
    (mergeRefresh s).prx.timeout = s.prx.timeout ∧
    (mergeRefresh s).pdir.entries.length = s.pdir.entries.length ∧
    (mergeRefresh s).pdir.counter = s.pdir.counter ∧ (mergeRefresh s).psc.storeMiB = s.psc.storeMiB ∧
    (mergeRefresh s).psc.poolSize = s.psc.poolSize ∧
    (mergeRefresh s).psc.refreshInterval = s.psc.refreshInterval ∧ (mergeRefresh s).sct.sets = s.sct.sets ∧
    (mergeRefresh s).sct.cache = s.sct.cache ∧ (mergeRefresh s).sct.tileBuf = s.sct.tileBuf ∧
    (mergeRefresh s).imp.nrev = s.imp.nrev ∧ (mergeRefresh s).imp.lead = s.imp.lead ∧
    (mergeRefresh s).imp.swath = s.imp.swath ∧ (mergeRefresh s).imp.half = s.imp.half ∧
    (mergeRefresh s).imp.dwellLimit = s.imp.dwellLimit ∧ (mergeRefresh s).imp.watermark = s.imp.watermark ∧
    (mergeRefresh s).imp.ring.length = s.imp.ring.length ∧ (mergeRefresh s).imp.nextFetch = s.imp.nextFetch ∧
    (mergeRefresh s).imp.nextSend = s.imp.nextSend ∧ (mergeRefresh s).imp.recordTaken = s.imp.recordTaken ∧
    (mergeRefresh s).imp.headWord = s.imp.headWord ∧ (mergeRefresh s).hmon = s.hmon ∧
    (mergeRefresh s).pending = s.pending := by
  simp [mergeRefresh]

@[simp] theorem emptySets_keeps (s : State) :
    (emptySets s).part = s.part ∧ (emptySets s).resetHeld = s.resetHeld ∧ (emptySets s).lp = s.lp ∧
    (emptySets s).prx = s.prx ∧ (emptySets s).pdir = s.pdir ∧ (emptySets s).psc = s.psc ∧
    (emptySets s).dram = s.dram ∧ (emptySets s).sct.sets.length = s.sct.sets.length ∧
    (emptySets s).sct.cache = s.sct.cache ∧ (emptySets s).sct.tileBuf = s.sct.tileBuf ∧
    (emptySets s).sct.fill = s.sct.fill ∧ (emptySets s).ru = s.ru ∧ (emptySets s).psch = s.psch ∧
    (emptySets s).imp = s.imp ∧ (emptySets s).hmon = s.hmon ∧ (emptySets s).drec = s.drec ∧
    (emptySets s).freeIndex = s.freeIndex ∧ (emptySets s).pending = s.pending := by
  simp [emptySets]

@[simp] theorem applySettings_keeps (x : Settings) (s : State) :
    (applySettings x s).resetHeld = s.resetHeld ∧ (applySettings x s).lp.framer = s.lp.framer ∧
    (applySettings x s).lp.cmdQueue = s.lp.cmdQueue ∧
    (applySettings x s).lp.replyReserved = s.lp.replyReserved ∧
    (applySettings x s).lp.replyFinished = s.lp.replyFinished ∧ (applySettings x s).lp.reports = s.lp.reports ∧
    (applySettings x s).lp.tx = s.lp.tx ∧ (applySettings x s).lp.linkErrors = s.lp.linkErrors ∧
    (applySettings x s).lp.overrun = s.lp.overrun ∧ (applySettings x s).lp.reportsLost = s.lp.reportsLost ∧
    (applySettings x s).lp.unattended = s.lp.unattended ∧ (applySettings x s).lp.linkLost = s.lp.linkLost ∧
    (applySettings x s).prx.contexts = s.prx.contexts ∧ (applySettings x s).prx.chunk = s.prx.chunk ∧
    (applySettings x s).pdir = s.pdir ∧ (applySettings x s).dram = s.dram ∧
    (applySettings x s).sct.sets.length = s.sct.sets.length ∧ (applySettings x s).sct.cache = s.sct.cache ∧
    (applySettings x s).sct.tileBuf = s.sct.tileBuf ∧ (applySettings x s).sct.fill = s.sct.fill ∧
    (applySettings x s).ru = s.ru ∧ (applySettings x s).psch = s.psch ∧ (applySettings x s).imp = s.imp ∧
    (applySettings x s).hmon.channels = s.hmon.channels ∧
    (applySettings x s).hmon.plateLoaded = s.hmon.plateLoaded ∧
    (applySettings x s).hmon.drumReady = s.hmon.drumReady ∧
    (applySettings x s).hmon.nrev = s.hmon.nrev ∧
    (applySettings x s).hmon.slotCount = s.hmon.slotCount ∧ (applySettings x s).hmon.overdue = s.hmon.overdue ∧
    (applySettings x s).hmon.indexLost = s.hmon.indexLost ∧ (applySettings x s).hmon.test = s.hmon.test ∧
    (applySettings x s).hmon.highFailed = s.hmon.highFailed ∧
    (applySettings x s).hmon.lowFailed = s.hmon.lowFailed ∧ (applySettings x s).drec = s.drec ∧
    (applySettings x s).freeIndex = s.freeIndex ∧ (applySettings x s).pending = s.pending := by
  unfold applySettings
  dsimp only
  (repeat' split) <;> simp

@[simp] theorem restartPart_keeps (s : State) :
    (restartPart s).part = s.part ∧ (restartPart s).resetHeld = s.resetHeld ∧
    (restartPart s).prx.contexts.length = s.prx.contexts.length ∧ (restartPart s).prx.timeout = s.prx.timeout ∧
    (restartPart s).dram = s.dram ∧ (restartPart s).sct.sets.length = s.sct.sets.length ∧
    (restartPart s).sct.cache = s.sct.cache ∧ (restartPart s).sct.tileBuf = s.sct.tileBuf ∧
    (restartPart s).ru.lineArt = s.ru.lineArt ∧ (restartPart s).ru.screen = s.ru.screen ∧
    (restartPart s).ru.windows = s.ru.windows ∧ (restartPart s).psch.fresh = s.psch.fresh ∧
    (restartPart s).imp.nrev = s.imp.nrev ∧ (restartPart s).imp.lead = s.imp.lead ∧
    (restartPart s).imp.swath = s.imp.swath ∧ (restartPart s).imp.half = s.imp.half ∧
    (restartPart s).imp.dwellLimit = s.imp.dwellLimit ∧ (restartPart s).imp.watermark = s.imp.watermark ∧
    (restartPart s).imp.ring.length = s.imp.ring.length ∧ (restartPart s).imp.nextFetch = s.imp.nextFetch ∧
    (restartPart s).imp.nextSend = s.imp.nextSend ∧ (restartPart s).imp.recordTaken = s.imp.recordTaken ∧
    (restartPart s).imp.headWord = s.imp.headWord ∧ (restartPart s).freeIndex = s.freeIndex ∧
    (restartPart s).pending = s.pending := by
  unfold restartPart
  dsimp only
  (repeat' split) <;> simp

@[simp] theorem setChannel_keeps (k : Nat) (c : Channel) (s : State) :
    (setChannel k c s).part = s.part ∧ (setChannel k c s).resetHeld = s.resetHeld ∧
    (setChannel k c s).lp = s.lp ∧ (setChannel k c s).prx = s.prx ∧ (setChannel k c s).pdir = s.pdir ∧
    (setChannel k c s).psc = s.psc ∧ (setChannel k c s).dram = s.dram ∧ (setChannel k c s).sct = s.sct ∧
    (setChannel k c s).ru = s.ru ∧ (setChannel k c s).psch = s.psch ∧ (setChannel k c s).imp = s.imp ∧
    (setChannel k c s).hmon.channels.length = s.hmon.channels.length ∧
    (setChannel k c s).hmon.plateLoaded = s.hmon.plateLoaded ∧
    (setChannel k c s).hmon.drumReady = s.hmon.drumReady ∧
    (setChannel k c s).hmon.nrev = s.hmon.nrev ∧
    (setChannel k c s).hmon.slotCount = s.hmon.slotCount ∧ (setChannel k c s).hmon.overdue = s.hmon.overdue ∧
    (setChannel k c s).hmon.indexLost = s.hmon.indexLost ∧
    (setChannel k c s).hmon.tolerance = s.hmon.tolerance ∧
    (setChannel k c s).hmon.clockLoss = s.hmon.clockLoss ∧ (setChannel k c s).hmon.test = s.hmon.test ∧
    (setChannel k c s).hmon.highFailed = s.hmon.highFailed ∧
    (setChannel k c s).hmon.lowFailed = s.hmon.lowFailed ∧ (setChannel k c s).drec = s.drec ∧
    (setChannel k c s).freeIndex = s.freeIndex ∧ (setChannel k c s).pending = s.pending := by
  simp [setChannel]

@[simp] theorem storeHead_keeps (x : HeadSettings) (s : State) :
    (storeHead x s).part = s.part ∧ (storeHead x s).resetHeld = s.resetHeld ∧ (storeHead x s).lp = s.lp ∧
    (storeHead x s).prx = s.prx ∧ (storeHead x s).pdir = s.pdir ∧ (storeHead x s).psc = s.psc ∧
    (storeHead x s).dram = s.dram ∧ (storeHead x s).sct = s.sct ∧ (storeHead x s).ru = s.ru ∧
    (storeHead x s).psch = s.psch ∧ (storeHead x s).imp.ring = s.imp.ring ∧
    (storeHead x s).imp.rev = s.imp.rev ∧ (storeHead x s).imp.prev = s.imp.prev ∧
    (storeHead x s).imp.closing = s.imp.closing ∧ (storeHead x s).imp.exposed = s.imp.exposed ∧
    (storeHead x s).imp.firstExpose = s.imp.firstExpose ∧ (storeHead x s).imp.dwellCount = s.imp.dwellCount ∧
    (storeHead x s).imp.steps = s.imp.steps ∧ (storeHead x s).imp.cancelPending = s.imp.cancelPending ∧
    (storeHead x s).imp.endDecided = s.imp.endDecided ∧ (storeHead x s).imp.fifo = s.imp.fifo ∧
    (storeHead x s).imp.nextFetch = s.imp.nextFetch ∧ (storeHead x s).imp.nextSend = s.imp.nextSend ∧
    (storeHead x s).imp.refill = s.imp.refill ∧ (storeHead x s).imp.underrun = s.imp.underrun ∧
    (storeHead x s).imp.recordTaken = s.imp.recordTaken ∧ (storeHead x s).imp.headWord = s.imp.headWord ∧
    (storeHead x s).hmon.channels.length = s.hmon.channels.length ∧
    (storeHead x s).hmon.plateLoaded = s.hmon.plateLoaded ∧ (storeHead x s).hmon.drumReady = s.hmon.drumReady ∧
    (storeHead x s).hmon.nrev = s.hmon.nrev ∧
    (storeHead x s).hmon.slotCount = s.hmon.slotCount ∧ (storeHead x s).hmon.overdue = s.hmon.overdue ∧
    (storeHead x s).hmon.indexLost = s.hmon.indexLost ∧ (storeHead x s).hmon.tolerance = s.hmon.tolerance ∧
    (storeHead x s).hmon.clockLoss = s.hmon.clockLoss ∧ (storeHead x s).hmon.test = s.hmon.test ∧
    (storeHead x s).hmon.highFailed = s.hmon.highFailed ∧ (storeHead x s).hmon.lowFailed = s.hmon.lowFailed ∧
    (storeHead x s).drec = s.drec ∧ (storeHead x s).freeIndex = s.freeIndex ∧
    (storeHead x s).pending = s.pending := by
  simp [storeHead, storeWindows]

@[simp] theorem clearChannels_keeps (m : Word) (s : State) :
    (clearChannels m s).part = s.part ∧ (clearChannels m s).resetHeld = s.resetHeld ∧
    (clearChannels m s).lp = s.lp ∧ (clearChannels m s).prx = s.prx ∧ (clearChannels m s).pdir = s.pdir ∧
    (clearChannels m s).psc = s.psc ∧ (clearChannels m s).dram = s.dram ∧ (clearChannels m s).sct = s.sct ∧
    (clearChannels m s).ru = s.ru ∧ (clearChannels m s).psch = s.psch ∧ (clearChannels m s).imp = s.imp ∧
    (clearChannels m s).hmon.channels.length = s.hmon.channels.length ∧
    (clearChannels m s).hmon.plateLoaded = s.hmon.plateLoaded ∧
    (clearChannels m s).hmon.drumReady = s.hmon.drumReady ∧
    (clearChannels m s).hmon.nrev = s.hmon.nrev ∧
    (clearChannels m s).hmon.slotCount = s.hmon.slotCount ∧ (clearChannels m s).hmon.overdue = s.hmon.overdue ∧
    (clearChannels m s).hmon.indexLost = s.hmon.indexLost ∧
    (clearChannels m s).hmon.tolerance = s.hmon.tolerance ∧
    (clearChannels m s).hmon.clockLoss = s.hmon.clockLoss ∧ (clearChannels m s).hmon.test = s.hmon.test ∧
    (clearChannels m s).hmon.highFailed = s.hmon.highFailed ∧
    (clearChannels m s).hmon.lowFailed = s.hmon.lowFailed ∧ (clearChannels m s).drec = s.drec ∧
    (clearChannels m s).freeIndex = s.freeIndex ∧ (clearChannels m s).pending = s.pending := by
  simp [clearChannels]

@[simp] theorem finishTest_keeps (code : Byte) (fields : List Byte) (s : State) :
    (finishTest code fields s).part = s.part ∧ (finishTest code fields s).resetHeld = s.resetHeld ∧
    (finishTest code fields s).lp.framer = s.lp.framer ∧
    (finishTest code fields s).lp.cmdQueue = s.lp.cmdQueue ∧ (finishTest code fields s).lp.tx = s.lp.tx ∧
    (finishTest code fields s).lp.linkErrors = s.lp.linkErrors ∧
    (finishTest code fields s).lp.overrun = s.lp.overrun ∧
    (finishTest code fields s).lp.watchdogPeriod = s.lp.watchdogPeriod ∧
    (finishTest code fields s).lp.watchdogRunning = s.lp.watchdogRunning ∧
    (finishTest code fields s).lp.unattended = s.lp.unattended ∧
    (finishTest code fields s).lp.linkLost = s.lp.linkLost ∧
    (finishTest code fields s).prx.contexts.length = s.prx.contexts.length ∧
    (finishTest code fields s).prx.timeout = s.prx.timeout ∧
    (finishTest code fields s).pdir.entries.length = s.pdir.entries.length ∧
    (finishTest code fields s).pdir.counter = s.pdir.counter ∧
    (finishTest code fields s).psc.storeMiB = s.psc.storeMiB ∧
    (finishTest code fields s).psc.poolSize = s.psc.poolSize ∧
    (finishTest code fields s).psc.refreshInterval = s.psc.refreshInterval ∧
    (finishTest code fields s).psc.refreshMerged = s.psc.refreshMerged ∧
    (finishTest code fields s).dram = s.dram ∧ (finishTest code fields s).sct.sets = s.sct.sets ∧
    (finishTest code fields s).sct.cache = s.sct.cache ∧
    (finishTest code fields s).sct.tileBuf = s.sct.tileBuf ∧ (finishTest code fields s).imp.nrev = s.imp.nrev ∧
    (finishTest code fields s).imp.lead = s.imp.lead ∧ (finishTest code fields s).imp.swath = s.imp.swath ∧
    (finishTest code fields s).imp.half = s.imp.half ∧
    (finishTest code fields s).imp.dwellLimit = s.imp.dwellLimit ∧
    (finishTest code fields s).imp.watermark = s.imp.watermark ∧
    (finishTest code fields s).imp.ring.length = s.imp.ring.length ∧
    (finishTest code fields s).imp.nextFetch = s.imp.nextFetch ∧
    (finishTest code fields s).imp.nextSend = s.imp.nextSend ∧
    (finishTest code fields s).imp.recordTaken = s.imp.recordTaken ∧
    (finishTest code fields s).imp.headWord = s.imp.headWord ∧
    (finishTest code fields s).hmon.channels = s.hmon.channels ∧
    (finishTest code fields s).hmon.plateLoaded = s.hmon.plateLoaded ∧
    (finishTest code fields s).hmon.drumReady = s.hmon.drumReady ∧
    (finishTest code fields s).hmon.nrev = s.hmon.nrev ∧
    (finishTest code fields s).hmon.slotCount = s.hmon.slotCount ∧
    (finishTest code fields s).hmon.overdue = s.hmon.overdue ∧
    (finishTest code fields s).hmon.indexLost = s.hmon.indexLost ∧
    (finishTest code fields s).hmon.tolerance = s.hmon.tolerance ∧
    (finishTest code fields s).hmon.clockLoss = s.hmon.clockLoss ∧
    (finishTest code fields s).hmon.highFailed = s.hmon.highFailed ∧
    (finishTest code fields s).hmon.lowFailed = s.hmon.lowFailed ∧
    (finishTest code fields s).freeIndex = s.freeIndex ∧ (finishTest code fields s).pending = s.pending := by
  unfold finishTest
  (repeat' split) <;> simp

@[simp] theorem abandonTest_keeps (s : State) :
    (abandonTest s).part = s.part ∧ (abandonTest s).resetHeld = s.resetHeld ∧
    (abandonTest s).lp.framer = s.lp.framer ∧ (abandonTest s).lp.cmdQueue = s.lp.cmdQueue ∧
    (abandonTest s).lp.tx = s.lp.tx ∧ (abandonTest s).lp.linkErrors = s.lp.linkErrors ∧
    (abandonTest s).lp.overrun = s.lp.overrun ∧ (abandonTest s).lp.watchdogPeriod = s.lp.watchdogPeriod ∧
    (abandonTest s).lp.watchdogRunning = s.lp.watchdogRunning ∧
    (abandonTest s).lp.unattended = s.lp.unattended ∧ (abandonTest s).lp.linkLost = s.lp.linkLost ∧
    (abandonTest s).prx.contexts.length = s.prx.contexts.length ∧ (abandonTest s).prx.timeout = s.prx.timeout ∧
    (abandonTest s).pdir.entries.length = s.pdir.entries.length ∧
    (abandonTest s).pdir.counter = s.pdir.counter ∧ (abandonTest s).psc.storeMiB = s.psc.storeMiB ∧
    (abandonTest s).psc.poolSize = s.psc.poolSize ∧
    (abandonTest s).psc.refreshInterval = s.psc.refreshInterval ∧
    (abandonTest s).psc.refreshMerged = s.psc.refreshMerged ∧ (abandonTest s).dram = s.dram ∧
    (abandonTest s).sct.sets = s.sct.sets ∧ (abandonTest s).sct.cache = s.sct.cache ∧
    (abandonTest s).sct.tileBuf = s.sct.tileBuf ∧ (abandonTest s).imp.nrev = s.imp.nrev ∧
    (abandonTest s).imp.lead = s.imp.lead ∧ (abandonTest s).imp.swath = s.imp.swath ∧
    (abandonTest s).imp.half = s.imp.half ∧ (abandonTest s).imp.dwellLimit = s.imp.dwellLimit ∧
    (abandonTest s).imp.watermark = s.imp.watermark ∧ (abandonTest s).imp.ring.length = s.imp.ring.length ∧
    (abandonTest s).imp.nextFetch = s.imp.nextFetch ∧ (abandonTest s).imp.nextSend = s.imp.nextSend ∧
    (abandonTest s).imp.recordTaken = s.imp.recordTaken ∧ (abandonTest s).imp.headWord = s.imp.headWord ∧
    (abandonTest s).hmon.channels = s.hmon.channels ∧ (abandonTest s).hmon.plateLoaded = s.hmon.plateLoaded ∧
    (abandonTest s).hmon.drumReady = s.hmon.drumReady ∧ (abandonTest s).hmon.nrev = s.hmon.nrev ∧
    (abandonTest s).hmon.slotCount = s.hmon.slotCount ∧
    (abandonTest s).hmon.overdue = s.hmon.overdue ∧ (abandonTest s).hmon.indexLost = s.hmon.indexLost ∧
    (abandonTest s).hmon.tolerance = s.hmon.tolerance ∧ (abandonTest s).hmon.clockLoss = s.hmon.clockLoss ∧
    (abandonTest s).hmon.highFailed = s.hmon.highFailed ∧ (abandonTest s).hmon.lowFailed = s.hmon.lowFailed ∧
    (abandonTest s).freeIndex = s.freeIndex ∧ (abandonTest s).pending = s.pending := by
  simp [abandonTest]

@[simp] theorem checkHead_keeps (r : HeadRecord) (s : State) :
    (checkHead r s).part = s.part ∧ (checkHead r s).resetHeld = s.resetHeld ∧
    (checkHead r s).lp.framer = s.lp.framer ∧ (checkHead r s).lp.cmdQueue = s.lp.cmdQueue ∧
    (checkHead r s).lp.replyReserved = s.lp.replyReserved ∧
    (checkHead r s).lp.replyFinished = s.lp.replyFinished ∧ (checkHead r s).lp.tx = s.lp.tx ∧
    (checkHead r s).lp.linkErrors = s.lp.linkErrors ∧ (checkHead r s).lp.overrun = s.lp.overrun ∧
    (checkHead r s).lp.watchdogPeriod = s.lp.watchdogPeriod ∧
    (checkHead r s).lp.watchdogRunning = s.lp.watchdogRunning ∧
    (checkHead r s).lp.unattended = s.lp.unattended ∧ (checkHead r s).lp.linkLost = s.lp.linkLost ∧
    (checkHead r s).prx.contexts.length = s.prx.contexts.length ∧ (checkHead r s).prx.timeout = s.prx.timeout ∧
    (checkHead r s).pdir.entries.length = s.pdir.entries.length ∧
    (checkHead r s).pdir.counter = s.pdir.counter ∧ (checkHead r s).psc.storeMiB = s.psc.storeMiB ∧
    (checkHead r s).psc.poolSize = s.psc.poolSize ∧
    (checkHead r s).psc.refreshInterval = s.psc.refreshInterval ∧
    (checkHead r s).psc.refreshMerged = s.psc.refreshMerged ∧ (checkHead r s).dram = s.dram ∧
    (checkHead r s).sct.sets = s.sct.sets ∧ (checkHead r s).sct.cache = s.sct.cache ∧
    (checkHead r s).sct.tileBuf = s.sct.tileBuf ∧ (checkHead r s).imp.nrev = s.imp.nrev ∧
    (checkHead r s).imp.lead = s.imp.lead ∧ (checkHead r s).imp.swath = s.imp.swath ∧
    (checkHead r s).imp.half = s.imp.half ∧ (checkHead r s).imp.dwellLimit = s.imp.dwellLimit ∧
    (checkHead r s).imp.watermark = s.imp.watermark ∧ (checkHead r s).imp.ring.length = s.imp.ring.length ∧
    (checkHead r s).imp.nextFetch = s.imp.nextFetch ∧ (checkHead r s).imp.nextSend = s.imp.nextSend ∧
    (checkHead r s).imp.recordTaken = s.imp.recordTaken ∧ (checkHead r s).imp.headWord = s.imp.headWord ∧
    (checkHead r s).hmon = s.hmon ∧ (checkHead r s).freeIndex = s.freeIndex ∧
    (checkHead r s).pending = s.pending := by
  unfold checkHead
  (repeat' split) <;> simp

@[simp] theorem clearLines_keeps (s : State) :
    (clearLines s).part = s.part ∧ (clearLines s).resetHeld = s.resetHeld ∧ (clearLines s).lp = s.lp ∧
    (clearLines s).prx = s.prx ∧ (clearLines s).pdir = s.pdir ∧ (clearLines s).psc = s.psc ∧
    (clearLines s).dram = s.dram ∧ (clearLines s).sct = s.sct ∧ (clearLines s).ru = s.ru ∧
    (clearLines s).psch = s.psch ∧ (clearLines s).imp = s.imp ∧ (clearLines s).hmon = s.hmon ∧
    (clearLines s).drec.plateOpen = s.drec.plateOpen ∧ (clearLines s).drec.sweepHeight = s.drec.sweepHeight ∧
    (clearLines s).drec.geometry = s.drec.geometry ∧ (clearLines s).drec.list = s.drec.list ∧
    (clearLines s).drec.verdict = s.drec.verdict ∧ (clearLines s).freeIndex = s.freeIndex ∧
    (clearLines s).pending = s.pending := by
  simp [clearLines]

@[simp] theorem takeHeadState_keeps (r : HeadRecord) (s : State) :
    (takeHeadState r s).part = s.part ∧ (takeHeadState r s).resetHeld = s.resetHeld ∧
    (takeHeadState r s).lp.framer = s.lp.framer ∧ (takeHeadState r s).lp.cmdQueue = s.lp.cmdQueue ∧
    (takeHeadState r s).lp.replyReserved = s.lp.replyReserved ∧
    (takeHeadState r s).lp.replyFinished = s.lp.replyFinished ∧ (takeHeadState r s).lp.tx = s.lp.tx ∧
    (takeHeadState r s).lp.linkErrors = s.lp.linkErrors ∧ (takeHeadState r s).lp.overrun = s.lp.overrun ∧
    (takeHeadState r s).lp.watchdogPeriod = s.lp.watchdogPeriod ∧
    (takeHeadState r s).lp.watchdogRunning = s.lp.watchdogRunning ∧
    (takeHeadState r s).lp.unattended = s.lp.unattended ∧ (takeHeadState r s).lp.linkLost = s.lp.linkLost ∧
    (takeHeadState r s).prx.contexts.length = s.prx.contexts.length ∧
    (takeHeadState r s).prx.timeout = s.prx.timeout ∧
    (takeHeadState r s).pdir.entries.length = s.pdir.entries.length ∧
    (takeHeadState r s).pdir.counter = s.pdir.counter ∧ (takeHeadState r s).psc.storeMiB = s.psc.storeMiB ∧
    (takeHeadState r s).psc.poolSize = s.psc.poolSize ∧
    (takeHeadState r s).psc.refreshInterval = s.psc.refreshInterval ∧
    (takeHeadState r s).psc.refreshMerged = s.psc.refreshMerged ∧ (takeHeadState r s).dram = s.dram ∧
    (takeHeadState r s).sct.sets = s.sct.sets ∧ (takeHeadState r s).sct.cache = s.sct.cache ∧
    (takeHeadState r s).sct.tileBuf = s.sct.tileBuf ∧ (takeHeadState r s).imp.nrev = s.imp.nrev ∧
    (takeHeadState r s).imp.lead = s.imp.lead ∧ (takeHeadState r s).imp.swath = s.imp.swath ∧
    (takeHeadState r s).imp.half = s.imp.half ∧ (takeHeadState r s).imp.dwellLimit = s.imp.dwellLimit ∧
    (takeHeadState r s).imp.watermark = s.imp.watermark ∧
    (takeHeadState r s).imp.ring.length = s.imp.ring.length ∧
    (takeHeadState r s).imp.nextFetch = s.imp.nextFetch ∧ (takeHeadState r s).imp.nextSend = s.imp.nextSend ∧
    (takeHeadState r s).imp.recordTaken = s.imp.recordTaken ∧
    (takeHeadState r s).imp.headWord = s.imp.headWord ∧ (takeHeadState r s).hmon.channels = s.hmon.channels ∧
    (takeHeadState r s).hmon.nrev = s.hmon.nrev ∧
    (takeHeadState r s).hmon.slotCount = s.hmon.slotCount ∧ (takeHeadState r s).hmon.overdue = s.hmon.overdue ∧
    (takeHeadState r s).hmon.indexLost = s.hmon.indexLost ∧
    (takeHeadState r s).hmon.tolerance = s.hmon.tolerance ∧
    (takeHeadState r s).hmon.clockLoss = s.hmon.clockLoss ∧ (takeHeadState r s).hmon.test = s.hmon.test ∧
    (takeHeadState r s).hmon.highFailed = s.hmon.highFailed ∧
    (takeHeadState r s).hmon.lowFailed = s.hmon.lowFailed ∧ (takeHeadState r s).freeIndex = s.freeIndex ∧
    (takeHeadState r s).pending = s.pending := by
  unfold takeHeadState
  dsimp only
  (repeat' split) <;> simp

@[simp] theorem judgeReading_keeps (r : HeadRecord) (v : Revolution) (job : Nat) (s : State) (k : Nat) :
    (judgeReading r v job s k).part = s.part ∧ (judgeReading r v job s k).resetHeld = s.resetHeld ∧
    (judgeReading r v job s k).lp.framer = s.lp.framer ∧
    (judgeReading r v job s k).lp.cmdQueue = s.lp.cmdQueue ∧
    (judgeReading r v job s k).lp.replyReserved = s.lp.replyReserved ∧
    (judgeReading r v job s k).lp.replyFinished = s.lp.replyFinished ∧
    (judgeReading r v job s k).lp.tx = s.lp.tx ∧ (judgeReading r v job s k).lp.linkErrors = s.lp.linkErrors ∧
    (judgeReading r v job s k).lp.overrun = s.lp.overrun ∧
    (judgeReading r v job s k).lp.watchdogPeriod = s.lp.watchdogPeriod ∧
    (judgeReading r v job s k).lp.watchdogRunning = s.lp.watchdogRunning ∧
    (judgeReading r v job s k).lp.unattended = s.lp.unattended ∧
    (judgeReading r v job s k).lp.linkLost = s.lp.linkLost ∧ (judgeReading r v job s k).prx = s.prx ∧
    (judgeReading r v job s k).pdir = s.pdir ∧ (judgeReading r v job s k).psc = s.psc ∧
    (judgeReading r v job s k).dram = s.dram ∧ (judgeReading r v job s k).sct = s.sct ∧
    (judgeReading r v job s k).ru = s.ru ∧ (judgeReading r v job s k).psch = s.psch ∧
    (judgeReading r v job s k).imp = s.imp ∧
    (judgeReading r v job s k).hmon.channels.length = s.hmon.channels.length ∧
    (judgeReading r v job s k).hmon.plateLoaded = s.hmon.plateLoaded ∧
    (judgeReading r v job s k).hmon.drumReady = s.hmon.drumReady ∧
    (judgeReading r v job s k).hmon.nrev = s.hmon.nrev ∧
    (judgeReading r v job s k).hmon.slotCount = s.hmon.slotCount ∧
    (judgeReading r v job s k).hmon.overdue = s.hmon.overdue ∧
    (judgeReading r v job s k).hmon.indexLost = s.hmon.indexLost ∧
    (judgeReading r v job s k).hmon.tolerance = s.hmon.tolerance ∧
    (judgeReading r v job s k).hmon.clockLoss = s.hmon.clockLoss ∧
    (judgeReading r v job s k).hmon.test = s.hmon.test ∧
    (judgeReading r v job s k).hmon.highFailed = s.hmon.highFailed ∧
    (judgeReading r v job s k).hmon.lowFailed = s.hmon.lowFailed ∧ (judgeReading r v job s k).drec = s.drec ∧
    (judgeReading r v job s k).freeIndex = s.freeIndex ∧ (judgeReading r v job s k).pending = s.pending := by
  unfold judgeReading
  dsimp only
  (repeat' split) <;> simp

@[simp] theorem handChannel_keeps (v : Revolution) (s : State) (k : Nat) :
    (handChannel v s k).part = s.part ∧ (handChannel v s k).resetHeld = s.resetHeld ∧
    (handChannel v s k).lp = s.lp ∧ (handChannel v s k).prx = s.prx ∧ (handChannel v s k).pdir = s.pdir ∧
    (handChannel v s k).psc = s.psc ∧ (handChannel v s k).dram = s.dram ∧ (handChannel v s k).sct = s.sct ∧
    (handChannel v s k).ru = s.ru ∧ (handChannel v s k).psch = s.psch ∧ (handChannel v s k).imp = s.imp ∧
    (handChannel v s k).hmon = s.hmon ∧ (handChannel v s k).drec.plateOpen = s.drec.plateOpen ∧
    (handChannel v s k).drec.sweepHeight = s.drec.sweepHeight ∧
    (handChannel v s k).drec.geometry = s.drec.geometry ∧ (handChannel v s k).drec.mark = s.drec.mark ∧
    (handChannel v s k).drec.reject = s.drec.reject ∧ (handChannel v s k).freeIndex = s.freeIndex ∧
    (handChannel v s k).pending = s.pending := by
  unfold handChannel
  (repeat' split) <;> simp

@[simp] theorem foldl_judgeReading_keeps (r : HeadRecord) (v : Revolution) (job : Nat) (l : List Nat) (s : State) :
    (l.foldl (judgeReading r v job) s).part = s.part ∧
    (l.foldl (judgeReading r v job) s).resetHeld = s.resetHeld ∧
    (l.foldl (judgeReading r v job) s).lp.framer = s.lp.framer ∧
    (l.foldl (judgeReading r v job) s).lp.cmdQueue = s.lp.cmdQueue ∧
    (l.foldl (judgeReading r v job) s).lp.replyReserved = s.lp.replyReserved ∧
    (l.foldl (judgeReading r v job) s).lp.replyFinished = s.lp.replyFinished ∧
    (l.foldl (judgeReading r v job) s).lp.tx = s.lp.tx ∧
    (l.foldl (judgeReading r v job) s).lp.linkErrors = s.lp.linkErrors ∧
    (l.foldl (judgeReading r v job) s).lp.overrun = s.lp.overrun ∧
    (l.foldl (judgeReading r v job) s).lp.watchdogPeriod = s.lp.watchdogPeriod ∧
    (l.foldl (judgeReading r v job) s).lp.watchdogRunning = s.lp.watchdogRunning ∧
    (l.foldl (judgeReading r v job) s).lp.unattended = s.lp.unattended ∧
    (l.foldl (judgeReading r v job) s).lp.linkLost = s.lp.linkLost ∧
    (l.foldl (judgeReading r v job) s).prx = s.prx ∧ (l.foldl (judgeReading r v job) s).pdir = s.pdir ∧
    (l.foldl (judgeReading r v job) s).psc = s.psc ∧ (l.foldl (judgeReading r v job) s).dram = s.dram ∧
    (l.foldl (judgeReading r v job) s).sct = s.sct ∧ (l.foldl (judgeReading r v job) s).ru = s.ru ∧
    (l.foldl (judgeReading r v job) s).psch = s.psch ∧ (l.foldl (judgeReading r v job) s).imp = s.imp ∧
    (l.foldl (judgeReading r v job) s).hmon.channels.length = s.hmon.channels.length ∧
    (l.foldl (judgeReading r v job) s).hmon.plateLoaded = s.hmon.plateLoaded ∧
    (l.foldl (judgeReading r v job) s).hmon.drumReady = s.hmon.drumReady ∧
    (l.foldl (judgeReading r v job) s).hmon.nrev = s.hmon.nrev ∧
    (l.foldl (judgeReading r v job) s).hmon.slotCount = s.hmon.slotCount ∧
    (l.foldl (judgeReading r v job) s).hmon.overdue = s.hmon.overdue ∧
    (l.foldl (judgeReading r v job) s).hmon.indexLost = s.hmon.indexLost ∧
    (l.foldl (judgeReading r v job) s).hmon.tolerance = s.hmon.tolerance ∧
    (l.foldl (judgeReading r v job) s).hmon.clockLoss = s.hmon.clockLoss ∧
    (l.foldl (judgeReading r v job) s).hmon.test = s.hmon.test ∧
    (l.foldl (judgeReading r v job) s).hmon.highFailed = s.hmon.highFailed ∧
    (l.foldl (judgeReading r v job) s).hmon.lowFailed = s.hmon.lowFailed ∧
    (l.foldl (judgeReading r v job) s).drec = s.drec ∧
    (l.foldl (judgeReading r v job) s).freeIndex = s.freeIndex ∧
    (l.foldl (judgeReading r v job) s).pending = s.pending := by
  exact ⟨foldl_keeps (fun x : State => x.part) _ (by intros; simp) _ _,
    foldl_keeps (fun x : State => x.resetHeld) _ (by intros; simp) _ _,
    foldl_keeps (fun x : State => x.lp.framer) _ (by intros; simp) _ _,
    foldl_keeps (fun x : State => x.lp.cmdQueue) _ (by intros; simp) _ _,
    foldl_keeps (fun x : State => x.lp.replyReserved) _ (by intros; simp) _ _,
    foldl_keeps (fun x : State => x.lp.replyFinished) _ (by intros; simp) _ _,
    foldl_keeps (fun x : State => x.lp.tx) _ (by intros; simp) _ _,
    foldl_keeps (fun x : State => x.lp.linkErrors) _ (by intros; simp) _ _,
    foldl_keeps (fun x : State => x.lp.overrun) _ (by intros; simp) _ _,
    foldl_keeps (fun x : State => x.lp.watchdogPeriod) _ (by intros; simp) _ _,
    foldl_keeps (fun x : State => x.lp.watchdogRunning) _ (by intros; simp) _ _,
    foldl_keeps (fun x : State => x.lp.unattended) _ (by intros; simp) _ _,
    foldl_keeps (fun x : State => x.lp.linkLost) _ (by intros; simp) _ _,
    foldl_keeps (fun x : State => x.prx) _ (by intros; simp) _ _,
    foldl_keeps (fun x : State => x.pdir) _ (by intros; simp) _ _,
    foldl_keeps (fun x : State => x.psc) _ (by intros; simp) _ _,
    foldl_keeps (fun x : State => x.dram) _ (by intros; simp) _ _,
    foldl_keeps (fun x : State => x.sct) _ (by intros; simp) _ _,
    foldl_keeps (fun x : State => x.ru) _ (by intros; simp) _ _,
    foldl_keeps (fun x : State => x.psch) _ (by intros; simp) _ _,
    foldl_keeps (fun x : State => x.imp) _ (by intros; simp) _ _,
    foldl_keeps (fun x : State => x.hmon.channels.length) _ (by intros; simp) _ _,
    foldl_keeps (fun x : State => x.hmon.plateLoaded) _ (by intros; simp) _ _,
    foldl_keeps (fun x : State => x.hmon.drumReady) _ (by intros; simp) _ _,
    foldl_keeps (fun x : State => x.hmon.nrev) _ (by intros; simp) _ _,
    foldl_keeps (fun x : State => x.hmon.slotCount) _ (by intros; simp) _ _,
    foldl_keeps (fun x : State => x.hmon.overdue) _ (by intros; simp) _ _,
    foldl_keeps (fun x : State => x.hmon.indexLost) _ (by intros; simp) _ _,
    foldl_keeps (fun x : State => x.hmon.tolerance) _ (by intros; simp) _ _,
    foldl_keeps (fun x : State => x.hmon.clockLoss) _ (by intros; simp) _ _,
    foldl_keeps (fun x : State => x.hmon.test) _ (by intros; simp) _ _,
    foldl_keeps (fun x : State => x.hmon.highFailed) _ (by intros; simp) _ _,
    foldl_keeps (fun x : State => x.hmon.lowFailed) _ (by intros; simp) _ _,
    foldl_keeps (fun x : State => x.drec) _ (by intros; simp) _ _,
    foldl_keeps (fun x : State => x.freeIndex) _ (by intros; simp) _ _,
    foldl_keeps (fun x : State => x.pending) _ (by intros; simp) _ _⟩

@[simp] theorem foldl_handChannel_keeps (v : Revolution) (l : List Nat) (s : State) :
    (l.foldl (handChannel v) s).part = s.part ∧ (l.foldl (handChannel v) s).resetHeld = s.resetHeld ∧
    (l.foldl (handChannel v) s).lp = s.lp ∧ (l.foldl (handChannel v) s).prx = s.prx ∧
    (l.foldl (handChannel v) s).pdir = s.pdir ∧ (l.foldl (handChannel v) s).psc = s.psc ∧
    (l.foldl (handChannel v) s).dram = s.dram ∧ (l.foldl (handChannel v) s).sct = s.sct ∧
    (l.foldl (handChannel v) s).ru = s.ru ∧ (l.foldl (handChannel v) s).psch = s.psch ∧
    (l.foldl (handChannel v) s).imp = s.imp ∧ (l.foldl (handChannel v) s).hmon = s.hmon ∧
    (l.foldl (handChannel v) s).drec.plateOpen = s.drec.plateOpen ∧
    (l.foldl (handChannel v) s).drec.sweepHeight = s.drec.sweepHeight ∧
    (l.foldl (handChannel v) s).drec.geometry = s.drec.geometry ∧
    (l.foldl (handChannel v) s).drec.mark = s.drec.mark ∧
    (l.foldl (handChannel v) s).drec.reject = s.drec.reject ∧
    (l.foldl (handChannel v) s).freeIndex = s.freeIndex ∧ (l.foldl (handChannel v) s).pending = s.pending := by
  exact ⟨foldl_keeps (fun x : State => x.part) _ (by intros; simp) _ _,
    foldl_keeps (fun x : State => x.resetHeld) _ (by intros; simp) _ _,
    foldl_keeps (fun x : State => x.lp) _ (by intros; simp) _ _,
    foldl_keeps (fun x : State => x.prx) _ (by intros; simp) _ _,
    foldl_keeps (fun x : State => x.pdir) _ (by intros; simp) _ _,
    foldl_keeps (fun x : State => x.psc) _ (by intros; simp) _ _,
    foldl_keeps (fun x : State => x.dram) _ (by intros; simp) _ _,
    foldl_keeps (fun x : State => x.sct) _ (by intros; simp) _ _,
    foldl_keeps (fun x : State => x.ru) _ (by intros; simp) _ _,
    foldl_keeps (fun x : State => x.psch) _ (by intros; simp) _ _,
    foldl_keeps (fun x : State => x.imp) _ (by intros; simp) _ _,
    foldl_keeps (fun x : State => x.hmon) _ (by intros; simp) _ _,
    foldl_keeps (fun x : State => x.drec.plateOpen) _ (by intros; simp) _ _,
    foldl_keeps (fun x : State => x.drec.sweepHeight) _ (by intros; simp) _ _,
    foldl_keeps (fun x : State => x.drec.geometry) _ (by intros; simp) _ _,
    foldl_keeps (fun x : State => x.drec.mark) _ (by intros; simp) _ _,
    foldl_keeps (fun x : State => x.drec.reject) _ (by intros; simp) _ _,
    foldl_keeps (fun x : State => x.freeIndex) _ (by intros; simp) _ _,
    foldl_keeps (fun x : State => x.pending) _ (by intros; simp) _ _⟩

@[simp] theorem judgeRecord_keeps (r : HeadRecord) (v : Revolution) (job : Nat) (s : State) :
    (judgeRecord r v job s).part = s.part ∧ (judgeRecord r v job s).resetHeld = s.resetHeld ∧
    (judgeRecord r v job s).lp.framer = s.lp.framer ∧ (judgeRecord r v job s).lp.cmdQueue = s.lp.cmdQueue ∧
    (judgeRecord r v job s).lp.replyReserved = s.lp.replyReserved ∧
    (judgeRecord r v job s).lp.replyFinished = s.lp.replyFinished ∧ (judgeRecord r v job s).lp.tx = s.lp.tx ∧
    (judgeRecord r v job s).lp.linkErrors = s.lp.linkErrors ∧
    (judgeRecord r v job s).lp.overrun = s.lp.overrun ∧
    (judgeRecord r v job s).lp.watchdogPeriod = s.lp.watchdogPeriod ∧
    (judgeRecord r v job s).lp.watchdogRunning = s.lp.watchdogRunning ∧
    (judgeRecord r v job s).lp.unattended = s.lp.unattended ∧
    (judgeRecord r v job s).lp.linkLost = s.lp.linkLost ∧ (judgeRecord r v job s).prx = s.prx ∧
    (judgeRecord r v job s).pdir = s.pdir ∧ (judgeRecord r v job s).psc = s.psc ∧
    (judgeRecord r v job s).dram = s.dram ∧ (judgeRecord r v job s).sct = s.sct ∧
    (judgeRecord r v job s).ru = s.ru ∧ (judgeRecord r v job s).psch = s.psch ∧
    (judgeRecord r v job s).imp = s.imp ∧
    (judgeRecord r v job s).hmon.channels.length = s.hmon.channels.length ∧
    (judgeRecord r v job s).hmon.plateLoaded = s.hmon.plateLoaded ∧
    (judgeRecord r v job s).hmon.drumReady = s.hmon.drumReady ∧
    (judgeRecord r v job s).hmon.nrev = s.hmon.nrev ∧
    (judgeRecord r v job s).hmon.slotCount = s.hmon.slotCount ∧
    (judgeRecord r v job s).hmon.overdue = s.hmon.overdue ∧
    (judgeRecord r v job s).hmon.indexLost = s.hmon.indexLost ∧
    (judgeRecord r v job s).hmon.tolerance = s.hmon.tolerance ∧
    (judgeRecord r v job s).hmon.clockLoss = s.hmon.clockLoss ∧
    (judgeRecord r v job s).hmon.test = s.hmon.test ∧
    (judgeRecord r v job s).hmon.highFailed = s.hmon.highFailed ∧
    (judgeRecord r v job s).hmon.lowFailed = s.hmon.lowFailed ∧
    (judgeRecord r v job s).drec.plateOpen = s.drec.plateOpen ∧
    (judgeRecord r v job s).drec.sweepHeight = s.drec.sweepHeight ∧
    (judgeRecord r v job s).drec.geometry = s.drec.geometry ∧ (judgeRecord r v job s).drec.mark = s.drec.mark ∧
    (judgeRecord r v job s).drec.reject = s.drec.reject ∧ (judgeRecord r v job s).freeIndex = s.freeIndex ∧
    (judgeRecord r v job s).pending = s.pending := by
  unfold judgeRecord
  dsimp only
  (repeat' split) <;> simp

@[simp] theorem takeRecord_keeps (r : HeadRecord) (s : State) :
    (takeRecord r s).part = s.part ∧ (takeRecord r s).resetHeld = s.resetHeld ∧
    (takeRecord r s).lp.framer = s.lp.framer ∧ (takeRecord r s).lp.cmdQueue = s.lp.cmdQueue ∧
    (takeRecord r s).lp.tx = s.lp.tx ∧ (takeRecord r s).lp.linkErrors = s.lp.linkErrors ∧
    (takeRecord r s).lp.overrun = s.lp.overrun ∧ (takeRecord r s).lp.watchdogPeriod = s.lp.watchdogPeriod ∧
    (takeRecord r s).lp.watchdogRunning = s.lp.watchdogRunning ∧
    (takeRecord r s).lp.unattended = s.lp.unattended ∧ (takeRecord r s).lp.linkLost = s.lp.linkLost ∧
    (takeRecord r s).prx.contexts.length = s.prx.contexts.length ∧
    (takeRecord r s).prx.timeout = s.prx.timeout ∧
    (takeRecord r s).pdir.entries.length = s.pdir.entries.length ∧
    (takeRecord r s).pdir.counter = s.pdir.counter ∧ (takeRecord r s).psc.storeMiB = s.psc.storeMiB ∧
    (takeRecord r s).psc.poolSize = s.psc.poolSize ∧
    (takeRecord r s).psc.refreshInterval = s.psc.refreshInterval ∧
    (takeRecord r s).psc.refreshMerged = s.psc.refreshMerged ∧ (takeRecord r s).dram = s.dram ∧
    (takeRecord r s).sct.sets = s.sct.sets ∧ (takeRecord r s).sct.cache = s.sct.cache ∧
    (takeRecord r s).sct.tileBuf = s.sct.tileBuf ∧ (takeRecord r s).imp.nrev = s.imp.nrev ∧
    (takeRecord r s).imp.lead = s.imp.lead ∧ (takeRecord r s).imp.swath = s.imp.swath ∧
    (takeRecord r s).imp.half = s.imp.half ∧ (takeRecord r s).imp.dwellLimit = s.imp.dwellLimit ∧
    (takeRecord r s).imp.watermark = s.imp.watermark ∧ (takeRecord r s).imp.ring.length = s.imp.ring.length ∧
    (takeRecord r s).imp.nextFetch = s.imp.nextFetch ∧ (takeRecord r s).imp.nextSend = s.imp.nextSend ∧
    (takeRecord r s).imp.headWord = s.imp.headWord ∧
    (takeRecord r s).hmon.channels.length = s.hmon.channels.length ∧
    (takeRecord r s).hmon.nrev = s.hmon.nrev ∧
    (takeRecord r s).hmon.slotCount = s.hmon.slotCount ∧ (takeRecord r s).hmon.overdue = s.hmon.overdue ∧
    (takeRecord r s).hmon.indexLost = s.hmon.indexLost ∧ (takeRecord r s).hmon.tolerance = s.hmon.tolerance ∧
    (takeRecord r s).hmon.clockLoss = s.hmon.clockLoss ∧ (takeRecord r s).hmon.highFailed = s.hmon.highFailed ∧
    (takeRecord r s).hmon.lowFailed = s.hmon.lowFailed ∧ (takeRecord r s).freeIndex = s.freeIndex ∧
    (takeRecord r s).pending = s.pending := by
  unfold takeRecord
  dsimp only
  (repeat' split) <;> simp

@[simp] theorem handUnderrun_keeps (s : State) :
    (handUnderrun s).part = s.part ∧ (handUnderrun s).resetHeld = s.resetHeld ∧ (handUnderrun s).lp = s.lp ∧
    (handUnderrun s).prx = s.prx ∧ (handUnderrun s).pdir = s.pdir ∧ (handUnderrun s).psc = s.psc ∧
    (handUnderrun s).dram = s.dram ∧ (handUnderrun s).sct = s.sct ∧ (handUnderrun s).ru = s.ru ∧
    (handUnderrun s).psch = s.psch ∧ (handUnderrun s).imp = s.imp ∧ (handUnderrun s).hmon = s.hmon ∧
    (handUnderrun s).drec.plateOpen = s.drec.plateOpen ∧
    (handUnderrun s).drec.sweepHeight = s.drec.sweepHeight ∧ (handUnderrun s).drec.geometry = s.drec.geometry ∧
    (handUnderrun s).drec.mark = s.drec.mark ∧ (handUnderrun s).drec.reject = s.drec.reject ∧
    (handUnderrun s).freeIndex = s.freeIndex ∧ (handUnderrun s).pending = s.pending := by
  unfold handUnderrun
  (repeat' split) <;> simp

@[simp] theorem handDrumSpeed_keeps (s : State) :
    (handDrumSpeed s).part = s.part ∧ (handDrumSpeed s).resetHeld = s.resetHeld ∧ (handDrumSpeed s).lp = s.lp ∧
    (handDrumSpeed s).prx = s.prx ∧ (handDrumSpeed s).pdir = s.pdir ∧ (handDrumSpeed s).psc = s.psc ∧
    (handDrumSpeed s).dram = s.dram ∧ (handDrumSpeed s).sct = s.sct ∧ (handDrumSpeed s).ru = s.ru ∧
    (handDrumSpeed s).psch = s.psch ∧ (handDrumSpeed s).imp = s.imp ∧ (handDrumSpeed s).hmon = s.hmon ∧
    (handDrumSpeed s).drec.plateOpen = s.drec.plateOpen ∧
    (handDrumSpeed s).drec.sweepHeight = s.drec.sweepHeight ∧
    (handDrumSpeed s).drec.geometry = s.drec.geometry ∧ (handDrumSpeed s).drec.mark = s.drec.mark ∧
    (handDrumSpeed s).drec.reject = s.drec.reject ∧ (handDrumSpeed s).freeIndex = s.freeIndex ∧
    (handDrumSpeed s).pending = s.pending := by
  simp [handDrumSpeed]

@[simp] theorem releaseSweep_keeps (s : State) :
    (releaseSweep s).part = s.part ∧ (releaseSweep s).resetHeld = s.resetHeld ∧ (releaseSweep s).lp = s.lp ∧
    (releaseSweep s).prx = s.prx ∧ (releaseSweep s).pdir = s.pdir ∧
    (releaseSweep s).psc.storeMiB = s.psc.storeMiB ∧ (releaseSweep s).psc.links = s.psc.links ∧
    (releaseSweep s).psc.poolHead = s.psc.poolHead ∧ (releaseSweep s).psc.poolTail = s.psc.poolTail ∧
    (releaseSweep s).psc.freeCount = s.psc.freeCount ∧ (releaseSweep s).psc.poolSize = s.psc.poolSize ∧
    (releaseSweep s).psc.refreshInterval = s.psc.refreshInterval ∧
    (releaseSweep s).psc.refreshMerged = s.psc.refreshMerged ∧ (releaseSweep s).dram = s.dram ∧
    (releaseSweep s).sct = s.sct ∧ (releaseSweep s).ru.job = s.ru.job ∧
    (releaseSweep s).ru.cursor = s.ru.cursor ∧ (releaseSweep s).psch = s.psch ∧
    (releaseSweep s).imp.nrev = s.imp.nrev ∧ (releaseSweep s).imp.lead = s.imp.lead ∧
    (releaseSweep s).imp.swath = s.imp.swath ∧ (releaseSweep s).imp.half = s.imp.half ∧
    (releaseSweep s).imp.dwellLimit = s.imp.dwellLimit ∧ (releaseSweep s).imp.watermark = s.imp.watermark ∧
    (releaseSweep s).imp.ring.length = s.imp.ring.length ∧ (releaseSweep s).imp.rev = s.imp.rev ∧
    (releaseSweep s).imp.prev = s.imp.prev ∧ (releaseSweep s).imp.closing = s.imp.closing ∧
    (releaseSweep s).imp.firstExpose = s.imp.firstExpose ∧ (releaseSweep s).imp.dwellCount = s.imp.dwellCount ∧
    (releaseSweep s).imp.cancelPending = s.imp.cancelPending ∧
    (releaseSweep s).imp.endDecided = s.imp.endDecided ∧ (releaseSweep s).imp.fifo = s.imp.fifo ∧
    (releaseSweep s).imp.nextFetch = s.imp.nextFetch ∧ (releaseSweep s).imp.nextSend = s.imp.nextSend ∧
    (releaseSweep s).imp.refill = s.imp.refill ∧ (releaseSweep s).imp.underrun = s.imp.underrun ∧
    (releaseSweep s).imp.recordTaken = s.imp.recordTaken ∧ (releaseSweep s).imp.headWord = s.imp.headWord ∧
    (releaseSweep s).hmon = s.hmon ∧ (releaseSweep s).drec.plateOpen = s.drec.plateOpen ∧
    (releaseSweep s).drec.sweepHeight = s.drec.sweepHeight ∧ (releaseSweep s).drec.geometry = s.drec.geometry ∧
    (releaseSweep s).drec.mark = s.drec.mark ∧ (releaseSweep s).drec.reject = s.drec.reject ∧
    (releaseSweep s).freeIndex = s.freeIndex ∧ (releaseSweep s).pending = s.pending := by
  unfold releaseSweep
  dsimp only
  (repeat' split) <;> simp

@[simp] theorem closeExpose_keeps (s : State) :
    (closeExpose s).part = s.part ∧ (closeExpose s).resetHeld = s.resetHeld ∧ (closeExpose s).lp = s.lp ∧
    (closeExpose s).prx = s.prx ∧ (closeExpose s).pdir = s.pdir ∧
    (closeExpose s).psc.storeMiB = s.psc.storeMiB ∧ (closeExpose s).psc.links = s.psc.links ∧
    (closeExpose s).psc.poolHead = s.psc.poolHead ∧ (closeExpose s).psc.poolTail = s.psc.poolTail ∧
    (closeExpose s).psc.freeCount = s.psc.freeCount ∧ (closeExpose s).psc.poolSize = s.psc.poolSize ∧
    (closeExpose s).psc.refreshInterval = s.psc.refreshInterval ∧
    (closeExpose s).psc.refreshMerged = s.psc.refreshMerged ∧ (closeExpose s).dram = s.dram ∧
    (closeExpose s).sct = s.sct ∧ (closeExpose s).ru.job = s.ru.job ∧ (closeExpose s).ru.cursor = s.ru.cursor ∧
    (closeExpose s).psch = s.psch ∧ (closeExpose s).imp.nrev = s.imp.nrev ∧
    (closeExpose s).imp.lead = s.imp.lead ∧ (closeExpose s).imp.swath = s.imp.swath ∧
    (closeExpose s).imp.half = s.imp.half ∧ (closeExpose s).imp.dwellLimit = s.imp.dwellLimit ∧
    (closeExpose s).imp.watermark = s.imp.watermark ∧ (closeExpose s).imp.ring.length = s.imp.ring.length ∧
    (closeExpose s).imp.rev = s.imp.rev ∧ (closeExpose s).imp.prev = s.imp.prev ∧
    (closeExpose s).imp.closing = s.imp.closing ∧ (closeExpose s).imp.firstExpose = s.imp.firstExpose ∧
    (closeExpose s).imp.dwellCount = s.imp.dwellCount ∧
    (closeExpose s).imp.cancelPending = s.imp.cancelPending ∧
    (closeExpose s).imp.endDecided = s.imp.endDecided ∧ (closeExpose s).imp.nextFetch = s.imp.nextFetch ∧
    (closeExpose s).imp.nextSend = s.imp.nextSend ∧ (closeExpose s).imp.underrun = s.imp.underrun ∧
    (closeExpose s).imp.recordTaken = s.imp.recordTaken ∧ (closeExpose s).imp.headWord = s.imp.headWord ∧
    (closeExpose s).hmon = s.hmon ∧ (closeExpose s).drec.plateOpen = s.drec.plateOpen ∧
    (closeExpose s).drec.sweepHeight = s.drec.sweepHeight ∧ (closeExpose s).drec.geometry = s.drec.geometry ∧
    (closeExpose s).drec.mark = s.drec.mark ∧ (closeExpose s).drec.reject = s.drec.reject ∧
    (closeExpose s).freeIndex = s.freeIndex ∧ (closeExpose s).pending = s.pending := by
  unfold closeExpose
  dsimp only
  (repeat' split) <;> simp

@[simp] theorem closeRevolution_keeps (s : State) :
    (closeRevolution s).part = s.part ∧ (closeRevolution s).resetHeld = s.resetHeld ∧
    (closeRevolution s).lp = s.lp ∧ (closeRevolution s).prx = s.prx ∧ (closeRevolution s).pdir = s.pdir ∧
    (closeRevolution s).psc.storeMiB = s.psc.storeMiB ∧ (closeRevolution s).psc.links = s.psc.links ∧
    (closeRevolution s).psc.poolHead = s.psc.poolHead ∧ (closeRevolution s).psc.poolTail = s.psc.poolTail ∧
    (closeRevolution s).psc.freeCount = s.psc.freeCount ∧ (closeRevolution s).psc.poolSize = s.psc.poolSize ∧
    (closeRevolution s).psc.refreshInterval = s.psc.refreshInterval ∧
    (closeRevolution s).psc.refreshMerged = s.psc.refreshMerged ∧ (closeRevolution s).dram = s.dram ∧
    (closeRevolution s).sct = s.sct ∧ (closeRevolution s).ru.job = s.ru.job ∧
    (closeRevolution s).ru.cursor = s.ru.cursor ∧ (closeRevolution s).psch = s.psch ∧
    (closeRevolution s).imp.nrev = s.imp.nrev ∧ (closeRevolution s).imp.lead = s.imp.lead ∧
    (closeRevolution s).imp.swath = s.imp.swath ∧ (closeRevolution s).imp.half = s.imp.half ∧
    (closeRevolution s).imp.dwellLimit = s.imp.dwellLimit ∧
    (closeRevolution s).imp.watermark = s.imp.watermark ∧
    (closeRevolution s).imp.ring.length = s.imp.ring.length ∧ (closeRevolution s).imp.rev = s.imp.rev ∧
    (closeRevolution s).imp.prev = s.imp.prev ∧ (closeRevolution s).imp.closing = s.imp.closing ∧
    (closeRevolution s).imp.firstExpose = s.imp.firstExpose ∧
    (closeRevolution s).imp.dwellCount = s.imp.dwellCount ∧
    (closeRevolution s).imp.cancelPending = s.imp.cancelPending ∧
    (closeRevolution s).imp.endDecided = s.imp.endDecided ∧
    (closeRevolution s).imp.nextFetch = s.imp.nextFetch ∧ (closeRevolution s).imp.nextSend = s.imp.nextSend ∧
    (closeRevolution s).imp.headWord = s.imp.headWord ∧ (closeRevolution s).hmon = s.hmon ∧
    (closeRevolution s).drec.plateOpen = s.drec.plateOpen ∧
    (closeRevolution s).drec.sweepHeight = s.drec.sweepHeight ∧
    (closeRevolution s).drec.geometry = s.drec.geometry ∧ (closeRevolution s).drec.mark = s.drec.mark ∧
    (closeRevolution s).drec.reject = s.drec.reject ∧ (closeRevolution s).freeIndex = s.freeIndex ∧
    (closeRevolution s).pending = s.pending := by
  unfold closeRevolution
  (repeat' split) <;> simp

@[simp] theorem hmonIndex_keeps (s : State) :
    (hmonIndex s).part = s.part ∧ (hmonIndex s).resetHeld = s.resetHeld ∧ (hmonIndex s).lp = s.lp ∧
    (hmonIndex s).prx = s.prx ∧ (hmonIndex s).pdir = s.pdir ∧ (hmonIndex s).psc = s.psc ∧
    (hmonIndex s).dram = s.dram ∧ (hmonIndex s).sct = s.sct ∧ (hmonIndex s).ru = s.ru ∧
    (hmonIndex s).psch = s.psch ∧ (hmonIndex s).imp = s.imp ∧ (hmonIndex s).hmon.channels = s.hmon.channels ∧
    (hmonIndex s).hmon.plateLoaded = s.hmon.plateLoaded ∧ (hmonIndex s).hmon.drumReady = s.hmon.drumReady ∧
    (hmonIndex s).hmon.tolerance = s.hmon.tolerance ∧ (hmonIndex s).hmon.clockLoss = s.hmon.clockLoss ∧
    (hmonIndex s).hmon.highFailed = s.hmon.highFailed ∧ (hmonIndex s).hmon.lowFailed = s.hmon.lowFailed ∧
    (hmonIndex s).drec = s.drec ∧ (hmonIndex s).freeIndex = s.freeIndex ∧
    (hmonIndex s).pending = s.pending := by
  simp [hmonIndex]

@[simp] theorem beginRevolution_keeps (d : Decision) (sweep : Nat) (live : Bool) (s : State) :
    (beginRevolution d sweep live s).part = s.part ∧ (beginRevolution d sweep live s).resetHeld = s.resetHeld ∧
    (beginRevolution d sweep live s).lp = s.lp ∧ (beginRevolution d sweep live s).prx = s.prx ∧
    (beginRevolution d sweep live s).pdir = s.pdir ∧ (beginRevolution d sweep live s).psc = s.psc ∧
    (beginRevolution d sweep live s).dram = s.dram ∧ (beginRevolution d sweep live s).sct = s.sct ∧
    (beginRevolution d sweep live s).ru = s.ru ∧ (beginRevolution d sweep live s).psch = s.psch ∧
    (beginRevolution d sweep live s).imp.nrev = s.imp.nrev ∧
    (beginRevolution d sweep live s).imp.lead = s.imp.lead ∧
    (beginRevolution d sweep live s).imp.swath = s.imp.swath ∧
    (beginRevolution d sweep live s).imp.half = s.imp.half ∧
    (beginRevolution d sweep live s).imp.dwellLimit = s.imp.dwellLimit ∧
    (beginRevolution d sweep live s).imp.watermark = s.imp.watermark ∧
    (beginRevolution d sweep live s).imp.ring = s.imp.ring ∧
    (beginRevolution d sweep live s).imp.closing = s.imp.closing ∧
    (beginRevolution d sweep live s).imp.exposed = s.imp.exposed ∧
    (beginRevolution d sweep live s).imp.firstExpose = s.imp.firstExpose ∧
    (beginRevolution d sweep live s).imp.dwellCount = s.imp.dwellCount ∧
    (beginRevolution d sweep live s).imp.steps = s.imp.steps ∧
    (beginRevolution d sweep live s).imp.cancelPending = s.imp.cancelPending ∧
    (beginRevolution d sweep live s).imp.endDecided = s.imp.endDecided ∧
    (beginRevolution d sweep live s).imp.fifo = s.imp.fifo ∧
    (beginRevolution d sweep live s).imp.nextFetch = s.imp.nextFetch ∧
    (beginRevolution d sweep live s).imp.nextSend = s.imp.nextSend ∧
    (beginRevolution d sweep live s).imp.refill = s.imp.refill ∧
    (beginRevolution d sweep live s).imp.underrun = s.imp.underrun ∧
    (beginRevolution d sweep live s).imp.recordTaken = s.imp.recordTaken ∧
    (beginRevolution d sweep live s).hmon = s.hmon ∧ (beginRevolution d sweep live s).drec = s.drec ∧
    (beginRevolution d sweep live s).freeIndex = s.freeIndex ∧
    (beginRevolution d sweep live s).pending = s.pending := by
  simp [beginRevolution]

@[simp] theorem beginExpose_keeps (s : State) :
    (beginExpose s).part = s.part ∧ (beginExpose s).resetHeld = s.resetHeld ∧ (beginExpose s).lp = s.lp ∧
    (beginExpose s).prx = s.prx ∧ (beginExpose s).pdir = s.pdir ∧
    (beginExpose s).psc.storeMiB = s.psc.storeMiB ∧ (beginExpose s).psc.links = s.psc.links ∧
    (beginExpose s).psc.poolHead = s.psc.poolHead ∧ (beginExpose s).psc.poolTail = s.psc.poolTail ∧
    (beginExpose s).psc.freeCount = s.psc.freeCount ∧ (beginExpose s).psc.poolSize = s.psc.poolSize ∧
    (beginExpose s).psc.refreshInterval = s.psc.refreshInterval ∧
    (beginExpose s).psc.refreshMerged = s.psc.refreshMerged ∧ (beginExpose s).dram = s.dram ∧
    (beginExpose s).sct = s.sct ∧ (beginExpose s).ru = s.ru ∧ (beginExpose s).psch = s.psch ∧
    (beginExpose s).hmon = s.hmon ∧ (beginExpose s).drec = s.drec ∧ (beginExpose s).freeIndex = s.freeIndex ∧
    (beginExpose s).pending = s.pending := by
  simp [beginExpose]

@[simp] theorem decideEnd_keeps (r : JobResult) (s : State) :
    (decideEnd r s).part = s.part ∧ (decideEnd r s).resetHeld = s.resetHeld ∧
    (decideEnd r s).lp.framer = s.lp.framer ∧ (decideEnd r s).lp.cmdQueue = s.lp.cmdQueue ∧
    (decideEnd r s).lp.replyReserved = s.lp.replyReserved ∧
    (decideEnd r s).lp.replyFinished = s.lp.replyFinished ∧ (decideEnd r s).lp.tx = s.lp.tx ∧
    (decideEnd r s).lp.linkErrors = s.lp.linkErrors ∧ (decideEnd r s).lp.overrun = s.lp.overrun ∧
    (decideEnd r s).lp.watchdogPeriod = s.lp.watchdogPeriod ∧
    (decideEnd r s).lp.watchdogRunning = s.lp.watchdogRunning ∧
    (decideEnd r s).lp.unattended = s.lp.unattended ∧ (decideEnd r s).lp.linkLost = s.lp.linkLost ∧
    (decideEnd r s).prx.contexts.length = s.prx.contexts.length ∧ (decideEnd r s).prx.timeout = s.prx.timeout ∧
    (decideEnd r s).pdir.entries.length = s.pdir.entries.length ∧
    (decideEnd r s).pdir.counter = s.pdir.counter ∧ (decideEnd r s).psc.storeMiB = s.psc.storeMiB ∧
    (decideEnd r s).psc.poolSize = s.psc.poolSize ∧
    (decideEnd r s).psc.refreshInterval = s.psc.refreshInterval ∧
    (decideEnd r s).psc.refreshMerged = s.psc.refreshMerged ∧ (decideEnd r s).dram = s.dram ∧
    (decideEnd r s).sct.sets = s.sct.sets ∧ (decideEnd r s).sct.cache = s.sct.cache ∧
    (decideEnd r s).sct.tileBuf = s.sct.tileBuf ∧ (decideEnd r s).imp.nrev = s.imp.nrev ∧
    (decideEnd r s).imp.lead = s.imp.lead ∧ (decideEnd r s).imp.swath = s.imp.swath ∧
    (decideEnd r s).imp.half = s.imp.half ∧ (decideEnd r s).imp.dwellLimit = s.imp.dwellLimit ∧
    (decideEnd r s).imp.watermark = s.imp.watermark ∧ (decideEnd r s).imp.ring.length = s.imp.ring.length ∧
    (decideEnd r s).imp.nextFetch = s.imp.nextFetch ∧ (decideEnd r s).imp.nextSend = s.imp.nextSend ∧
    (decideEnd r s).imp.recordTaken = s.imp.recordTaken ∧ (decideEnd r s).hmon = s.hmon ∧
    (decideEnd r s).freeIndex = s.freeIndex ∧ (decideEnd r s).pending = s.pending := by
  simp [decideEnd]

@[simp] theorem decideDwell_keeps (s : State) :
    (decideDwell s).part = s.part ∧ (decideDwell s).resetHeld = s.resetHeld ∧
    (decideDwell s).lp.framer = s.lp.framer ∧ (decideDwell s).lp.cmdQueue = s.lp.cmdQueue ∧
    (decideDwell s).lp.replyReserved = s.lp.replyReserved ∧
    (decideDwell s).lp.replyFinished = s.lp.replyFinished ∧ (decideDwell s).lp.tx = s.lp.tx ∧
    (decideDwell s).lp.linkErrors = s.lp.linkErrors ∧ (decideDwell s).lp.overrun = s.lp.overrun ∧
    (decideDwell s).lp.watchdogPeriod = s.lp.watchdogPeriod ∧
    (decideDwell s).lp.watchdogRunning = s.lp.watchdogRunning ∧
    (decideDwell s).lp.unattended = s.lp.unattended ∧ (decideDwell s).lp.linkLost = s.lp.linkLost ∧
    (decideDwell s).prx.contexts.length = s.prx.contexts.length ∧ (decideDwell s).prx.timeout = s.prx.timeout ∧
    (decideDwell s).pdir.entries.length = s.pdir.entries.length ∧
    (decideDwell s).pdir.counter = s.pdir.counter ∧ (decideDwell s).psc.storeMiB = s.psc.storeMiB ∧
    (decideDwell s).psc.poolSize = s.psc.poolSize ∧
    (decideDwell s).psc.refreshInterval = s.psc.refreshInterval ∧
    (decideDwell s).psc.refreshMerged = s.psc.refreshMerged ∧ (decideDwell s).dram = s.dram ∧
    (decideDwell s).sct.sets = s.sct.sets ∧ (decideDwell s).sct.cache = s.sct.cache ∧
    (decideDwell s).sct.tileBuf = s.sct.tileBuf ∧ (decideDwell s).imp.nrev = s.imp.nrev ∧
    (decideDwell s).imp.lead = s.imp.lead ∧ (decideDwell s).imp.swath = s.imp.swath ∧
    (decideDwell s).imp.half = s.imp.half ∧ (decideDwell s).imp.dwellLimit = s.imp.dwellLimit ∧
    (decideDwell s).imp.watermark = s.imp.watermark ∧ (decideDwell s).imp.ring.length = s.imp.ring.length ∧
    (decideDwell s).imp.nextFetch = s.imp.nextFetch ∧ (decideDwell s).imp.nextSend = s.imp.nextSend ∧
    (decideDwell s).imp.recordTaken = s.imp.recordTaken ∧ (decideDwell s).hmon = s.hmon ∧
    (decideDwell s).freeIndex = s.freeIndex ∧ (decideDwell s).pending = s.pending := by
  unfold decideDwell
  dsimp only
  (repeat' split) <;> simp

@[simp] theorem decideImaging_keeps (j : Job) (s : State) :
    (decideImaging j s).part = s.part ∧ (decideImaging j s).resetHeld = s.resetHeld ∧
    (decideImaging j s).lp.framer = s.lp.framer ∧ (decideImaging j s).lp.cmdQueue = s.lp.cmdQueue ∧
    (decideImaging j s).lp.replyReserved = s.lp.replyReserved ∧
    (decideImaging j s).lp.replyFinished = s.lp.replyFinished ∧ (decideImaging j s).lp.tx = s.lp.tx ∧
    (decideImaging j s).lp.linkErrors = s.lp.linkErrors ∧ (decideImaging j s).lp.overrun = s.lp.overrun ∧
    (decideImaging j s).lp.watchdogPeriod = s.lp.watchdogPeriod ∧
    (decideImaging j s).lp.watchdogRunning = s.lp.watchdogRunning ∧
    (decideImaging j s).lp.unattended = s.lp.unattended ∧ (decideImaging j s).lp.linkLost = s.lp.linkLost ∧
    (decideImaging j s).prx.contexts.length = s.prx.contexts.length ∧
    (decideImaging j s).prx.timeout = s.prx.timeout ∧
    (decideImaging j s).pdir.entries.length = s.pdir.entries.length ∧
    (decideImaging j s).pdir.counter = s.pdir.counter ∧ (decideImaging j s).psc.storeMiB = s.psc.storeMiB ∧
    (decideImaging j s).psc.poolSize = s.psc.poolSize ∧
    (decideImaging j s).psc.refreshInterval = s.psc.refreshInterval ∧
    (decideImaging j s).psc.refreshMerged = s.psc.refreshMerged ∧ (decideImaging j s).dram = s.dram ∧
    (decideImaging j s).sct.sets = s.sct.sets ∧ (decideImaging j s).sct.cache = s.sct.cache ∧
    (decideImaging j s).sct.tileBuf = s.sct.tileBuf ∧ (decideImaging j s).hmon = s.hmon ∧
    (decideImaging j s).freeIndex = s.freeIndex ∧ (decideImaging j s).pending = s.pending := by
  unfold decideImaging
  dsimp only
  (repeat' split) <;> simp

@[simp] theorem decideIdle_keeps (s : State) :
    (decideIdle s).part = s.part ∧ (decideIdle s).resetHeld = s.resetHeld ∧ (decideIdle s).lp = s.lp ∧
    (decideIdle s).prx = s.prx ∧ (decideIdle s).pdir = s.pdir ∧ (decideIdle s).psc = s.psc ∧
    (decideIdle s).dram = s.dram ∧ (decideIdle s).sct = s.sct ∧ (decideIdle s).ru = s.ru ∧
    (decideIdle s).psch = s.psch ∧ (decideIdle s).imp.nrev = s.imp.nrev ∧ (decideIdle s).imp.lead = s.imp.lead ∧
    (decideIdle s).imp.swath = s.imp.swath ∧ (decideIdle s).imp.half = s.imp.half ∧
    (decideIdle s).imp.dwellLimit = s.imp.dwellLimit ∧ (decideIdle s).imp.watermark = s.imp.watermark ∧
    (decideIdle s).imp.ring = s.imp.ring ∧ (decideIdle s).imp.exposed = s.imp.exposed ∧
    (decideIdle s).imp.firstExpose = s.imp.firstExpose ∧ (decideIdle s).imp.dwellCount = s.imp.dwellCount ∧
    (decideIdle s).imp.steps = s.imp.steps ∧ (decideIdle s).imp.cancelPending = s.imp.cancelPending ∧
    (decideIdle s).imp.endDecided = s.imp.endDecided ∧ (decideIdle s).imp.fifo = s.imp.fifo ∧
    (decideIdle s).imp.nextFetch = s.imp.nextFetch ∧ (decideIdle s).imp.nextSend = s.imp.nextSend ∧
    (decideIdle s).imp.refill = s.imp.refill ∧ (decideIdle s).imp.underrun = s.imp.underrun ∧
    (decideIdle s).imp.recordTaken = s.imp.recordTaken ∧ (decideIdle s).hmon = s.hmon ∧
    (decideIdle s).drec = s.drec ∧ (decideIdle s).freeIndex = s.freeIndex ∧
    (decideIdle s).pending = s.pending := by
  unfold decideIdle
  (repeat' split) <;> simp

@[simp] theorem decideRevolution_keeps (s : State) :
    (decideRevolution s).part = s.part ∧ (decideRevolution s).resetHeld = s.resetHeld ∧
    (decideRevolution s).lp.framer = s.lp.framer ∧ (decideRevolution s).lp.cmdQueue = s.lp.cmdQueue ∧
    (decideRevolution s).lp.replyReserved = s.lp.replyReserved ∧
    (decideRevolution s).lp.replyFinished = s.lp.replyFinished ∧ (decideRevolution s).lp.tx = s.lp.tx ∧
    (decideRevolution s).lp.linkErrors = s.lp.linkErrors ∧ (decideRevolution s).lp.overrun = s.lp.overrun ∧
    (decideRevolution s).lp.watchdogPeriod = s.lp.watchdogPeriod ∧
    (decideRevolution s).lp.watchdogRunning = s.lp.watchdogRunning ∧
    (decideRevolution s).lp.unattended = s.lp.unattended ∧ (decideRevolution s).lp.linkLost = s.lp.linkLost ∧
    (decideRevolution s).prx.contexts.length = s.prx.contexts.length ∧
    (decideRevolution s).prx.timeout = s.prx.timeout ∧
    (decideRevolution s).pdir.entries.length = s.pdir.entries.length ∧
    (decideRevolution s).pdir.counter = s.pdir.counter ∧ (decideRevolution s).psc.storeMiB = s.psc.storeMiB ∧
    (decideRevolution s).psc.poolSize = s.psc.poolSize ∧
    (decideRevolution s).psc.refreshInterval = s.psc.refreshInterval ∧
    (decideRevolution s).psc.refreshMerged = s.psc.refreshMerged ∧ (decideRevolution s).dram = s.dram ∧
    (decideRevolution s).sct.sets = s.sct.sets ∧ (decideRevolution s).sct.cache = s.sct.cache ∧
    (decideRevolution s).sct.tileBuf = s.sct.tileBuf ∧ (decideRevolution s).hmon = s.hmon ∧
    (decideRevolution s).freeIndex = s.freeIndex ∧ (decideRevolution s).pending = s.pending := by
  unfold decideRevolution
  (repeat' split) <;> simp

@[simp] theorem abandonIfFourth_keeps (s : State) :
    (abandonIfFourth s).part = s.part ∧ (abandonIfFourth s).resetHeld = s.resetHeld ∧
    (abandonIfFourth s).lp.framer = s.lp.framer ∧ (abandonIfFourth s).lp.cmdQueue = s.lp.cmdQueue ∧
    (abandonIfFourth s).lp.tx = s.lp.tx ∧ (abandonIfFourth s).lp.linkErrors = s.lp.linkErrors ∧
    (abandonIfFourth s).lp.overrun = s.lp.overrun ∧
    (abandonIfFourth s).lp.watchdogPeriod = s.lp.watchdogPeriod ∧
    (abandonIfFourth s).lp.watchdogRunning = s.lp.watchdogRunning ∧
    (abandonIfFourth s).lp.unattended = s.lp.unattended ∧ (abandonIfFourth s).lp.linkLost = s.lp.linkLost ∧
    (abandonIfFourth s).prx.contexts.length = s.prx.contexts.length ∧
    (abandonIfFourth s).prx.timeout = s.prx.timeout ∧
    (abandonIfFourth s).pdir.entries.length = s.pdir.entries.length ∧
    (abandonIfFourth s).pdir.counter = s.pdir.counter ∧ (abandonIfFourth s).psc.storeMiB = s.psc.storeMiB ∧
    (abandonIfFourth s).psc.poolSize = s.psc.poolSize ∧
    (abandonIfFourth s).psc.refreshInterval = s.psc.refreshInterval ∧
    (abandonIfFourth s).psc.refreshMerged = s.psc.refreshMerged ∧ (abandonIfFourth s).dram = s.dram ∧
    (abandonIfFourth s).sct.sets = s.sct.sets ∧ (abandonIfFourth s).sct.cache = s.sct.cache ∧
    (abandonIfFourth s).sct.tileBuf = s.sct.tileBuf ∧ (abandonIfFourth s).imp.nrev = s.imp.nrev ∧
    (abandonIfFourth s).imp.lead = s.imp.lead ∧ (abandonIfFourth s).imp.swath = s.imp.swath ∧
    (abandonIfFourth s).imp.half = s.imp.half ∧ (abandonIfFourth s).imp.dwellLimit = s.imp.dwellLimit ∧
    (abandonIfFourth s).imp.watermark = s.imp.watermark ∧
    (abandonIfFourth s).imp.ring.length = s.imp.ring.length ∧
    (abandonIfFourth s).imp.nextFetch = s.imp.nextFetch ∧ (abandonIfFourth s).imp.nextSend = s.imp.nextSend ∧
    (abandonIfFourth s).imp.recordTaken = s.imp.recordTaken ∧
    (abandonIfFourth s).imp.headWord = s.imp.headWord ∧ (abandonIfFourth s).hmon.channels = s.hmon.channels ∧
    (abandonIfFourth s).hmon.plateLoaded = s.hmon.plateLoaded ∧
    (abandonIfFourth s).hmon.drumReady = s.hmon.drumReady ∧
    (abandonIfFourth s).hmon.nrev = s.hmon.nrev ∧
    (abandonIfFourth s).hmon.slotCount = s.hmon.slotCount ∧ (abandonIfFourth s).hmon.overdue = s.hmon.overdue ∧
    (abandonIfFourth s).hmon.indexLost = s.hmon.indexLost ∧
    (abandonIfFourth s).hmon.tolerance = s.hmon.tolerance ∧
    (abandonIfFourth s).hmon.clockLoss = s.hmon.clockLoss ∧
    (abandonIfFourth s).hmon.highFailed = s.hmon.highFailed ∧
    (abandonIfFourth s).hmon.lowFailed = s.hmon.lowFailed ∧ (abandonIfFourth s).freeIndex = s.freeIndex ∧
    (abandonIfFourth s).pending = s.pending := by
  unfold abandonIfFourth
  (repeat' split) <;> simp

@[simp] theorem indexEvent_keeps (s : State) :
    (indexEvent s).part = s.part ∧ (indexEvent s).resetHeld = s.resetHeld ∧
    (indexEvent s).lp.framer = s.lp.framer ∧ (indexEvent s).lp.cmdQueue = s.lp.cmdQueue ∧
    (indexEvent s).lp.tx = s.lp.tx ∧ (indexEvent s).lp.linkErrors = s.lp.linkErrors ∧
    (indexEvent s).lp.overrun = s.lp.overrun ∧ (indexEvent s).lp.watchdogPeriod = s.lp.watchdogPeriod ∧
    (indexEvent s).lp.watchdogRunning = s.lp.watchdogRunning ∧ (indexEvent s).lp.unattended = s.lp.unattended ∧
    (indexEvent s).lp.linkLost = s.lp.linkLost ∧ (indexEvent s).prx.contexts.length = s.prx.contexts.length ∧
    (indexEvent s).prx.timeout = s.prx.timeout ∧ (indexEvent s).pdir.entries.length = s.pdir.entries.length ∧
    (indexEvent s).pdir.counter = s.pdir.counter ∧ (indexEvent s).psc.storeMiB = s.psc.storeMiB ∧
    (indexEvent s).psc.poolSize = s.psc.poolSize ∧ (indexEvent s).psc.refreshInterval = s.psc.refreshInterval ∧
    (indexEvent s).psc.refreshMerged = s.psc.refreshMerged ∧ (indexEvent s).dram = s.dram ∧
    (indexEvent s).sct.sets = s.sct.sets ∧ (indexEvent s).sct.cache = s.sct.cache ∧
    (indexEvent s).sct.tileBuf = s.sct.tileBuf ∧ (indexEvent s).hmon.channels = s.hmon.channels ∧
    (indexEvent s).hmon.plateLoaded = s.hmon.plateLoaded ∧ (indexEvent s).hmon.drumReady = s.hmon.drumReady ∧
    (indexEvent s).hmon.tolerance = s.hmon.tolerance ∧ (indexEvent s).hmon.clockLoss = s.hmon.clockLoss ∧
    (indexEvent s).hmon.highFailed = s.hmon.highFailed ∧ (indexEvent s).hmon.lowFailed = s.hmon.lowFailed ∧
    (indexEvent s).freeIndex = s.freeIndex ∧ (indexEvent s).pending = s.pending := by
  simp [indexEvent]

@[simp] theorem markOverdue_keeps (s : State) :
    (markOverdue s).part = s.part ∧ (markOverdue s).resetHeld = s.resetHeld ∧ (markOverdue s).lp = s.lp ∧
    (markOverdue s).prx = s.prx ∧ (markOverdue s).pdir = s.pdir ∧ (markOverdue s).psc = s.psc ∧
    (markOverdue s).dram = s.dram ∧ (markOverdue s).sct = s.sct ∧ (markOverdue s).ru = s.ru ∧
    (markOverdue s).psch = s.psch ∧ (markOverdue s).imp = s.imp ∧
    (markOverdue s).hmon.channels = s.hmon.channels ∧ (markOverdue s).hmon.plateLoaded = s.hmon.plateLoaded ∧
    (markOverdue s).hmon.drumReady = s.hmon.drumReady ∧ (markOverdue s).hmon.nrev = s.hmon.nrev ∧
    (markOverdue s).hmon.slotCount = s.hmon.slotCount ∧
    (markOverdue s).hmon.indexLost = s.hmon.indexLost ∧ (markOverdue s).hmon.tolerance = s.hmon.tolerance ∧
    (markOverdue s).hmon.clockLoss = s.hmon.clockLoss ∧ (markOverdue s).hmon.test = s.hmon.test ∧
    (markOverdue s).hmon.highFailed = s.hmon.highFailed ∧ (markOverdue s).hmon.lowFailed = s.hmon.lowFailed ∧
    (markOverdue s).drec.plateOpen = s.drec.plateOpen ∧ (markOverdue s).drec.sweepHeight = s.drec.sweepHeight ∧
    (markOverdue s).drec.geometry = s.drec.geometry ∧ (markOverdue s).drec.mark = s.drec.mark ∧
    (markOverdue s).drec.reject = s.drec.reject ∧ (markOverdue s).freeIndex = s.freeIndex ∧
    (markOverdue s).pending = s.pending := by
  unfold markOverdue
  dsimp only
  (repeat' split) <;> simp

@[simp] theorem reportClockLoss_keeps (clock : ClockName) (s : State) :
    (reportClockLoss clock s).part = s.part ∧ (reportClockLoss clock s).resetHeld = s.resetHeld ∧
    (reportClockLoss clock s).lp.framer = s.lp.framer ∧ (reportClockLoss clock s).lp.cmdQueue = s.lp.cmdQueue ∧
    (reportClockLoss clock s).lp.replyReserved = s.lp.replyReserved ∧
    (reportClockLoss clock s).lp.replyFinished = s.lp.replyFinished ∧
    (reportClockLoss clock s).lp.tx = s.lp.tx ∧ (reportClockLoss clock s).lp.linkErrors = s.lp.linkErrors ∧
    (reportClockLoss clock s).lp.overrun = s.lp.overrun ∧
    (reportClockLoss clock s).lp.watchdogPeriod = s.lp.watchdogPeriod ∧
    (reportClockLoss clock s).lp.watchdogRunning = s.lp.watchdogRunning ∧
    (reportClockLoss clock s).lp.unattended = s.lp.unattended ∧
    (reportClockLoss clock s).lp.linkLost = s.lp.linkLost ∧
    (reportClockLoss clock s).prx.contexts.length = s.prx.contexts.length ∧
    (reportClockLoss clock s).prx.timeout = s.prx.timeout ∧
    (reportClockLoss clock s).pdir.entries.length = s.pdir.entries.length ∧
    (reportClockLoss clock s).pdir.counter = s.pdir.counter ∧
    (reportClockLoss clock s).psc.storeMiB = s.psc.storeMiB ∧
    (reportClockLoss clock s).psc.poolSize = s.psc.poolSize ∧
    (reportClockLoss clock s).psc.refreshInterval = s.psc.refreshInterval ∧
    (reportClockLoss clock s).psc.refreshMerged = s.psc.refreshMerged ∧
    (reportClockLoss clock s).dram = s.dram ∧ (reportClockLoss clock s).sct.sets = s.sct.sets ∧
    (reportClockLoss clock s).sct.cache = s.sct.cache ∧ (reportClockLoss clock s).sct.tileBuf = s.sct.tileBuf ∧
    (reportClockLoss clock s).imp.nrev = s.imp.nrev ∧ (reportClockLoss clock s).imp.lead = s.imp.lead ∧
    (reportClockLoss clock s).imp.swath = s.imp.swath ∧ (reportClockLoss clock s).imp.half = s.imp.half ∧
    (reportClockLoss clock s).imp.dwellLimit = s.imp.dwellLimit ∧
    (reportClockLoss clock s).imp.watermark = s.imp.watermark ∧
    (reportClockLoss clock s).imp.ring.length = s.imp.ring.length ∧
    (reportClockLoss clock s).imp.nextFetch = s.imp.nextFetch ∧
    (reportClockLoss clock s).imp.nextSend = s.imp.nextSend ∧
    (reportClockLoss clock s).imp.recordTaken = s.imp.recordTaken ∧
    (reportClockLoss clock s).imp.headWord = s.imp.headWord ∧ (reportClockLoss clock s).hmon = s.hmon ∧
    (reportClockLoss clock s).freeIndex = s.freeIndex ∧ (reportClockLoss clock s).pending = s.pending := by
  unfold reportClockLoss
  (repeat' split) <;> simp

@[simp] theorem markLost_keeps (s : State) :
    (markLost s).part = s.part ∧ (markLost s).resetHeld = s.resetHeld ∧ (markLost s).lp.framer = s.lp.framer ∧
    (markLost s).lp.cmdQueue = s.lp.cmdQueue ∧ (markLost s).lp.replyReserved = s.lp.replyReserved ∧
    (markLost s).lp.replyFinished = s.lp.replyFinished ∧ (markLost s).lp.tx = s.lp.tx ∧
    (markLost s).lp.linkErrors = s.lp.linkErrors ∧ (markLost s).lp.overrun = s.lp.overrun ∧
    (markLost s).lp.watchdogPeriod = s.lp.watchdogPeriod ∧
    (markLost s).lp.watchdogRunning = s.lp.watchdogRunning ∧ (markLost s).lp.unattended = s.lp.unattended ∧
    (markLost s).lp.linkLost = s.lp.linkLost ∧ (markLost s).prx.contexts.length = s.prx.contexts.length ∧
    (markLost s).prx.timeout = s.prx.timeout ∧ (markLost s).pdir.entries.length = s.pdir.entries.length ∧
    (markLost s).pdir.counter = s.pdir.counter ∧ (markLost s).psc.storeMiB = s.psc.storeMiB ∧
    (markLost s).psc.poolSize = s.psc.poolSize ∧ (markLost s).psc.refreshInterval = s.psc.refreshInterval ∧
    (markLost s).psc.refreshMerged = s.psc.refreshMerged ∧ (markLost s).dram = s.dram ∧
    (markLost s).sct.sets = s.sct.sets ∧ (markLost s).sct.cache = s.sct.cache ∧
    (markLost s).sct.tileBuf = s.sct.tileBuf ∧ (markLost s).imp.nrev = s.imp.nrev ∧
    (markLost s).imp.lead = s.imp.lead ∧ (markLost s).imp.swath = s.imp.swath ∧
    (markLost s).imp.half = s.imp.half ∧ (markLost s).imp.dwellLimit = s.imp.dwellLimit ∧
    (markLost s).imp.watermark = s.imp.watermark ∧ (markLost s).imp.ring.length = s.imp.ring.length ∧
    (markLost s).imp.nextFetch = s.imp.nextFetch ∧ (markLost s).imp.nextSend = s.imp.nextSend ∧
    (markLost s).imp.recordTaken = s.imp.recordTaken ∧ (markLost s).imp.headWord = s.imp.headWord ∧
    (markLost s).hmon.channels = s.hmon.channels ∧ (markLost s).hmon.plateLoaded = s.hmon.plateLoaded ∧
    (markLost s).hmon.drumReady = s.hmon.drumReady ∧ (markLost s).hmon.nrev = s.hmon.nrev ∧
    (markLost s).hmon.slotCount = s.hmon.slotCount ∧
    (markLost s).hmon.overdue = s.hmon.overdue ∧ (markLost s).hmon.tolerance = s.hmon.tolerance ∧
    (markLost s).hmon.clockLoss = s.hmon.clockLoss ∧ (markLost s).hmon.test = s.hmon.test ∧
    (markLost s).hmon.highFailed = s.hmon.highFailed ∧ (markLost s).hmon.lowFailed = s.hmon.lowFailed ∧
    (markLost s).freeIndex = s.freeIndex ∧ (markLost s).pending = s.pending := by
  simp [markLost]

@[simp] theorem hmonSlot_keeps (s : State) :
    (hmonSlot s).part = s.part ∧ (hmonSlot s).resetHeld = s.resetHeld ∧ (hmonSlot s).lp.framer = s.lp.framer ∧
    (hmonSlot s).lp.cmdQueue = s.lp.cmdQueue ∧ (hmonSlot s).lp.replyReserved = s.lp.replyReserved ∧
    (hmonSlot s).lp.replyFinished = s.lp.replyFinished ∧ (hmonSlot s).lp.tx = s.lp.tx ∧
    (hmonSlot s).lp.linkErrors = s.lp.linkErrors ∧ (hmonSlot s).lp.overrun = s.lp.overrun ∧
    (hmonSlot s).lp.watchdogPeriod = s.lp.watchdogPeriod ∧
    (hmonSlot s).lp.watchdogRunning = s.lp.watchdogRunning ∧ (hmonSlot s).lp.unattended = s.lp.unattended ∧
    (hmonSlot s).lp.linkLost = s.lp.linkLost ∧ (hmonSlot s).prx.contexts.length = s.prx.contexts.length ∧
    (hmonSlot s).prx.timeout = s.prx.timeout ∧ (hmonSlot s).pdir.entries.length = s.pdir.entries.length ∧
    (hmonSlot s).pdir.counter = s.pdir.counter ∧ (hmonSlot s).psc.storeMiB = s.psc.storeMiB ∧
    (hmonSlot s).psc.poolSize = s.psc.poolSize ∧ (hmonSlot s).psc.refreshInterval = s.psc.refreshInterval ∧
    (hmonSlot s).psc.refreshMerged = s.psc.refreshMerged ∧ (hmonSlot s).dram = s.dram ∧
    (hmonSlot s).sct.sets = s.sct.sets ∧ (hmonSlot s).sct.cache = s.sct.cache ∧
    (hmonSlot s).sct.tileBuf = s.sct.tileBuf ∧ (hmonSlot s).imp.nrev = s.imp.nrev ∧
    (hmonSlot s).imp.lead = s.imp.lead ∧ (hmonSlot s).imp.swath = s.imp.swath ∧
    (hmonSlot s).imp.half = s.imp.half ∧ (hmonSlot s).imp.dwellLimit = s.imp.dwellLimit ∧
    (hmonSlot s).imp.watermark = s.imp.watermark ∧ (hmonSlot s).imp.ring.length = s.imp.ring.length ∧
    (hmonSlot s).imp.nextFetch = s.imp.nextFetch ∧ (hmonSlot s).imp.nextSend = s.imp.nextSend ∧
    (hmonSlot s).imp.recordTaken = s.imp.recordTaken ∧ (hmonSlot s).imp.headWord = s.imp.headWord ∧
    (hmonSlot s).hmon.channels = s.hmon.channels ∧ (hmonSlot s).hmon.plateLoaded = s.hmon.plateLoaded ∧
    (hmonSlot s).hmon.drumReady = s.hmon.drumReady ∧ (hmonSlot s).hmon.nrev = s.hmon.nrev ∧
    (hmonSlot s).hmon.tolerance = s.hmon.tolerance ∧
    (hmonSlot s).hmon.clockLoss = s.hmon.clockLoss ∧ (hmonSlot s).hmon.test = s.hmon.test ∧
    (hmonSlot s).hmon.highFailed = s.hmon.highFailed ∧ (hmonSlot s).hmon.lowFailed = s.hmon.lowFailed ∧
    (hmonSlot s).freeIndex = s.freeIndex ∧ (hmonSlot s).pending = s.pending := by
  unfold hmonSlot
  dsimp only
  (repeat' split) <;> simp

@[simp] theorem slotEvent_keeps (s : State) :
    (slotEvent s).part = s.part ∧ (slotEvent s).resetHeld = s.resetHeld ∧
    (slotEvent s).lp.framer = s.lp.framer ∧ (slotEvent s).lp.cmdQueue = s.lp.cmdQueue ∧
    (slotEvent s).lp.replyReserved = s.lp.replyReserved ∧ (slotEvent s).lp.replyFinished = s.lp.replyFinished ∧
    (slotEvent s).lp.tx = s.lp.tx ∧ (slotEvent s).lp.linkErrors = s.lp.linkErrors ∧
    (slotEvent s).lp.overrun = s.lp.overrun ∧ (slotEvent s).lp.watchdogPeriod = s.lp.watchdogPeriod ∧
    (slotEvent s).lp.watchdogRunning = s.lp.watchdogRunning ∧ (slotEvent s).lp.unattended = s.lp.unattended ∧
    (slotEvent s).lp.linkLost = s.lp.linkLost ∧ (slotEvent s).prx.contexts.length = s.prx.contexts.length ∧
    (slotEvent s).prx.timeout = s.prx.timeout ∧ (slotEvent s).pdir.entries.length = s.pdir.entries.length ∧
    (slotEvent s).pdir.counter = s.pdir.counter ∧ (slotEvent s).psc.storeMiB = s.psc.storeMiB ∧
    (slotEvent s).psc.poolSize = s.psc.poolSize ∧ (slotEvent s).psc.refreshInterval = s.psc.refreshInterval ∧
    (slotEvent s).psc.refreshMerged = s.psc.refreshMerged ∧ (slotEvent s).dram = s.dram ∧
    (slotEvent s).sct.sets = s.sct.sets ∧ (slotEvent s).sct.cache = s.sct.cache ∧
    (slotEvent s).sct.tileBuf = s.sct.tileBuf ∧ (slotEvent s).imp.nrev = s.imp.nrev ∧
    (slotEvent s).imp.lead = s.imp.lead ∧ (slotEvent s).imp.swath = s.imp.swath ∧
    (slotEvent s).imp.half = s.imp.half ∧ (slotEvent s).imp.dwellLimit = s.imp.dwellLimit ∧
    (slotEvent s).imp.watermark = s.imp.watermark ∧ (slotEvent s).imp.ring.length = s.imp.ring.length ∧
    (slotEvent s).imp.recordTaken = s.imp.recordTaken ∧ (slotEvent s).hmon.channels = s.hmon.channels ∧
    (slotEvent s).hmon.plateLoaded = s.hmon.plateLoaded ∧ (slotEvent s).hmon.drumReady = s.hmon.drumReady ∧
    (slotEvent s).hmon.nrev = s.hmon.nrev ∧
    (slotEvent s).hmon.tolerance = s.hmon.tolerance ∧ (slotEvent s).hmon.clockLoss = s.hmon.clockLoss ∧
    (slotEvent s).hmon.test = s.hmon.test ∧ (slotEvent s).hmon.highFailed = s.hmon.highFailed ∧
    (slotEvent s).hmon.lowFailed = s.hmon.lowFailed ∧ (slotEvent s).freeIndex = s.freeIndex ∧
    (slotEvent s).pending = s.pending := by
  simp [slotEvent]

@[simp] theorem cancelQueued_keeps (j : Job) (s : State) :
    (cancelQueued j s).part = s.part ∧ (cancelQueued j s).resetHeld = s.resetHeld ∧
    (cancelQueued j s).lp.framer = s.lp.framer ∧ (cancelQueued j s).lp.cmdQueue = s.lp.cmdQueue ∧
    (cancelQueued j s).lp.replyReserved = s.lp.replyReserved ∧
    (cancelQueued j s).lp.replyFinished = s.lp.replyFinished ∧ (cancelQueued j s).lp.tx = s.lp.tx ∧
    (cancelQueued j s).lp.linkErrors = s.lp.linkErrors ∧ (cancelQueued j s).lp.overrun = s.lp.overrun ∧
    (cancelQueued j s).lp.watchdogPeriod = s.lp.watchdogPeriod ∧
    (cancelQueued j s).lp.watchdogRunning = s.lp.watchdogRunning ∧
    (cancelQueued j s).lp.unattended = s.lp.unattended ∧ (cancelQueued j s).lp.linkLost = s.lp.linkLost ∧
    (cancelQueued j s).prx.contexts.length = s.prx.contexts.length ∧
    (cancelQueued j s).prx.timeout = s.prx.timeout ∧
    (cancelQueued j s).pdir.entries.length = s.pdir.entries.length ∧
    (cancelQueued j s).pdir.counter = s.pdir.counter ∧ (cancelQueued j s).psc.storeMiB = s.psc.storeMiB ∧
    (cancelQueued j s).psc.poolSize = s.psc.poolSize ∧
    (cancelQueued j s).psc.refreshInterval = s.psc.refreshInterval ∧
    (cancelQueued j s).psc.refreshMerged = s.psc.refreshMerged ∧ (cancelQueued j s).dram = s.dram ∧
    (cancelQueued j s).sct.sets = s.sct.sets ∧ (cancelQueued j s).sct.cache = s.sct.cache ∧
    (cancelQueued j s).sct.tileBuf = s.sct.tileBuf ∧ (cancelQueued j s).imp.nrev = s.imp.nrev ∧
    (cancelQueued j s).imp.lead = s.imp.lead ∧ (cancelQueued j s).imp.swath = s.imp.swath ∧
    (cancelQueued j s).imp.half = s.imp.half ∧ (cancelQueued j s).imp.dwellLimit = s.imp.dwellLimit ∧
    (cancelQueued j s).imp.watermark = s.imp.watermark ∧
    (cancelQueued j s).imp.ring.length = s.imp.ring.length ∧
    (cancelQueued j s).imp.nextFetch = s.imp.nextFetch ∧ (cancelQueued j s).imp.nextSend = s.imp.nextSend ∧
    (cancelQueued j s).imp.recordTaken = s.imp.recordTaken ∧ (cancelQueued j s).imp.headWord = s.imp.headWord ∧
    (cancelQueued j s).hmon = s.hmon ∧ (cancelQueued j s).freeIndex = s.freeIndex ∧
    (cancelQueued j s).pending = s.pending := by
  simp [cancelQueued]

@[simp] theorem cancelImaging_keeps (j : Job) (s : State) :
    (cancelImaging j s).part = s.part ∧ (cancelImaging j s).resetHeld = s.resetHeld ∧
    (cancelImaging j s).lp = s.lp ∧ (cancelImaging j s).prx = s.prx ∧ (cancelImaging j s).pdir = s.pdir ∧
    (cancelImaging j s).psc = s.psc ∧ (cancelImaging j s).dram = s.dram ∧ (cancelImaging j s).sct = s.sct ∧
    (cancelImaging j s).ru = s.ru ∧ (cancelImaging j s).psch.queue.length = s.psch.queue.length ∧
    (cancelImaging j s).psch.history = s.psch.history ∧ (cancelImaging j s).psch.armed = s.psch.armed ∧
    (cancelImaging j s).psch.fresh = s.psch.fresh ∧ (cancelImaging j s).imp.nrev = s.imp.nrev ∧
    (cancelImaging j s).imp.lead = s.imp.lead ∧ (cancelImaging j s).imp.swath = s.imp.swath ∧
    (cancelImaging j s).imp.half = s.imp.half ∧ (cancelImaging j s).imp.dwellLimit = s.imp.dwellLimit ∧
    (cancelImaging j s).imp.watermark = s.imp.watermark ∧ (cancelImaging j s).imp.ring = s.imp.ring ∧
    (cancelImaging j s).imp.rev = s.imp.rev ∧ (cancelImaging j s).imp.prev = s.imp.prev ∧
    (cancelImaging j s).imp.closing = s.imp.closing ∧ (cancelImaging j s).imp.exposed = s.imp.exposed ∧
    (cancelImaging j s).imp.firstExpose = s.imp.firstExpose ∧
    (cancelImaging j s).imp.dwellCount = s.imp.dwellCount ∧ (cancelImaging j s).imp.steps = s.imp.steps ∧
    (cancelImaging j s).imp.endDecided = s.imp.endDecided ∧ (cancelImaging j s).imp.fifo = s.imp.fifo ∧
    (cancelImaging j s).imp.nextFetch = s.imp.nextFetch ∧ (cancelImaging j s).imp.nextSend = s.imp.nextSend ∧
    (cancelImaging j s).imp.refill = s.imp.refill ∧ (cancelImaging j s).imp.underrun = s.imp.underrun ∧
    (cancelImaging j s).imp.recordTaken = s.imp.recordTaken ∧
    (cancelImaging j s).imp.headWord = s.imp.headWord ∧ (cancelImaging j s).hmon = s.hmon ∧
    (cancelImaging j s).drec = s.drec ∧ (cancelImaging j s).freeIndex = s.freeIndex ∧
    (cancelImaging j s).pending = s.pending := by
  simp [cancelImaging]

@[simp] theorem cancelJob_keeps (j : Job) (s : State) :
    (cancelJob j s).part = s.part ∧ (cancelJob j s).resetHeld = s.resetHeld ∧
    (cancelJob j s).lp.framer = s.lp.framer ∧ (cancelJob j s).lp.cmdQueue = s.lp.cmdQueue ∧
    (cancelJob j s).lp.replyReserved = s.lp.replyReserved ∧
    (cancelJob j s).lp.replyFinished = s.lp.replyFinished ∧ (cancelJob j s).lp.tx = s.lp.tx ∧
    (cancelJob j s).lp.linkErrors = s.lp.linkErrors ∧ (cancelJob j s).lp.overrun = s.lp.overrun ∧
    (cancelJob j s).lp.watchdogPeriod = s.lp.watchdogPeriod ∧
    (cancelJob j s).lp.watchdogRunning = s.lp.watchdogRunning ∧
    (cancelJob j s).lp.unattended = s.lp.unattended ∧ (cancelJob j s).lp.linkLost = s.lp.linkLost ∧
    (cancelJob j s).prx.contexts.length = s.prx.contexts.length ∧ (cancelJob j s).prx.timeout = s.prx.timeout ∧
    (cancelJob j s).pdir.entries.length = s.pdir.entries.length ∧
    (cancelJob j s).pdir.counter = s.pdir.counter ∧ (cancelJob j s).psc.storeMiB = s.psc.storeMiB ∧
    (cancelJob j s).psc.poolSize = s.psc.poolSize ∧
    (cancelJob j s).psc.refreshInterval = s.psc.refreshInterval ∧
    (cancelJob j s).psc.refreshMerged = s.psc.refreshMerged ∧ (cancelJob j s).dram = s.dram ∧
    (cancelJob j s).sct.sets = s.sct.sets ∧ (cancelJob j s).sct.cache = s.sct.cache ∧
    (cancelJob j s).sct.tileBuf = s.sct.tileBuf ∧ (cancelJob j s).imp.nrev = s.imp.nrev ∧
    (cancelJob j s).imp.lead = s.imp.lead ∧ (cancelJob j s).imp.swath = s.imp.swath ∧
    (cancelJob j s).imp.half = s.imp.half ∧ (cancelJob j s).imp.dwellLimit = s.imp.dwellLimit ∧
    (cancelJob j s).imp.watermark = s.imp.watermark ∧ (cancelJob j s).imp.ring.length = s.imp.ring.length ∧
    (cancelJob j s).imp.nextFetch = s.imp.nextFetch ∧ (cancelJob j s).imp.nextSend = s.imp.nextSend ∧
    (cancelJob j s).imp.recordTaken = s.imp.recordTaken ∧ (cancelJob j s).imp.headWord = s.imp.headWord ∧
    (cancelJob j s).hmon = s.hmon ∧ (cancelJob j s).freeIndex = s.freeIndex ∧
    (cancelJob j s).pending = s.pending := by
  unfold cancelJob
  (repeat' split) <;> simp

@[simp] theorem appendJob_keeps (j : Job) (s : State) :
    (appendJob j s).part = s.part ∧ (appendJob j s).resetHeld = s.resetHeld ∧ (appendJob j s).lp = s.lp ∧
    (appendJob j s).prx = s.prx ∧ (appendJob j s).pdir = s.pdir ∧ (appendJob j s).psc = s.psc ∧
    (appendJob j s).dram = s.dram ∧ (appendJob j s).sct = s.sct ∧ (appendJob j s).ru = s.ru ∧
    (appendJob j s).psch.history = s.psch.history ∧ (appendJob j s).psch.armed = s.psch.armed ∧
    (appendJob j s).psch.fresh = s.psch.fresh ∧ (appendJob j s).imp = s.imp ∧ (appendJob j s).hmon = s.hmon ∧
    (appendJob j s).drec = s.drec ∧ (appendJob j s).freeIndex = s.freeIndex ∧
    (appendJob j s).pending = s.pending := by
  simp [appendJob]

@[simp] theorem runStatus_keeps (f : Frame) (s : State) :
    (runStatus f s).part = s.part ∧ (runStatus f s).resetHeld = s.resetHeld ∧
    (runStatus f s).lp.framer = s.lp.framer ∧ (runStatus f s).lp.cmdQueue = s.lp.cmdQueue ∧
    (runStatus f s).lp.replyReserved = s.lp.replyReserved ∧ (runStatus f s).lp.reports = s.lp.reports ∧
    (runStatus f s).lp.tx = s.lp.tx ∧ (runStatus f s).lp.linkErrors = s.lp.linkErrors ∧
    (runStatus f s).lp.watchdogPeriod = s.lp.watchdogPeriod ∧
    (runStatus f s).lp.watchdogRunning = s.lp.watchdogRunning ∧
    (runStatus f s).lp.unattended = s.lp.unattended ∧ (runStatus f s).lp.linkLost = s.lp.linkLost ∧
    (runStatus f s).prx = s.prx ∧ (runStatus f s).pdir = s.pdir ∧ (runStatus f s).psc = s.psc ∧
    (runStatus f s).dram = s.dram ∧ (runStatus f s).sct = s.sct ∧ (runStatus f s).ru = s.ru ∧
    (runStatus f s).psch = s.psch ∧ (runStatus f s).imp = s.imp ∧ (runStatus f s).hmon = s.hmon ∧
    (runStatus f s).drec = s.drec ∧ (runStatus f s).freeIndex = s.freeIndex ∧
    (runStatus f s).pending = s.pending := by
  unfold runStatus
  dsimp only
  (repeat' split) <;> simp

@[simp] theorem runConfigure_keeps (f : Frame) (s : State) :
    (runConfigure f s).resetHeld = s.resetHeld ∧ (runConfigure f s).lp.framer = s.lp.framer ∧
    (runConfigure f s).lp.cmdQueue = s.lp.cmdQueue ∧ (runConfigure f s).lp.replyReserved = s.lp.replyReserved ∧
    (runConfigure f s).lp.reports = s.lp.reports ∧ (runConfigure f s).lp.tx = s.lp.tx ∧
    (runConfigure f s).lp.linkErrors = s.lp.linkErrors ∧ (runConfigure f s).lp.overrun = s.lp.overrun ∧
    (runConfigure f s).lp.reportsLost = s.lp.reportsLost ∧ (runConfigure f s).lp.unattended = s.lp.unattended ∧
    (runConfigure f s).lp.linkLost = s.lp.linkLost ∧ (runConfigure f s).prx.contexts = s.prx.contexts ∧
    (runConfigure f s).prx.chunk = s.prx.chunk ∧ (runConfigure f s).pdir = s.pdir ∧
    (runConfigure f s).dram = s.dram ∧ (runConfigure f s).sct.sets.length = s.sct.sets.length ∧
    (runConfigure f s).sct.cache = s.sct.cache ∧ (runConfigure f s).sct.tileBuf = s.sct.tileBuf ∧
    (runConfigure f s).sct.fill = s.sct.fill ∧ (runConfigure f s).ru = s.ru ∧ (runConfigure f s).psch = s.psch ∧
    (runConfigure f s).imp = s.imp ∧ (runConfigure f s).hmon.channels = s.hmon.channels ∧
    (runConfigure f s).hmon.plateLoaded = s.hmon.plateLoaded ∧
    (runConfigure f s).hmon.drumReady = s.hmon.drumReady ∧
    (runConfigure f s).hmon.nrev = s.hmon.nrev ∧
    (runConfigure f s).hmon.slotCount = s.hmon.slotCount ∧ (runConfigure f s).hmon.overdue = s.hmon.overdue ∧
    (runConfigure f s).hmon.indexLost = s.hmon.indexLost ∧ (runConfigure f s).hmon.test = s.hmon.test ∧
    (runConfigure f s).hmon.highFailed = s.hmon.highFailed ∧
    (runConfigure f s).hmon.lowFailed = s.hmon.lowFailed ∧ (runConfigure f s).drec = s.drec ∧
    (runConfigure f s).freeIndex = s.freeIndex ∧ (runConfigure f s).pending = s.pending := by
  unfold runConfigure
  (repeat' split) <;> simp

@[simp] theorem runRestart_keeps (f : Frame) (s : State) :
    (runRestart f s).part = s.part ∧ (runRestart f s).resetHeld = s.resetHeld ∧
    (runRestart f s).prx.contexts.length = s.prx.contexts.length ∧
    (runRestart f s).prx.timeout = s.prx.timeout ∧ (runRestart f s).dram = s.dram ∧
    (runRestart f s).sct.sets.length = s.sct.sets.length ∧ (runRestart f s).sct.cache = s.sct.cache ∧
    (runRestart f s).sct.tileBuf = s.sct.tileBuf ∧ (runRestart f s).ru.lineArt = s.ru.lineArt ∧
    (runRestart f s).ru.screen = s.ru.screen ∧ (runRestart f s).ru.windows = s.ru.windows ∧
    (runRestart f s).psch.fresh = s.psch.fresh ∧ (runRestart f s).imp.nrev = s.imp.nrev ∧
    (runRestart f s).imp.lead = s.imp.lead ∧ (runRestart f s).imp.swath = s.imp.swath ∧
    (runRestart f s).imp.half = s.imp.half ∧ (runRestart f s).imp.dwellLimit = s.imp.dwellLimit ∧
    (runRestart f s).imp.watermark = s.imp.watermark ∧ (runRestart f s).imp.ring.length = s.imp.ring.length ∧
    (runRestart f s).imp.nextFetch = s.imp.nextFetch ∧ (runRestart f s).imp.nextSend = s.imp.nextSend ∧
    (runRestart f s).imp.recordTaken = s.imp.recordTaken ∧ (runRestart f s).imp.headWord = s.imp.headWord ∧
    (runRestart f s).freeIndex = s.freeIndex ∧ (runRestart f s).pending = s.pending := by
  unfold runRestart
  (repeat' split) <;> simp

@[simp] theorem runPageClose_keeps (f : Frame) (s : State) :
    (runPageClose f s).part = s.part ∧ (runPageClose f s).resetHeld = s.resetHeld ∧
    (runPageClose f s).lp.framer = s.lp.framer ∧ (runPageClose f s).lp.cmdQueue = s.lp.cmdQueue ∧
    (runPageClose f s).lp.replyReserved = s.lp.replyReserved ∧ (runPageClose f s).lp.tx = s.lp.tx ∧
    (runPageClose f s).lp.linkErrors = s.lp.linkErrors ∧ (runPageClose f s).lp.overrun = s.lp.overrun ∧
    (runPageClose f s).lp.watchdogPeriod = s.lp.watchdogPeriod ∧
    (runPageClose f s).lp.watchdogRunning = s.lp.watchdogRunning ∧
    (runPageClose f s).lp.unattended = s.lp.unattended ∧ (runPageClose f s).lp.linkLost = s.lp.linkLost ∧
    (runPageClose f s).prx.contexts.length = s.prx.contexts.length ∧
    (runPageClose f s).prx.timeout = s.prx.timeout ∧
    (runPageClose f s).pdir.entries.length = s.pdir.entries.length ∧
    (runPageClose f s).pdir.counter = s.pdir.counter ∧ (runPageClose f s).psc.storeMiB = s.psc.storeMiB ∧
    (runPageClose f s).psc.poolSize = s.psc.poolSize ∧
    (runPageClose f s).psc.refreshInterval = s.psc.refreshInterval ∧
    (runPageClose f s).psc.refreshMerged = s.psc.refreshMerged ∧ (runPageClose f s).dram = s.dram ∧
    (runPageClose f s).sct.sets = s.sct.sets ∧ (runPageClose f s).sct.cache = s.sct.cache ∧
    (runPageClose f s).sct.tileBuf = s.sct.tileBuf ∧ (runPageClose f s).imp.nrev = s.imp.nrev ∧
    (runPageClose f s).imp.lead = s.imp.lead ∧ (runPageClose f s).imp.swath = s.imp.swath ∧
    (runPageClose f s).imp.half = s.imp.half ∧ (runPageClose f s).imp.dwellLimit = s.imp.dwellLimit ∧
    (runPageClose f s).imp.watermark = s.imp.watermark ∧
    (runPageClose f s).imp.ring.length = s.imp.ring.length ∧
    (runPageClose f s).imp.nextFetch = s.imp.nextFetch ∧ (runPageClose f s).imp.nextSend = s.imp.nextSend ∧
    (runPageClose f s).imp.recordTaken = s.imp.recordTaken ∧ (runPageClose f s).imp.headWord = s.imp.headWord ∧
    (runPageClose f s).hmon = s.hmon ∧ (runPageClose f s).freeIndex = s.freeIndex ∧
    (runPageClose f s).pending = s.pending := by
  unfold runPageClose
  (repeat' split) <;> simp

@[simp] theorem runPageQuery_keeps (f : Frame) (s : State) :
    (runPageQuery f s).part = s.part ∧ (runPageQuery f s).resetHeld = s.resetHeld ∧
    (runPageQuery f s).lp.framer = s.lp.framer ∧ (runPageQuery f s).lp.cmdQueue = s.lp.cmdQueue ∧
    (runPageQuery f s).lp.replyReserved = s.lp.replyReserved ∧ (runPageQuery f s).lp.reports = s.lp.reports ∧
    (runPageQuery f s).lp.tx = s.lp.tx ∧ (runPageQuery f s).lp.linkErrors = s.lp.linkErrors ∧
    (runPageQuery f s).lp.overrun = s.lp.overrun ∧ (runPageQuery f s).lp.reportsLost = s.lp.reportsLost ∧
    (runPageQuery f s).lp.watchdogPeriod = s.lp.watchdogPeriod ∧
    (runPageQuery f s).lp.watchdogRunning = s.lp.watchdogRunning ∧
    (runPageQuery f s).lp.unattended = s.lp.unattended ∧ (runPageQuery f s).lp.linkLost = s.lp.linkLost ∧
    (runPageQuery f s).prx = s.prx ∧ (runPageQuery f s).pdir = s.pdir ∧ (runPageQuery f s).psc = s.psc ∧
    (runPageQuery f s).dram = s.dram ∧ (runPageQuery f s).sct = s.sct ∧ (runPageQuery f s).ru = s.ru ∧
    (runPageQuery f s).psch = s.psch ∧ (runPageQuery f s).imp = s.imp ∧ (runPageQuery f s).hmon = s.hmon ∧
    (runPageQuery f s).drec = s.drec ∧ (runPageQuery f s).freeIndex = s.freeIndex ∧
    (runPageQuery f s).pending = s.pending := by
  unfold runPageQuery
  (repeat' split) <;> simp

@[simp] theorem runPageDrop_keeps (f : Frame) (s : State) :
    (runPageDrop f s).part = s.part ∧ (runPageDrop f s).resetHeld = s.resetHeld ∧
    (runPageDrop f s).lp.framer = s.lp.framer ∧ (runPageDrop f s).lp.cmdQueue = s.lp.cmdQueue ∧
    (runPageDrop f s).lp.replyReserved = s.lp.replyReserved ∧ (runPageDrop f s).lp.tx = s.lp.tx ∧
    (runPageDrop f s).lp.linkErrors = s.lp.linkErrors ∧ (runPageDrop f s).lp.overrun = s.lp.overrun ∧
    (runPageDrop f s).lp.watchdogPeriod = s.lp.watchdogPeriod ∧
    (runPageDrop f s).lp.watchdogRunning = s.lp.watchdogRunning ∧
    (runPageDrop f s).lp.unattended = s.lp.unattended ∧ (runPageDrop f s).lp.linkLost = s.lp.linkLost ∧
    (runPageDrop f s).prx.contexts.length = s.prx.contexts.length ∧
    (runPageDrop f s).prx.timeout = s.prx.timeout ∧
    (runPageDrop f s).pdir.entries.length = s.pdir.entries.length ∧
    (runPageDrop f s).pdir.counter = s.pdir.counter ∧ (runPageDrop f s).psc.storeMiB = s.psc.storeMiB ∧
    (runPageDrop f s).psc.poolSize = s.psc.poolSize ∧
    (runPageDrop f s).psc.refreshInterval = s.psc.refreshInterval ∧
    (runPageDrop f s).psc.refreshMerged = s.psc.refreshMerged ∧ (runPageDrop f s).dram = s.dram ∧
    (runPageDrop f s).sct.sets = s.sct.sets ∧ (runPageDrop f s).sct.cache = s.sct.cache ∧
    (runPageDrop f s).sct.tileBuf = s.sct.tileBuf ∧ (runPageDrop f s).imp.nrev = s.imp.nrev ∧
    (runPageDrop f s).imp.lead = s.imp.lead ∧ (runPageDrop f s).imp.swath = s.imp.swath ∧
    (runPageDrop f s).imp.half = s.imp.half ∧ (runPageDrop f s).imp.dwellLimit = s.imp.dwellLimit ∧
    (runPageDrop f s).imp.watermark = s.imp.watermark ∧ (runPageDrop f s).imp.ring.length = s.imp.ring.length ∧
    (runPageDrop f s).imp.nextFetch = s.imp.nextFetch ∧ (runPageDrop f s).imp.nextSend = s.imp.nextSend ∧
    (runPageDrop f s).imp.recordTaken = s.imp.recordTaken ∧ (runPageDrop f s).imp.headWord = s.imp.headWord ∧
    (runPageDrop f s).hmon = s.hmon ∧ (runPageDrop f s).freeIndex = s.freeIndex ∧
    (runPageDrop f s).pending = s.pending := by
  unfold runPageDrop
  dsimp only
  (repeat' split) <;> simp

@[simp] theorem runScreenBegin_keeps (f : Frame) (s : State) :
    (runScreenBegin f s).part = s.part ∧ (runScreenBegin f s).resetHeld = s.resetHeld ∧
    (runScreenBegin f s).lp.framer = s.lp.framer ∧ (runScreenBegin f s).lp.cmdQueue = s.lp.cmdQueue ∧
    (runScreenBegin f s).lp.replyReserved = s.lp.replyReserved ∧ (runScreenBegin f s).lp.tx = s.lp.tx ∧
    (runScreenBegin f s).lp.linkErrors = s.lp.linkErrors ∧ (runScreenBegin f s).lp.overrun = s.lp.overrun ∧
    (runScreenBegin f s).lp.watchdogPeriod = s.lp.watchdogPeriod ∧
    (runScreenBegin f s).lp.watchdogRunning = s.lp.watchdogRunning ∧
    (runScreenBegin f s).lp.unattended = s.lp.unattended ∧ (runScreenBegin f s).lp.linkLost = s.lp.linkLost ∧
    (runScreenBegin f s).prx.contexts.length = s.prx.contexts.length ∧
    (runScreenBegin f s).prx.timeout = s.prx.timeout ∧
    (runScreenBegin f s).pdir.entries.length = s.pdir.entries.length ∧
    (runScreenBegin f s).pdir.counter = s.pdir.counter ∧ (runScreenBegin f s).psc.storeMiB = s.psc.storeMiB ∧
    (runScreenBegin f s).psc.poolSize = s.psc.poolSize ∧
    (runScreenBegin f s).psc.refreshInterval = s.psc.refreshInterval ∧
    (runScreenBegin f s).psc.refreshMerged = s.psc.refreshMerged ∧ (runScreenBegin f s).dram = s.dram ∧
    (runScreenBegin f s).sct.sets.length = s.sct.sets.length ∧ (runScreenBegin f s).sct.cache = s.sct.cache ∧
    (runScreenBegin f s).sct.tileBuf = s.sct.tileBuf ∧ (runScreenBegin f s).imp.nrev = s.imp.nrev ∧
    (runScreenBegin f s).imp.lead = s.imp.lead ∧ (runScreenBegin f s).imp.swath = s.imp.swath ∧
    (runScreenBegin f s).imp.half = s.imp.half ∧ (runScreenBegin f s).imp.dwellLimit = s.imp.dwellLimit ∧
    (runScreenBegin f s).imp.watermark = s.imp.watermark ∧
    (runScreenBegin f s).imp.ring.length = s.imp.ring.length ∧
    (runScreenBegin f s).imp.nextFetch = s.imp.nextFetch ∧ (runScreenBegin f s).imp.nextSend = s.imp.nextSend ∧
    (runScreenBegin f s).imp.recordTaken = s.imp.recordTaken ∧
    (runScreenBegin f s).imp.headWord = s.imp.headWord ∧ (runScreenBegin f s).hmon = s.hmon ∧
    (runScreenBegin f s).freeIndex = s.freeIndex ∧ (runScreenBegin f s).pending = s.pending := by
  unfold runScreenBegin
  dsimp only
  (repeat' split) <;> simp

@[simp] theorem runScreenTile_keeps (f : Frame) (s : State) :
    (runScreenTile f s).part = s.part ∧ (runScreenTile f s).resetHeld = s.resetHeld ∧
    (runScreenTile f s).lp.framer = s.lp.framer ∧ (runScreenTile f s).lp.cmdQueue = s.lp.cmdQueue ∧
    (runScreenTile f s).lp.replyReserved = s.lp.replyReserved ∧ (runScreenTile f s).lp.reports = s.lp.reports ∧
    (runScreenTile f s).lp.tx = s.lp.tx ∧ (runScreenTile f s).lp.linkErrors = s.lp.linkErrors ∧
    (runScreenTile f s).lp.overrun = s.lp.overrun ∧ (runScreenTile f s).lp.reportsLost = s.lp.reportsLost ∧
    (runScreenTile f s).lp.watchdogPeriod = s.lp.watchdogPeriod ∧
    (runScreenTile f s).lp.watchdogRunning = s.lp.watchdogRunning ∧
    (runScreenTile f s).lp.unattended = s.lp.unattended ∧ (runScreenTile f s).lp.linkLost = s.lp.linkLost ∧
    (runScreenTile f s).prx = s.prx ∧ (runScreenTile f s).pdir = s.pdir ∧
    (runScreenTile f s).psc.storeMiB = s.psc.storeMiB ∧ (runScreenTile f s).psc.links = s.psc.links ∧
    (runScreenTile f s).psc.poolHead = s.psc.poolHead ∧ (runScreenTile f s).psc.poolTail = s.psc.poolTail ∧
    (runScreenTile f s).psc.freeCount = s.psc.freeCount ∧ (runScreenTile f s).psc.poolSize = s.psc.poolSize ∧
    (runScreenTile f s).psc.refreshInterval = s.psc.refreshInterval ∧
    (runScreenTile f s).psc.refreshMerged = s.psc.refreshMerged ∧ (runScreenTile f s).dram = s.dram ∧
    (runScreenTile f s).sct.sets.length = s.sct.sets.length ∧ (runScreenTile f s).sct.cache = s.sct.cache ∧
    (runScreenTile f s).sct.tag = s.sct.tag ∧ (runScreenTile f s).sct.fill = s.sct.fill ∧
    (runScreenTile f s).ru = s.ru ∧ (runScreenTile f s).psch = s.psch ∧ (runScreenTile f s).imp = s.imp ∧
    (runScreenTile f s).hmon = s.hmon ∧ (runScreenTile f s).drec = s.drec ∧
    (runScreenTile f s).freeIndex = s.freeIndex ∧ (runScreenTile f s).pending = s.pending := by
  unfold runScreenTile
  dsimp only
  (repeat' split) <;> simp

@[simp] theorem runScreenEnd_keeps (f : Frame) (s : State) :
    (runScreenEnd f s).part = s.part ∧ (runScreenEnd f s).resetHeld = s.resetHeld ∧
    (runScreenEnd f s).lp.framer = s.lp.framer ∧ (runScreenEnd f s).lp.cmdQueue = s.lp.cmdQueue ∧
    (runScreenEnd f s).lp.replyReserved = s.lp.replyReserved ∧ (runScreenEnd f s).lp.tx = s.lp.tx ∧
    (runScreenEnd f s).lp.linkErrors = s.lp.linkErrors ∧ (runScreenEnd f s).lp.overrun = s.lp.overrun ∧
    (runScreenEnd f s).lp.watchdogPeriod = s.lp.watchdogPeriod ∧
    (runScreenEnd f s).lp.watchdogRunning = s.lp.watchdogRunning ∧
    (runScreenEnd f s).lp.unattended = s.lp.unattended ∧ (runScreenEnd f s).lp.linkLost = s.lp.linkLost ∧
    (runScreenEnd f s).prx.contexts.length = s.prx.contexts.length ∧
    (runScreenEnd f s).prx.timeout = s.prx.timeout ∧
    (runScreenEnd f s).pdir.entries.length = s.pdir.entries.length ∧
    (runScreenEnd f s).pdir.counter = s.pdir.counter ∧ (runScreenEnd f s).psc.storeMiB = s.psc.storeMiB ∧
    (runScreenEnd f s).psc.poolSize = s.psc.poolSize ∧
    (runScreenEnd f s).psc.refreshInterval = s.psc.refreshInterval ∧
    (runScreenEnd f s).psc.refreshMerged = s.psc.refreshMerged ∧ (runScreenEnd f s).dram = s.dram ∧
    (runScreenEnd f s).sct.sets.length = s.sct.sets.length ∧ (runScreenEnd f s).sct.cache = s.sct.cache ∧
    (runScreenEnd f s).sct.tileBuf = s.sct.tileBuf ∧ (runScreenEnd f s).imp.nrev = s.imp.nrev ∧
    (runScreenEnd f s).imp.lead = s.imp.lead ∧ (runScreenEnd f s).imp.swath = s.imp.swath ∧
    (runScreenEnd f s).imp.half = s.imp.half ∧ (runScreenEnd f s).imp.dwellLimit = s.imp.dwellLimit ∧
    (runScreenEnd f s).imp.watermark = s.imp.watermark ∧
    (runScreenEnd f s).imp.ring.length = s.imp.ring.length ∧
    (runScreenEnd f s).imp.nextFetch = s.imp.nextFetch ∧ (runScreenEnd f s).imp.nextSend = s.imp.nextSend ∧
    (runScreenEnd f s).imp.recordTaken = s.imp.recordTaken ∧ (runScreenEnd f s).imp.headWord = s.imp.headWord ∧
    (runScreenEnd f s).hmon = s.hmon ∧ (runScreenEnd f s).freeIndex = s.freeIndex ∧
    (runScreenEnd f s).pending = s.pending := by
  unfold runScreenEnd
  dsimp only
  (repeat' split) <;> simp

@[simp] theorem runScreenQuery_keeps (f : Frame) (s : State) :
    (runScreenQuery f s).part = s.part ∧ (runScreenQuery f s).resetHeld = s.resetHeld ∧
    (runScreenQuery f s).lp.framer = s.lp.framer ∧ (runScreenQuery f s).lp.cmdQueue = s.lp.cmdQueue ∧
    (runScreenQuery f s).lp.replyReserved = s.lp.replyReserved ∧
    (runScreenQuery f s).lp.reports = s.lp.reports ∧ (runScreenQuery f s).lp.tx = s.lp.tx ∧
    (runScreenQuery f s).lp.linkErrors = s.lp.linkErrors ∧ (runScreenQuery f s).lp.overrun = s.lp.overrun ∧
    (runScreenQuery f s).lp.reportsLost = s.lp.reportsLost ∧
    (runScreenQuery f s).lp.watchdogPeriod = s.lp.watchdogPeriod ∧
    (runScreenQuery f s).lp.watchdogRunning = s.lp.watchdogRunning ∧
    (runScreenQuery f s).lp.unattended = s.lp.unattended ∧ (runScreenQuery f s).lp.linkLost = s.lp.linkLost ∧
    (runScreenQuery f s).prx = s.prx ∧ (runScreenQuery f s).pdir = s.pdir ∧ (runScreenQuery f s).psc = s.psc ∧
    (runScreenQuery f s).dram = s.dram ∧ (runScreenQuery f s).sct = s.sct ∧ (runScreenQuery f s).ru = s.ru ∧
    (runScreenQuery f s).psch = s.psch ∧ (runScreenQuery f s).imp = s.imp ∧ (runScreenQuery f s).hmon = s.hmon ∧
    (runScreenQuery f s).drec = s.drec ∧ (runScreenQuery f s).freeIndex = s.freeIndex ∧
    (runScreenQuery f s).pending = s.pending := by
  unfold runScreenQuery
  (repeat' split) <;> simp

@[simp] theorem runPlateQueue_keeps (f : Frame) (s : State) :
    (runPlateQueue f s).part = s.part ∧ (runPlateQueue f s).resetHeld = s.resetHeld ∧
    (runPlateQueue f s).lp.framer = s.lp.framer ∧ (runPlateQueue f s).lp.cmdQueue = s.lp.cmdQueue ∧
    (runPlateQueue f s).lp.replyReserved = s.lp.replyReserved ∧ (runPlateQueue f s).lp.tx = s.lp.tx ∧
    (runPlateQueue f s).lp.linkErrors = s.lp.linkErrors ∧ (runPlateQueue f s).lp.overrun = s.lp.overrun ∧
    (runPlateQueue f s).lp.watchdogPeriod = s.lp.watchdogPeriod ∧
    (runPlateQueue f s).lp.watchdogRunning = s.lp.watchdogRunning ∧
    (runPlateQueue f s).lp.unattended = s.lp.unattended ∧ (runPlateQueue f s).lp.linkLost = s.lp.linkLost ∧
    (runPlateQueue f s).prx.contexts.length = s.prx.contexts.length ∧
    (runPlateQueue f s).prx.timeout = s.prx.timeout ∧
    (runPlateQueue f s).pdir.entries.length = s.pdir.entries.length ∧
    (runPlateQueue f s).pdir.counter = s.pdir.counter ∧ (runPlateQueue f s).psc.storeMiB = s.psc.storeMiB ∧
    (runPlateQueue f s).psc.poolSize = s.psc.poolSize ∧
    (runPlateQueue f s).psc.refreshInterval = s.psc.refreshInterval ∧
    (runPlateQueue f s).psc.refreshMerged = s.psc.refreshMerged ∧ (runPlateQueue f s).dram = s.dram ∧
    (runPlateQueue f s).sct.sets = s.sct.sets ∧ (runPlateQueue f s).sct.cache = s.sct.cache ∧
    (runPlateQueue f s).sct.tileBuf = s.sct.tileBuf ∧ (runPlateQueue f s).imp.nrev = s.imp.nrev ∧
    (runPlateQueue f s).imp.lead = s.imp.lead ∧ (runPlateQueue f s).imp.swath = s.imp.swath ∧
    (runPlateQueue f s).imp.half = s.imp.half ∧ (runPlateQueue f s).imp.dwellLimit = s.imp.dwellLimit ∧
    (runPlateQueue f s).imp.watermark = s.imp.watermark ∧
    (runPlateQueue f s).imp.ring.length = s.imp.ring.length ∧
    (runPlateQueue f s).imp.nextFetch = s.imp.nextFetch ∧ (runPlateQueue f s).imp.nextSend = s.imp.nextSend ∧
    (runPlateQueue f s).imp.recordTaken = s.imp.recordTaken ∧
    (runPlateQueue f s).imp.headWord = s.imp.headWord ∧ (runPlateQueue f s).hmon = s.hmon ∧
    (runPlateQueue f s).freeIndex = s.freeIndex ∧ (runPlateQueue f s).pending = s.pending := by
  unfold runPlateQueue
  dsimp only
  (repeat' split) <;> simp

@[simp] theorem runPlateCancel_keeps (f : Frame) (s : State) :
    (runPlateCancel f s).part = s.part ∧ (runPlateCancel f s).resetHeld = s.resetHeld ∧
    (runPlateCancel f s).lp.framer = s.lp.framer ∧ (runPlateCancel f s).lp.cmdQueue = s.lp.cmdQueue ∧
    (runPlateCancel f s).lp.replyReserved = s.lp.replyReserved ∧ (runPlateCancel f s).lp.tx = s.lp.tx ∧
    (runPlateCancel f s).lp.linkErrors = s.lp.linkErrors ∧ (runPlateCancel f s).lp.overrun = s.lp.overrun ∧
    (runPlateCancel f s).lp.watchdogPeriod = s.lp.watchdogPeriod ∧
    (runPlateCancel f s).lp.watchdogRunning = s.lp.watchdogRunning ∧
    (runPlateCancel f s).lp.unattended = s.lp.unattended ∧ (runPlateCancel f s).lp.linkLost = s.lp.linkLost ∧
    (runPlateCancel f s).prx.contexts.length = s.prx.contexts.length ∧
    (runPlateCancel f s).prx.timeout = s.prx.timeout ∧
    (runPlateCancel f s).pdir.entries.length = s.pdir.entries.length ∧
    (runPlateCancel f s).pdir.counter = s.pdir.counter ∧ (runPlateCancel f s).psc.storeMiB = s.psc.storeMiB ∧
    (runPlateCancel f s).psc.poolSize = s.psc.poolSize ∧
    (runPlateCancel f s).psc.refreshInterval = s.psc.refreshInterval ∧
    (runPlateCancel f s).psc.refreshMerged = s.psc.refreshMerged ∧ (runPlateCancel f s).dram = s.dram ∧
    (runPlateCancel f s).sct.sets = s.sct.sets ∧ (runPlateCancel f s).sct.cache = s.sct.cache ∧
    (runPlateCancel f s).sct.tileBuf = s.sct.tileBuf ∧ (runPlateCancel f s).imp.nrev = s.imp.nrev ∧
    (runPlateCancel f s).imp.lead = s.imp.lead ∧ (runPlateCancel f s).imp.swath = s.imp.swath ∧
    (runPlateCancel f s).imp.half = s.imp.half ∧ (runPlateCancel f s).imp.dwellLimit = s.imp.dwellLimit ∧
    (runPlateCancel f s).imp.watermark = s.imp.watermark ∧
    (runPlateCancel f s).imp.ring.length = s.imp.ring.length ∧
    (runPlateCancel f s).imp.nextFetch = s.imp.nextFetch ∧ (runPlateCancel f s).imp.nextSend = s.imp.nextSend ∧
    (runPlateCancel f s).imp.recordTaken = s.imp.recordTaken ∧
    (runPlateCancel f s).imp.headWord = s.imp.headWord ∧ (runPlateCancel f s).hmon = s.hmon ∧
    (runPlateCancel f s).freeIndex = s.freeIndex ∧ (runPlateCancel f s).pending = s.pending := by
  unfold runPlateCancel
  (repeat' split) <;> simp

@[simp] theorem runPlateQuery_keeps (f : Frame) (s : State) :
    (runPlateQuery f s).part = s.part ∧ (runPlateQuery f s).resetHeld = s.resetHeld ∧
    (runPlateQuery f s).lp.framer = s.lp.framer ∧ (runPlateQuery f s).lp.cmdQueue = s.lp.cmdQueue ∧
    (runPlateQuery f s).lp.replyReserved = s.lp.replyReserved ∧ (runPlateQuery f s).lp.reports = s.lp.reports ∧
    (runPlateQuery f s).lp.tx = s.lp.tx ∧ (runPlateQuery f s).lp.linkErrors = s.lp.linkErrors ∧
    (runPlateQuery f s).lp.overrun = s.lp.overrun ∧ (runPlateQuery f s).lp.reportsLost = s.lp.reportsLost ∧
    (runPlateQuery f s).lp.watchdogPeriod = s.lp.watchdogPeriod ∧
    (runPlateQuery f s).lp.watchdogRunning = s.lp.watchdogRunning ∧
    (runPlateQuery f s).lp.unattended = s.lp.unattended ∧ (runPlateQuery f s).lp.linkLost = s.lp.linkLost ∧
    (runPlateQuery f s).prx = s.prx ∧ (runPlateQuery f s).pdir = s.pdir ∧ (runPlateQuery f s).psc = s.psc ∧
    (runPlateQuery f s).dram = s.dram ∧ (runPlateQuery f s).sct = s.sct ∧ (runPlateQuery f s).ru = s.ru ∧
    (runPlateQuery f s).psch = s.psch ∧ (runPlateQuery f s).imp = s.imp ∧ (runPlateQuery f s).hmon = s.hmon ∧
    (runPlateQuery f s).drec = s.drec ∧ (runPlateQuery f s).freeIndex = s.freeIndex ∧
    (runPlateQuery f s).pending = s.pending := by
  unfold runPlateQuery
  (repeat' split) <;> simp

@[simp] theorem runPlateList_keeps (f : Frame) (s : State) :
    (runPlateList f s).part = s.part ∧ (runPlateList f s).resetHeld = s.resetHeld ∧
    (runPlateList f s).lp.framer = s.lp.framer ∧ (runPlateList f s).lp.cmdQueue = s.lp.cmdQueue ∧
    (runPlateList f s).lp.replyReserved = s.lp.replyReserved ∧ (runPlateList f s).lp.reports = s.lp.reports ∧
    (runPlateList f s).lp.tx = s.lp.tx ∧ (runPlateList f s).lp.linkErrors = s.lp.linkErrors ∧
    (runPlateList f s).lp.overrun = s.lp.overrun ∧ (runPlateList f s).lp.reportsLost = s.lp.reportsLost ∧
    (runPlateList f s).lp.watchdogPeriod = s.lp.watchdogPeriod ∧
    (runPlateList f s).lp.watchdogRunning = s.lp.watchdogRunning ∧
    (runPlateList f s).lp.unattended = s.lp.unattended ∧ (runPlateList f s).lp.linkLost = s.lp.linkLost ∧
    (runPlateList f s).prx = s.prx ∧ (runPlateList f s).pdir = s.pdir ∧ (runPlateList f s).psc = s.psc ∧
    (runPlateList f s).dram = s.dram ∧ (runPlateList f s).sct = s.sct ∧ (runPlateList f s).ru = s.ru ∧
    (runPlateList f s).psch = s.psch ∧ (runPlateList f s).imp = s.imp ∧ (runPlateList f s).hmon = s.hmon ∧
    (runPlateList f s).drec = s.drec ∧ (runPlateList f s).freeIndex = s.freeIndex ∧
    (runPlateList f s).pending = s.pending := by
  simp [runPlateList]

@[simp] theorem runHeadSetup_keeps (f : Frame) (s : State) :
    (runHeadSetup f s).part = s.part ∧ (runHeadSetup f s).resetHeld = s.resetHeld ∧
    (runHeadSetup f s).lp.framer = s.lp.framer ∧ (runHeadSetup f s).lp.cmdQueue = s.lp.cmdQueue ∧
    (runHeadSetup f s).lp.replyReserved = s.lp.replyReserved ∧ (runHeadSetup f s).lp.reports = s.lp.reports ∧
    (runHeadSetup f s).lp.tx = s.lp.tx ∧ (runHeadSetup f s).lp.linkErrors = s.lp.linkErrors ∧
    (runHeadSetup f s).lp.overrun = s.lp.overrun ∧ (runHeadSetup f s).lp.reportsLost = s.lp.reportsLost ∧
    (runHeadSetup f s).lp.watchdogPeriod = s.lp.watchdogPeriod ∧
    (runHeadSetup f s).lp.watchdogRunning = s.lp.watchdogRunning ∧
    (runHeadSetup f s).lp.unattended = s.lp.unattended ∧ (runHeadSetup f s).lp.linkLost = s.lp.linkLost ∧
    (runHeadSetup f s).prx = s.prx ∧ (runHeadSetup f s).pdir = s.pdir ∧ (runHeadSetup f s).psc = s.psc ∧
    (runHeadSetup f s).dram = s.dram ∧ (runHeadSetup f s).sct = s.sct ∧ (runHeadSetup f s).ru = s.ru ∧
    (runHeadSetup f s).psch = s.psch ∧ (runHeadSetup f s).imp.ring = s.imp.ring ∧
    (runHeadSetup f s).imp.rev = s.imp.rev ∧ (runHeadSetup f s).imp.prev = s.imp.prev ∧
    (runHeadSetup f s).imp.closing = s.imp.closing ∧ (runHeadSetup f s).imp.exposed = s.imp.exposed ∧
    (runHeadSetup f s).imp.firstExpose = s.imp.firstExpose ∧
    (runHeadSetup f s).imp.dwellCount = s.imp.dwellCount ∧ (runHeadSetup f s).imp.steps = s.imp.steps ∧
    (runHeadSetup f s).imp.cancelPending = s.imp.cancelPending ∧
    (runHeadSetup f s).imp.endDecided = s.imp.endDecided ∧ (runHeadSetup f s).imp.fifo = s.imp.fifo ∧
    (runHeadSetup f s).imp.nextFetch = s.imp.nextFetch ∧ (runHeadSetup f s).imp.nextSend = s.imp.nextSend ∧
    (runHeadSetup f s).imp.refill = s.imp.refill ∧ (runHeadSetup f s).imp.underrun = s.imp.underrun ∧
    (runHeadSetup f s).imp.recordTaken = s.imp.recordTaken ∧ (runHeadSetup f s).imp.headWord = s.imp.headWord ∧
    (runHeadSetup f s).hmon.channels.length = s.hmon.channels.length ∧
    (runHeadSetup f s).hmon.plateLoaded = s.hmon.plateLoaded ∧
    (runHeadSetup f s).hmon.drumReady = s.hmon.drumReady ∧
    (runHeadSetup f s).hmon.nrev = s.hmon.nrev ∧
    (runHeadSetup f s).hmon.slotCount = s.hmon.slotCount ∧ (runHeadSetup f s).hmon.overdue = s.hmon.overdue ∧
    (runHeadSetup f s).hmon.indexLost = s.hmon.indexLost ∧
    (runHeadSetup f s).hmon.tolerance = s.hmon.tolerance ∧
    (runHeadSetup f s).hmon.clockLoss = s.hmon.clockLoss ∧ (runHeadSetup f s).hmon.test = s.hmon.test ∧
    (runHeadSetup f s).hmon.highFailed = s.hmon.highFailed ∧
    (runHeadSetup f s).hmon.lowFailed = s.hmon.lowFailed ∧ (runHeadSetup f s).drec = s.drec ∧
    (runHeadSetup f s).freeIndex = s.freeIndex ∧ (runHeadSetup f s).pending = s.pending := by
  unfold runHeadSetup
  (repeat' split) <;> simp

@[simp] theorem runChannelClear_keeps (f : Frame) (s : State) :
    (runChannelClear f s).part = s.part ∧ (runChannelClear f s).resetHeld = s.resetHeld ∧
    (runChannelClear f s).lp.framer = s.lp.framer ∧ (runChannelClear f s).lp.cmdQueue = s.lp.cmdQueue ∧
    (runChannelClear f s).lp.replyReserved = s.lp.replyReserved ∧
    (runChannelClear f s).lp.reports = s.lp.reports ∧ (runChannelClear f s).lp.tx = s.lp.tx ∧
    (runChannelClear f s).lp.linkErrors = s.lp.linkErrors ∧ (runChannelClear f s).lp.overrun = s.lp.overrun ∧
    (runChannelClear f s).lp.reportsLost = s.lp.reportsLost ∧
    (runChannelClear f s).lp.watchdogPeriod = s.lp.watchdogPeriod ∧
    (runChannelClear f s).lp.watchdogRunning = s.lp.watchdogRunning ∧
    (runChannelClear f s).lp.unattended = s.lp.unattended ∧ (runChannelClear f s).lp.linkLost = s.lp.linkLost ∧
    (runChannelClear f s).prx = s.prx ∧ (runChannelClear f s).pdir = s.pdir ∧
    (runChannelClear f s).psc = s.psc ∧ (runChannelClear f s).dram = s.dram ∧
    (runChannelClear f s).sct = s.sct ∧ (runChannelClear f s).ru = s.ru ∧ (runChannelClear f s).psch = s.psch ∧
    (runChannelClear f s).imp = s.imp ∧ (runChannelClear f s).hmon.channels.length = s.hmon.channels.length ∧
    (runChannelClear f s).hmon.plateLoaded = s.hmon.plateLoaded ∧
    (runChannelClear f s).hmon.drumReady = s.hmon.drumReady ∧
    (runChannelClear f s).hmon.nrev = s.hmon.nrev ∧
    (runChannelClear f s).hmon.slotCount = s.hmon.slotCount ∧
    (runChannelClear f s).hmon.overdue = s.hmon.overdue ∧
    (runChannelClear f s).hmon.indexLost = s.hmon.indexLost ∧
    (runChannelClear f s).hmon.tolerance = s.hmon.tolerance ∧
    (runChannelClear f s).hmon.clockLoss = s.hmon.clockLoss ∧ (runChannelClear f s).hmon.test = s.hmon.test ∧
    (runChannelClear f s).hmon.highFailed = s.hmon.highFailed ∧
    (runChannelClear f s).hmon.lowFailed = s.hmon.lowFailed ∧ (runChannelClear f s).drec = s.drec ∧
    (runChannelClear f s).freeIndex = s.freeIndex ∧ (runChannelClear f s).pending = s.pending := by
  unfold runChannelClear
  dsimp only
  (repeat' split) <;> simp

@[simp] theorem runMonitorTest_keeps (f : Frame) (s : State) :
    (runMonitorTest f s).part = s.part ∧ (runMonitorTest f s).resetHeld = s.resetHeld ∧
    (runMonitorTest f s).lp.framer = s.lp.framer ∧ (runMonitorTest f s).lp.cmdQueue = s.lp.cmdQueue ∧
    (runMonitorTest f s).lp.reports = s.lp.reports ∧ (runMonitorTest f s).lp.tx = s.lp.tx ∧
    (runMonitorTest f s).lp.linkErrors = s.lp.linkErrors ∧ (runMonitorTest f s).lp.overrun = s.lp.overrun ∧
    (runMonitorTest f s).lp.reportsLost = s.lp.reportsLost ∧
    (runMonitorTest f s).lp.watchdogPeriod = s.lp.watchdogPeriod ∧
    (runMonitorTest f s).lp.watchdogRunning = s.lp.watchdogRunning ∧
    (runMonitorTest f s).lp.unattended = s.lp.unattended ∧ (runMonitorTest f s).lp.linkLost = s.lp.linkLost ∧
    (runMonitorTest f s).prx = s.prx ∧ (runMonitorTest f s).pdir = s.pdir ∧ (runMonitorTest f s).psc = s.psc ∧
    (runMonitorTest f s).dram = s.dram ∧ (runMonitorTest f s).sct = s.sct ∧ (runMonitorTest f s).ru = s.ru ∧
    (runMonitorTest f s).psch = s.psch ∧ (runMonitorTest f s).imp = s.imp ∧
    (runMonitorTest f s).hmon.channels = s.hmon.channels ∧
    (runMonitorTest f s).hmon.plateLoaded = s.hmon.plateLoaded ∧
    (runMonitorTest f s).hmon.drumReady = s.hmon.drumReady ∧
    (runMonitorTest f s).hmon.nrev = s.hmon.nrev ∧
    (runMonitorTest f s).hmon.slotCount = s.hmon.slotCount ∧
    (runMonitorTest f s).hmon.overdue = s.hmon.overdue ∧
    (runMonitorTest f s).hmon.indexLost = s.hmon.indexLost ∧
    (runMonitorTest f s).hmon.tolerance = s.hmon.tolerance ∧
    (runMonitorTest f s).hmon.clockLoss = s.hmon.clockLoss ∧
    (runMonitorTest f s).hmon.highFailed = s.hmon.highFailed ∧
    (runMonitorTest f s).hmon.lowFailed = s.hmon.lowFailed ∧ (runMonitorTest f s).drec = s.drec ∧
    (runMonitorTest f s).freeIndex = s.freeIndex ∧ (runMonitorTest f s).pending = s.pending := by
  unfold runMonitorTest
  (repeat' split) <;> simp

theorem Psc.lend_keeps {p q : Psc} {b : Nat} (h : p.lend = some (b, q)) :
    q.storeMiB = p.storeMiB ∧ q.poolSize = p.poolSize ∧ q.inFlight = p.inFlight ∧ q.waiting = p.waiting ∧
    q.refreshInterval = p.refreshInterval ∧ q.refreshMerged = p.refreshMerged := by
  unfold Psc.lend at h
  (repeat' split at h) <;> simp at h <;> obtain ⟨-, rfl⟩ := h <;> simp

theorem takeBlock_keeps {needed : Bool} {tail new : Option Nat} {s t : State}
    (h : takeBlock needed tail s = some (new, t)) :
    t.part = s.part ∧ t.resetHeld = s.resetHeld ∧ t.lp = s.lp ∧ t.prx = s.prx ∧ t.pdir = s.pdir ∧
    t.psc.storeMiB = s.psc.storeMiB ∧ t.psc.poolSize = s.psc.poolSize ∧ t.psc.inFlight = s.psc.inFlight ∧
    t.psc.waiting = s.psc.waiting ∧ t.psc.refreshInterval = s.psc.refreshInterval ∧
    t.psc.refreshMerged = s.psc.refreshMerged ∧ t.dram = s.dram ∧ t.sct = s.sct ∧ t.ru = s.ru ∧
    t.psch = s.psch ∧ t.imp = s.imp ∧ t.hmon = s.hmon ∧ t.drec = s.drec ∧ t.freeIndex = s.freeIndex ∧
    t.pending = s.pending := by
  unfold takeBlock at h
  split at h
  · split at h
    · simp at h
    · rename_i hl
      split at h <;> simp at h <;> obtain ⟨-, rfl⟩ := h <;> simp [Psc.lend_keeps hl]
  · simp at h
    simp [h]

theorem placeChunk_keeps {i h b offset : Nat} {last : Bool} {bs : List Byte} {s t : State}
    (hp : placeChunk i h b offset last bs s = some t) :
    t.part = s.part ∧ t.resetHeld = s.resetHeld ∧ t.lp = s.lp ∧ t.prx.contexts.length = s.prx.contexts.length ∧
    t.prx.timeout = s.prx.timeout ∧ t.pdir.entries.length = s.pdir.entries.length ∧
    t.pdir.counter = s.pdir.counter ∧ t.psc.storeMiB = s.psc.storeMiB ∧ t.psc.poolSize = s.psc.poolSize ∧
    t.psc.refreshInterval = s.psc.refreshInterval ∧ t.psc.refreshMerged = s.psc.refreshMerged ∧
    t.dram = s.dram ∧ t.sct = s.sct ∧ t.ru = s.ru ∧ t.psch = s.psch ∧ t.imp = s.imp ∧ t.hmon = s.hmon ∧
    t.drec = s.drec ∧ t.freeIndex = s.freeIndex ∧ t.pending = s.pending := by
  unfold placeChunk at hp
  split at hp
  · dsimp only at hp
    split at hp
    · simp at hp
    · rename_i ht
      simp at hp
      subst hp
      simp [takeBlock_keeps ht]
  · simp at hp

theorem createEntry_keeps {x : ParcelHeader} {h : Nat} {s t : State} (hc : createEntry x s = some (h, t)) :
    t.part = s.part ∧ t.resetHeld = s.resetHeld ∧ t.lp = s.lp ∧ t.prx.contexts.length = s.prx.contexts.length ∧
    t.prx.chunk = s.prx.chunk ∧ t.prx.timeout = s.prx.timeout ∧ t.pdir.entries.length = s.pdir.entries.length ∧
    t.psc = s.psc ∧ t.dram = s.dram ∧ t.sct = s.sct ∧ t.ru = s.ru ∧ t.psch = s.psch ∧ t.imp = s.imp ∧
    t.hmon = s.hmon ∧ t.drec = s.drec ∧ t.freeIndex = s.freeIndex ∧ t.pending = s.pending := by
  unfold createEntry at hc
  split at hc <;> simp at hc
  obtain ⟨-, rfl⟩ := hc
  simp

@[simp] theorem acceptChunk_keeps (f : Frame) (x : ChunkOperands) (i : Nat) (opened : Bool) (s : State) :
    (acceptChunk f x i opened s s).part = s.part ∧ (acceptChunk f x i opened s s).resetHeld = s.resetHeld ∧
    (acceptChunk f x i opened s s).lp.framer = s.lp.framer ∧
    (acceptChunk f x i opened s s).lp.cmdQueue = s.lp.cmdQueue ∧
    (acceptChunk f x i opened s s).lp.replyReserved = s.lp.replyReserved ∧
    (acceptChunk f x i opened s s).lp.reports = s.lp.reports ∧ (acceptChunk f x i opened s s).lp.tx = s.lp.tx ∧
    (acceptChunk f x i opened s s).lp.linkErrors = s.lp.linkErrors ∧
    (acceptChunk f x i opened s s).lp.overrun = s.lp.overrun ∧
    (acceptChunk f x i opened s s).lp.reportsLost = s.lp.reportsLost ∧
    (acceptChunk f x i opened s s).lp.watchdogPeriod = s.lp.watchdogPeriod ∧
    (acceptChunk f x i opened s s).lp.watchdogRunning = s.lp.watchdogRunning ∧
    (acceptChunk f x i opened s s).lp.unattended = s.lp.unattended ∧
    (acceptChunk f x i opened s s).lp.linkLost = s.lp.linkLost ∧
    (acceptChunk f x i opened s s).prx.contexts.length = s.prx.contexts.length ∧
    (acceptChunk f x i opened s s).prx.timeout = s.prx.timeout ∧
    (acceptChunk f x i opened s s).pdir.entries.length = s.pdir.entries.length ∧
    (acceptChunk f x i opened s s).pdir.counter = s.pdir.counter ∧
    (acceptChunk f x i opened s s).psc.storeMiB = s.psc.storeMiB ∧
    (acceptChunk f x i opened s s).psc.poolSize = s.psc.poolSize ∧
    (acceptChunk f x i opened s s).psc.refreshInterval = s.psc.refreshInterval ∧
    (acceptChunk f x i opened s s).psc.refreshMerged = s.psc.refreshMerged ∧
    (acceptChunk f x i opened s s).dram = s.dram ∧ (acceptChunk f x i opened s s).sct = s.sct ∧
    (acceptChunk f x i opened s s).ru = s.ru ∧ (acceptChunk f x i opened s s).psch = s.psch ∧
    (acceptChunk f x i opened s s).imp = s.imp ∧ (acceptChunk f x i opened s s).hmon = s.hmon ∧
    (acceptChunk f x i opened s s).drec = s.drec ∧ (acceptChunk f x i opened s s).freeIndex = s.freeIndex ∧
    (acceptChunk f x i opened s s).pending = s.pending := by
  unfold acceptChunk
  split
  · rename_i hp
    simp [placeChunk_keeps hp]
  · simp

@[simp] theorem runOpener_keeps (f : Frame) (x : ChunkOperands) (r : BandRecord) (s : State) :
    (runOpener f x r s).part = s.part ∧ (runOpener f x r s).resetHeld = s.resetHeld ∧
    (runOpener f x r s).lp.framer = s.lp.framer ∧ (runOpener f x r s).lp.cmdQueue = s.lp.cmdQueue ∧
    (runOpener f x r s).lp.replyReserved = s.lp.replyReserved ∧ (runOpener f x r s).lp.reports = s.lp.reports ∧
    (runOpener f x r s).lp.tx = s.lp.tx ∧ (runOpener f x r s).lp.linkErrors = s.lp.linkErrors ∧
    (runOpener f x r s).lp.overrun = s.lp.overrun ∧ (runOpener f x r s).lp.reportsLost = s.lp.reportsLost ∧
    (runOpener f x r s).lp.watchdogPeriod = s.lp.watchdogPeriod ∧
    (runOpener f x r s).lp.watchdogRunning = s.lp.watchdogRunning ∧
    (runOpener f x r s).lp.unattended = s.lp.unattended ∧ (runOpener f x r s).lp.linkLost = s.lp.linkLost ∧
    (runOpener f x r s).prx.contexts.length = s.prx.contexts.length ∧
    (runOpener f x r s).prx.timeout = s.prx.timeout ∧
    (runOpener f x r s).pdir.entries.length = s.pdir.entries.length ∧
    (runOpener f x r s).pdir.counter = s.pdir.counter ∧ (runOpener f x r s).psc.storeMiB = s.psc.storeMiB ∧
    (runOpener f x r s).psc.poolSize = s.psc.poolSize ∧
    (runOpener f x r s).psc.refreshInterval = s.psc.refreshInterval ∧
    (runOpener f x r s).psc.refreshMerged = s.psc.refreshMerged ∧ (runOpener f x r s).dram = s.dram ∧
    (runOpener f x r s).sct = s.sct ∧ (runOpener f x r s).ru = s.ru ∧ (runOpener f x r s).psch = s.psch ∧
    (runOpener f x r s).imp = s.imp ∧ (runOpener f x r s).hmon = s.hmon ∧ (runOpener f x r s).drec = s.drec ∧
    (runOpener f x r s).freeIndex = s.freeIndex ∧ (runOpener f x r s).pending = s.pending := by
  unfold runOpener acceptChunk
  dsimp only
  (repeat' split) <;> first | (rename_i hp; simp [placeChunk_keeps hp]) | simp

@[simp] theorem runChunk_keeps (f : Frame) (x : ChunkOperands) (r : BandRecord) (s : State) :
    (runChunk f x r s).part = s.part ∧ (runChunk f x r s).resetHeld = s.resetHeld ∧
    (runChunk f x r s).lp.framer = s.lp.framer ∧ (runChunk f x r s).lp.cmdQueue = s.lp.cmdQueue ∧
    (runChunk f x r s).lp.replyReserved = s.lp.replyReserved ∧ (runChunk f x r s).lp.reports = s.lp.reports ∧
    (runChunk f x r s).lp.tx = s.lp.tx ∧ (runChunk f x r s).lp.linkErrors = s.lp.linkErrors ∧
    (runChunk f x r s).lp.overrun = s.lp.overrun ∧ (runChunk f x r s).lp.reportsLost = s.lp.reportsLost ∧
    (runChunk f x r s).lp.watchdogPeriod = s.lp.watchdogPeriod ∧
    (runChunk f x r s).lp.watchdogRunning = s.lp.watchdogRunning ∧
    (runChunk f x r s).lp.unattended = s.lp.unattended ∧ (runChunk f x r s).lp.linkLost = s.lp.linkLost ∧
    (runChunk f x r s).prx.contexts.length = s.prx.contexts.length ∧
    (runChunk f x r s).prx.timeout = s.prx.timeout ∧
    (runChunk f x r s).pdir.entries.length = s.pdir.entries.length ∧
    (runChunk f x r s).pdir.counter = s.pdir.counter ∧ (runChunk f x r s).psc.storeMiB = s.psc.storeMiB ∧
    (runChunk f x r s).psc.poolSize = s.psc.poolSize ∧
    (runChunk f x r s).psc.refreshInterval = s.psc.refreshInterval ∧
    (runChunk f x r s).psc.refreshMerged = s.psc.refreshMerged ∧ (runChunk f x r s).dram = s.dram ∧
    (runChunk f x r s).sct = s.sct ∧ (runChunk f x r s).ru = s.ru ∧ (runChunk f x r s).psch = s.psch ∧
    (runChunk f x r s).imp = s.imp ∧ (runChunk f x r s).hmon = s.hmon ∧ (runChunk f x r s).drec = s.drec ∧
    (runChunk f x r s).freeIndex = s.freeIndex ∧ (runChunk f x r s).pending = s.pending := by
  unfold runChunk
  (repeat' split) <;> simp

@[simp] theorem runPageBand_keeps (f : Frame) (s : State) :
    (runPageBand f s).part = s.part ∧ (runPageBand f s).resetHeld = s.resetHeld ∧
    (runPageBand f s).lp.framer = s.lp.framer ∧ (runPageBand f s).lp.cmdQueue = s.lp.cmdQueue ∧
    (runPageBand f s).lp.replyReserved = s.lp.replyReserved ∧ (runPageBand f s).lp.reports = s.lp.reports ∧
    (runPageBand f s).lp.tx = s.lp.tx ∧ (runPageBand f s).lp.linkErrors = s.lp.linkErrors ∧
    (runPageBand f s).lp.overrun = s.lp.overrun ∧ (runPageBand f s).lp.reportsLost = s.lp.reportsLost ∧
    (runPageBand f s).lp.watchdogPeriod = s.lp.watchdogPeriod ∧
    (runPageBand f s).lp.watchdogRunning = s.lp.watchdogRunning ∧
    (runPageBand f s).lp.unattended = s.lp.unattended ∧ (runPageBand f s).lp.linkLost = s.lp.linkLost ∧
    (runPageBand f s).prx.contexts.length = s.prx.contexts.length ∧
    (runPageBand f s).prx.timeout = s.prx.timeout ∧
    (runPageBand f s).pdir.entries.length = s.pdir.entries.length ∧
    (runPageBand f s).pdir.counter = s.pdir.counter ∧ (runPageBand f s).psc.storeMiB = s.psc.storeMiB ∧
    (runPageBand f s).psc.poolSize = s.psc.poolSize ∧
    (runPageBand f s).psc.refreshInterval = s.psc.refreshInterval ∧
    (runPageBand f s).psc.refreshMerged = s.psc.refreshMerged ∧ (runPageBand f s).dram = s.dram ∧
    (runPageBand f s).sct = s.sct ∧ (runPageBand f s).ru = s.ru ∧ (runPageBand f s).psch = s.psch ∧
    (runPageBand f s).imp = s.imp ∧ (runPageBand f s).hmon = s.hmon ∧ (runPageBand f s).drec = s.drec ∧
    (runPageBand f s).freeIndex = s.freeIndex ∧ (runPageBand f s).pending = s.pending := by
  unfold runPageBand
  dsimp only
  (repeat' split) <;> simp

@[simp] theorem runPageOpen_keeps (f : Frame) (s : State) :
    (runPageOpen f s).part = s.part ∧ (runPageOpen f s).resetHeld = s.resetHeld ∧
    (runPageOpen f s).lp.framer = s.lp.framer ∧ (runPageOpen f s).lp.cmdQueue = s.lp.cmdQueue ∧
    (runPageOpen f s).lp.replyReserved = s.lp.replyReserved ∧ (runPageOpen f s).lp.tx = s.lp.tx ∧
    (runPageOpen f s).lp.linkErrors = s.lp.linkErrors ∧ (runPageOpen f s).lp.overrun = s.lp.overrun ∧
    (runPageOpen f s).lp.watchdogPeriod = s.lp.watchdogPeriod ∧
    (runPageOpen f s).lp.watchdogRunning = s.lp.watchdogRunning ∧
    (runPageOpen f s).lp.unattended = s.lp.unattended ∧ (runPageOpen f s).lp.linkLost = s.lp.linkLost ∧
    (runPageOpen f s).prx.contexts.length = s.prx.contexts.length ∧
    (runPageOpen f s).prx.timeout = s.prx.timeout ∧
    (runPageOpen f s).pdir.entries.length = s.pdir.entries.length ∧
    (runPageOpen f s).psc.storeMiB = s.psc.storeMiB ∧ (runPageOpen f s).psc.poolSize = s.psc.poolSize ∧
    (runPageOpen f s).psc.refreshInterval = s.psc.refreshInterval ∧
    (runPageOpen f s).psc.refreshMerged = s.psc.refreshMerged ∧ (runPageOpen f s).dram = s.dram ∧
    (runPageOpen f s).sct.sets.length = s.sct.sets.length ∧ (runPageOpen f s).sct.tileBuf = s.sct.tileBuf ∧
    (runPageOpen f s).imp.nrev = s.imp.nrev ∧ (runPageOpen f s).imp.lead = s.imp.lead ∧
    (runPageOpen f s).imp.swath = s.imp.swath ∧ (runPageOpen f s).imp.half = s.imp.half ∧
    (runPageOpen f s).imp.dwellLimit = s.imp.dwellLimit ∧ (runPageOpen f s).imp.watermark = s.imp.watermark ∧
    (runPageOpen f s).imp.ring.length = s.imp.ring.length ∧ (runPageOpen f s).imp.nextFetch = s.imp.nextFetch ∧
    (runPageOpen f s).imp.nextSend = s.imp.nextSend ∧ (runPageOpen f s).imp.recordTaken = s.imp.recordTaken ∧
    (runPageOpen f s).imp.headWord = s.imp.headWord ∧ (runPageOpen f s).hmon = s.hmon ∧
    (runPageOpen f s).freeIndex = s.freeIndex ∧ (runPageOpen f s).pending = s.pending := by
  unfold runPageOpen
  dsimp only
  (repeat' split) <;> first | (rename_i hp; simp [createEntry_keeps hp]) | simp

end Sys2Proof.Machine
end

