-- ==== Sys2Proof/Laws/Ops.lean ====
section
/-! SUPPORT. For each shared operation, one lemma that says what it can do: taking a command, the bytes of a frame,
the sparse tables and the bytes of the store, the arbiter, the free pool, the defect list. -/

namespace Sys2Proof.Machine

/-! ## Taking a command (R9) -/

theorem serve_takes {p : Frame → Bool} {run : Frame → State → State} {s : State} {f : Frame} {rest : List Frame}
    (h : takes s f rest) (hp : p f = true) : serve p run s = .next (run f (taken s rest)) := by
  obtain ⟨h1, h2, h3, h4, h5⟩ := h
  simp [serve, takeCommand, canTake, Lp.placesUsed, *, taken]

/-- A command of kind `k`, in either state of the part (R2, R10). -/
theorem serve_kind {s : State} {f : Frame} {rest : List Frame} {k : Byte} (h : takes s f rest) (hk : ofKind k f)
    (run : Frame → State → State) : serve (isCommand k) run s = .next (run f (taken s rest)) :=
  serve_takes h (by simp [isCommand, hk.1, hk.2])

/-- A command that its owner serves in READY alone (R192). -/
theorem serve_ready {s : State} {f : Frame} {rest : List Frame} {k : Byte} (h : takes s f rest) (hk : ofKind k f)
    (hr : s.part = .ready) (run : Frame → State → State) :
    serve (isCommand k) (whenReady run) s = .next (run f (taken s rest)) := by
  rw [serve_kind h hk]
  simp [whenReady, taken, hr]

theorem serve_waits {p : Frame → Bool} {run : Frame → State → State} {s : State}
    (h : canTake s = false ∨ s.lp.cmdQueue = []) : serve p run s = .next s := by
  unfold serve takeCommand
  rcases h with h | h <;> simp [h]

/-- Everything that `serve` can do: the state is unchanged, or the command at the head is taken and run. -/
theorem serve_cases {p : Frame → Bool} {run : Frame → State → State} {s t : State} (h : serve p run s = .next t) :
    t = s ∨ ∃ f rest, takes s f rest ∧ p f = true ∧ t = run f (taken s rest) := by
  unfold serve takeCommand at h
  split at h
  · rename_i f u hk
    right
    split at hk
    · rename_i hc
      split at hk
      · rename_i g r hq
        split at hk
        · rename_i hp
          simp only [Option.some.injEq, Prod.mk.injEq] at hk
          obtain ⟨rfl, rfl⟩ := hk
          simp only [Host.Outcome.next.injEq] at h
          simp only [canTake, Lp.placesUsed, Bool.and_eq_true, Bool.not_eq_true', Option.isNone_iff_eq_none] at hc
          exact ⟨g, r, ⟨hc.1.1.1, hc.1.1.2, hc.1.2, of_decide_eq_true hc.2, hq⟩, hp, h.symm⟩
        · simp at hk
      · simp at hk
    · simp at hk
  · left
    simpa using h.symm

theorem serve_never_stops {p : Frame → Bool} {run : Frame → State → State} {s : State} :
    ∃ t, serve p run s = .next t := by
  unfold serve
  split <;> exact ⟨_, rfl⟩

/-! ## The bytes of a frame (R1) -/

theorem byteAt_append_left {p q : List Byte} {i : Nat} (h : i < p.length) : byteAt (p ++ q) i = byteAt p i := by
  simp [byteAt, List.getD_eq_getElem?_getD, List.getElem?_append, h]

theorem halfAt_append_left {p q : List Byte} {i : Nat} (h : i + 1 < p.length) : halfAt (p ++ q) i = halfAt p i := by
  simp [halfAt, byteAt_append_left h, byteAt_append_left (Nat.lt_of_succ_lt h)]

theorem frameLength_append {p q : List Byte} (h : 3 ≤ p.length) : frameLength (p ++ q) = frameLength p :=
  halfAt_append_left h

theorem frameBytes_length (k t : Byte) (p : List Byte) : (frameBytes k t p).length = 7 + p.length := by
  simp [frameBytes, u16]
  omega

theorem frameLength_frameBytes (k t : Byte) (p : List Byte) (hp : p.length ≤ 4096) (n : Nat) (hn : 3 ≤ n) :
    frameLength ((frameBytes k t p).take n) = p.length := by
  obtain ⟨m, rfl⟩ : ∃ m, n = m + 3 := ⟨n - 3, by omega⟩
  simp [frameBytes, u16, frameLength, halfAt, byteAt]
  omega

/-- What a valid frame makes of LP's state (R6, R8, R17, R18). -/
theorem validFrame_eq (l : Lp) (f : Frame) : l.validFrame f = { l with
      framer := .hunting
      watchdogRunning := decide (l.watchdogPeriod ≠ 0)
      unattended := false
      linkLost := false
      cmdQueue := if l.cmdQueue.length < 8 then l.cmdQueue ++ [f] else l.cmdQueue
      overrun := if l.cmdQueue.length < 8 then l.overrun else true } := by
  unfold Lp.validFrame Lp.offer
  dsimp only
  split <;> simp

/-- A frame's last byte: the frame is judged (R6). -/
theorem receiveByte_last {s : State} {bs : List Byte} {b : Byte} (hf : s.lp.framer = .frame bs) (h3 : 3 ≤ bs.length)
    (hl : bs.length + 1 = 7 + frameLength bs) : receiveByte b s =
      if frameSound (bs ++ [b]) then acceptFrame (frameOf (bs ++ [b])) s else discardFrame s := by
  simp only [receiveByte, hf]
  rw [if_neg (by simp; omega), if_pos (by simp [frameLength_append h3]; omega)]

/-- A byte that is not its frame's last joins the bytes kept (R3, R4). -/
theorem receiveByte_keeps_on {s : State} {bs : List Byte} {b : Byte} (hf : s.lp.framer = .frame bs)
    (h : bs.length < 2 ∨ (bs.length = 2 ∧ frameLength (bs ++ [b]) ≤ 4096) ∨
      (3 ≤ bs.length ∧ bs.length + 1 < 7 + frameLength bs)) :
    receiveByte b s = { s with lp := { s.lp with framer := .frame (bs ++ [b]) } } := by
  simp only [receiveByte, hf]
  rw [if_neg, if_neg]
  · simp only [List.length_append, List.length_cons, List.length_nil]
    rintro ⟨h3, h4⟩
    rcases h with h | h | h
    · omega
    · omega
    · rw [frameLength_append h.1] at h4
      omega
  · simp only [List.length_append, List.length_cons, List.length_nil]
    rintro ⟨h3, h4⟩
    rcases h with h | h | h <;> omega

/-! ## Words in bytes (R68, R148) -/

@[simp] theorem wordBytes_length (w : Word) : (wordBytes w).length = 4 := rfl

/-- Byte i of a word, least significant byte first. -/
theorem wordBytes_getElem? (w : Word) : ∀ {i : Nat}, i < 4 → (wordBytes w)[i]? = some (w.extractLsb' (8 * i) 8)
  | 0, _ => rfl
  | 1, _ => rfl
  | 2, _ => rfl
  | 3, _ => rfl
  | n + 4, h => absurd h (by omega)

end Sys2Proof.Machine
end

