-- ==== Sys2Proof/Laws/Store.lean ====
section
/-! SUPPORT. The sparse tables and the page store: a read after a write, and the canonical form that every memory
operation keeps. -/

namespace Sys2Proof.Machine

/-! ## Sparse tables -/

theorem sparseGet_sparseSet {α : Type} (k j : Nat) (v : α) (m : List (Nat × α)) :
    sparseGet j (sparseSet k v m) = if j = k then some v else sparseGet j m := by
  induction m with
  | nil => simp [sparseSet, sparseGet, eq_comm]
  | cons c r ih =>
    obtain ⟨a, w⟩ := c
    unfold sparseSet
    split
    · by_cases h : j = k
      · simp [sparseGet, h]
      · simp [sparseGet, h, Ne.symm h]
    · split
      · rename_i h1 h2
        subst h2
        by_cases h : j = k
        · simp [sparseGet, h]
        · simp [sparseGet, h, Ne.symm h]
      · rename_i h1 h2
        simp only [sparseGet, ih]
        by_cases h : j = k
        · subst h
          simp [Ne.symm h2]
        · simp [h]

theorem sparseGet_sparseErase {α : Type} (k j : Nat) (m : List (Nat × α)) :
    sparseGet j (sparseErase k m) = if j = k then none else sparseGet j m := by
  induction m with
  | nil => simp [sparseErase, sparseGet]
  | cons c r ih =>
    obtain ⟨a, w⟩ := c
    by_cases h : a = k
    · subst h
      have : sparseErase a ((a, w) :: r) = sparseErase a r := by simp [sparseErase]
      rw [this, ih]
      by_cases hj : j = a <;> simp [sparseGet, hj, eq_comm]
    · have : sparseErase k ((a, w) :: r) = (a, w) :: sparseErase k r := by simp [sparseErase, h]
      rw [this]
      simp only [sparseGet, ih]
      by_cases hj : a = j
      · subst hj
        simp [h]
      · simp [hj]

/-- The keys rise: each is below every later one. -/
theorem sparseWf_iff {α : Type} (m : List (Nat × α)) : sparseWf m = true ↔ (m.map Prod.fst).Pairwise (· < ·) := by
  induction m with
  | nil => simp [sparseWf]
  | cons c r ih =>
    obtain ⟨a, v⟩ := c
    cases r with
    | nil => simp [sparseWf]
    | cons d r =>
      obtain ⟨b, w⟩ := d
      simp only [sparseWf, Bool.and_eq_true, decide_eq_true_eq, ih, List.map_cons, List.pairwise_cons]
      constructor
      · rintro ⟨hab, h1, h2⟩
        refine ⟨?_, h1, h2⟩
        intro x hx
        rcases List.mem_cons.1 hx with rfl | hx
        · exact hab
        · exact Nat.lt_trans hab (h1 x hx)
      · rintro ⟨h0, h1, h2⟩
        exact ⟨h0 b (by simp), h1, h2⟩

theorem sparseSet_keys {α : Type} (k : Nat) (v : α) (m : List (Nat × α)) :
    ∀ x ∈ (sparseSet k v m).map Prod.fst, x = k ∨ x ∈ m.map Prod.fst := by
  induction m with
  | nil => simp [sparseSet]
  | cons c r ih =>
    obtain ⟨a, w⟩ := c
    unfold sparseSet
    split
    · simp
    · split
      · rename_i h
        subst h
        simp
      · intro x hx
        simp only [List.map_cons, List.mem_cons] at hx ⊢
        rcases hx with rfl | hx
        · exact .inr (.inl rfl)
        · rcases ih x hx with h | h
          · exact .inl h
          · exact .inr (.inr h)

/-- A write keeps the canonical form. -/
theorem sparseWf_sparseSet {α : Type} {k : Nat} {v : α} {m : List (Nat × α)} (h : sparseWf m = true) :
    sparseWf (sparseSet k v m) = true := by
  rw [sparseWf_iff] at h ⊢
  induction m with
  | nil => simp [sparseSet]
  | cons c r ih =>
    obtain ⟨a, w⟩ := c
    rw [List.map_cons, List.pairwise_cons] at h
    unfold sparseSet
    split
    · rename_i hk
      rw [List.map_cons, List.pairwise_cons]
      refine ⟨?_, by rw [List.map_cons, List.pairwise_cons]; exact h⟩
      intro x hx
      rcases List.mem_cons.1 hx with rfl | hx
      · exact hk
      · exact Nat.lt_trans hk (h.1 x hx)
    · split
      · rename_i hk
        subst hk
        rw [List.map_cons, List.pairwise_cons]
        exact h
      · rename_i h1 h2
        rw [List.map_cons, List.pairwise_cons]
        refine ⟨?_, ih h.2⟩
        intro x hx
        have hak : a < k := by omega
        rcases sparseSet_keys k v r x hx with rfl | hx
        · exact hak
        · exact h.1 x hx

theorem sparseWf_filter {α : Type} {p : Nat × α → Bool} {m : List (Nat × α)} (h : sparseWf m = true) :
    sparseWf (m.filter p) = true := by
  rw [sparseWf_iff] at h ⊢
  exact h.sublist (List.filter_sublist.map _)

theorem sparseWf_sparseErase {α : Type} {k : Nat} {m : List (Nat × α)} (h : sparseWf m = true) :
    sparseWf (sparseErase k m) = true := sparseWf_filter h

/-! ## The bytes of the store -/

theorem sparseGet_storeBytes (bs : List Byte) : ∀ (a j : Nat) (m : List Host.Cell),
    sparseGet j (storeBytes a bs m) =
      if a ≤ j ∧ j < a + bs.length then bs[j - a]? else sparseGet j m := by
  induction bs with
  | nil =>
    intro a j m
    have h : ¬(a ≤ j ∧ j < a + ([] : List Byte).length) := by simp
    rw [if_neg h]
    rfl
  | cons b r ih =>
    intro a j m
    simp only [storeBytes, ih, sparseGet_sparseSet, List.length_cons]
    by_cases h1 : j = a
    · subst h1
      simp
    · by_cases h2 : a + 1 ≤ j ∧ j < a + 1 + r.length
      · have h3 : a ≤ j ∧ j < a + (r.length + 1) := by omega
        rw [if_pos h2, if_pos h3]
        obtain ⟨n, rfl⟩ : ∃ n, j = a + 1 + n := ⟨j - (a + 1), by omega⟩
        have e1 : a + 1 + n - (a + 1) = n := by omega
        have e2 : a + 1 + n - a = n + 1 := by omega
        simp [e1, e2]
      · have h3 : ¬(a ≤ j ∧ j < a + (r.length + 1)) := by omega
        rw [if_neg h2, if_neg h3, if_neg h1]

/-- A byte of a write burst reads back. -/
theorem readByte_inside {s : State} {a i : Nat} {bs : List Byte} {b : Byte} (h : bs[i]? = some b) :
    readByte (writeBytes a bs s) (a + i) = b := by
  have hi : i < bs.length := (List.getElem?_eq_some_iff.1 h).1
  unfold readByte writeBytes
  simp only
  rw [sparseGet_storeBytes, if_pos (by omega), Nat.add_sub_cancel_left, h]

/-- A write burst leaves every other byte alone. -/
theorem readByte_outside {s : State} {a j : Nat} {bs : List Byte} (h : j < a ∨ a + bs.length ≤ j) :
    readByte (writeBytes a bs s) j = readByte s j := by
  unfold readByte writeBytes
  simp only
  rw [sparseGet_storeBytes, if_neg (by omega)]

/-- A byte reads as the stored bytes and the draw number say. -/
theorem readByte_congr {s t : State} (hd : t.dram = s.dram) (hf : t.freeIndex = s.freeIndex) (a : Nat) :
    readByte t a = readByte s a := by
  simp [readByte, hd, hf]

@[simp] theorem readBytes_length (s : State) (a n : Nat) : (readBytes s a n).length = n := by simp [readBytes]

/-! ## The canonical form of the store -/

theorem storeBytes_wf {bs : List Byte} : ∀ {a : Nat} {m : List Host.Cell}, Memory.wf m = true →
    Memory.wf (storeBytes a bs m) = true := by
  induction bs with
  | nil => intro a m h; exact h
  | cons b r ih => intro a m h; exact ih (sparseWf_sparseSet h)

/-- A write burst keeps the canonical form. -/
theorem writeBytes_wf {s : State} {a : Nat} {bs : List Byte} (h : Memory.wf s.dram = true) :
    Memory.wf (writeBytes a bs s).dram = true := storeBytes_wf h

/-- A merged refresh keeps the canonical form: no address changes. -/
theorem spoilStore_wf {s : State} (h : Memory.wf s.dram = true) : Memory.wf (spoilStore s).dram = true := by
  rw [Memory.wf, sparseWf_iff] at h ⊢
  simpa [spoilStore, Function.comp_def] using h

/-- The state after a hardware reset has the canonical form. -/
theorem reset_wf : Memory.wf State.reset.dram = true := rfl

/-! ## The block link table (R69) -/

theorem link_setLink (p : Psc) (b c : Nat) (n : Option Nat) :
    (p.setLink b n).link c = if c = b then n else p.link c := by
  cases n with
  | none => simp [Psc.setLink, Psc.link, sparseGet_sparseErase]
  | some m => simp [Psc.setLink, Psc.link, sparseGet_sparseSet]

theorem setLink_wf {p : Psc} {b : Nat} {n : Option Nat} (h : sparseWf p.links = true) :
    sparseWf (p.setLink b n).links = true := by
  cases n with
  | none => exact sparseWf_sparseErase h
  | some m => exact sparseWf_sparseSet h

theorem rejoin_wf {p : Psc} {b : Nat} (h : sparseWf p.links = true) : sparseWf (p.rejoin b).links = true := by
  unfold Psc.rejoin
  cases p.poolTail with
  | none => exact setLink_wf h
  | some t => exact setLink_wf (setLink_wf h)

theorem walk_wf (f : Nat) : ∀ {b : Nat} {p : Psc}, sparseWf p.links = true →
    sparseWf (Psc.walk f b p).1.links = true := by
  induction f with
  | zero => intro b p h; exact h
  | succ f ih =>
    intro b p h
    unfold Psc.walk
    split
    · exact rejoin_wf h
    · exact ih (rejoin_wf h)

/-- The return of a chain keeps the block link table canonical (R72). -/
theorem returnChain_wf {p : Psc} {o : Option Nat} (h : sparseWf p.links = true) :
    sparseWf (p.returnChain o).1.links = true := by
  cases o with
  | none => exact h
  | some b => exact walk_wf _ h

/-- A lent block keeps the block link table canonical (R71). -/
theorem lend_wf {p q : Psc} {b : Nat} (h : sparseWf p.links = true) (hl : p.lend = some (b, q)) :
    sparseWf q.links = true := by
  unfold Psc.lend at hl
  split at hl
  · simp at hl
  · split at hl
    · simp at hl
    · simp only [Option.some.injEq, Prod.mk.injEq] at hl
      obtain ⟨-, rfl⟩ := hl
      exact setLink_wf h

/-- Building the pool keeps the block link table canonical (R70, R74). -/
theorem buildPool_wf {p : Psc} {m : Nat} (h : sparseWf p.links = true) :
    sparseWf (p.buildPool m).links = true := by
  rw [sparseWf_iff] at h ⊢
  simp only [Psc.buildPool, List.map_append, List.pairwise_append]
  refine ⟨?_, ?_, ?_⟩
  · simp only [List.map_map, Function.comp_def, List.map_id']
    exact List.pairwise_lt_range'
  · exact h.sublist (List.filter_sublist.map _)
  · intro a ha b hb
    simp only [List.map_map, Function.comp_def, List.map_id', List.mem_range'_1] at ha
    simp only [List.mem_map, List.mem_filter, decide_eq_true_eq] at hb
    obtain ⟨c, ⟨_, hc⟩, rfl⟩ := hb
    omega

end Sys2Proof.Machine
end

