-- ==== Sys2Proof/Laws/Pool.lean ====
section
/-! SUPPORT. PSC's shared operations: what the pool runs through after it is built, lends a block and takes one back,
what the return of a chain leaves alone, and the request that the arbiter serves next. -/

namespace Sys2Proof.Machine

/-! ## The block link table and the free pool (R69 to R72) -/

theorem linked_congr {p q : Psc} (h : p.links = q.links) : ∀ l, p.linked l ↔ q.linked l
  | [] => Iff.rfl
  | [b] => by simp [Psc.linked, Psc.link, h]
  | b :: c :: r => by simp [Psc.linked, Psc.link, h, linked_congr h (c :: r)]

theorem poolIs_congr {p q : Psc} {l : List Nat} (h : p.links = q.links) (h1 : p.poolHead = q.poolHead)
    (h2 : p.poolTail = q.poolTail) (h3 : p.freeCount = q.freeCount) : p.poolIs l ↔ q.poolIs l := by
  simp [Psc.poolIs, linked_congr h, h1, h2, h3]

/-- Blocks whose links agree are linked alike. -/
theorem linked_of_agree {p q : Psc} : ∀ {l : List Nat}, (∀ b ∈ l, p.link b = q.link b) → (p.linked l ↔ q.linked l)
  | [], _ => Iff.rfl
  | [b], h => by simp [Psc.linked, h b (by simp)]
  | b :: c :: r, h => by
    simp only [Psc.linked, h b (by simp)]
    rw [linked_of_agree (l := c :: r) (fun x hx => h x (by simp [hx]))]

/-- A list of linked blocks that ends in `t` goes on to `b`. -/
theorem linked_snoc {p q : Psc} {t b : Nat} : ∀ {l : List Nat}, l.getLast? = some t → l.Nodup → q.linked l →
    (∀ x ∈ l, x ≠ t → p.link x = q.link x) → p.link t = some b → p.link b = none → p.linked (l ++ [b])
  | [], h, _, _, _, _, _ => by simp at h
  | [c], h, _, _, _, h1, h2 => by
    simp at h; subst h
    exact ⟨h1, h2⟩
  | c :: d :: r, h, hn, hq, ha, h1, h2 => by
    have h' : (d :: r).getLast? = some t := by simpa using h
    have ht : t ∈ d :: r := List.mem_of_getLast? h'
    have hn' := List.nodup_cons.1 hn
    have ih := linked_snoc (p := p) (q := q) (b := b) h' hn'.2 hq.2
      (fun x hx hxt => ha x (by simp [hx]) hxt) h1 h2
    refine ⟨?_, ih⟩
    rw [ha c (by simp) (fun e => hn'.1 (e ▸ ht))]
    exact hq.1

theorem rejoin_link (p : Psc) (b c : Nat) : (p.rejoin b).link c =
    if c = b then none else if p.poolTail = some c then some b else p.link c := by
  unfold Psc.rejoin
  cases h : p.poolTail with
  | none =>
    show ((Psc.setLink _ b none)).link c = _
    rw [link_setLink]; simp [Psc.link]
  | some t =>
    show ((Psc.setLink _ b none)).link c = _
    rw [link_setLink, link_setLink]
    simp [eq_comm]

/-- R72: a block rejoins the pool at its tail. -/
theorem rejoin_poolIs {p : Psc} {l : List Nat} {b : Nat} (h : p.poolIs l) (hb : b ∉ l) : (p.rejoin b).poolIs (l ++ [b]) := by
  obtain ⟨h1, h2, h3, h4, h5⟩ := h
  have ht : (p.rejoin b).poolTail = some b := by unfold Psc.rejoin; rfl
  have hc : (p.rejoin b).freeCount = p.freeCount + 1 := by
    unfold Psc.rejoin; cases p.poolTail <;> rfl
  have hh : (p.rejoin b).poolHead = if p.poolTail = none then some b else p.poolHead := by
    unfold Psc.rejoin; cases p.poolTail <;> rfl
  refine ⟨?_, by rw [ht]; simp, by rw [hc, h3]; simp, ?_, ?_⟩
  · rw [hh, h1, h2]
    cases l <;> simp
  · rw [List.nodup_append]; refine ⟨h4, by simp, ?_⟩
    intro x hx y hy e; simp at hy; subst hy; exact hb (e ▸ hx)
  · cases hl : l.getLast? with
    | none =>
      have : l = [] := by simpa using hl
      subst this
      simp [Psc.linked, rejoin_link]
    | some t =>
      rw [hl] at h2
      have htl : t ∈ l := List.mem_of_getLast? hl
      refine linked_snoc hl h4 h5 ?_ ?_ ?_
      · intro x hx hxt
        have hxb : x ≠ b := by rintro rfl; exact hb hx
        rw [rejoin_link, if_neg hxb, h2, if_neg (by simpa [eq_comm] using hxt)]
      · have htb : t ≠ b := by rintro rfl; exact hb htl
        rw [rejoin_link, if_neg htb, h2, if_pos rfl]
      · rw [rejoin_link, if_pos rfl]

theorem setLink_poolAside (p q : Psc) (b : Nat) (n : Option Nat) : (p.setLink b n).poolAside q ↔ p.poolAside q := by
  cases n <;> exact Iff.rfl

theorem rejoin_poolAside {p q : Psc} {b : Nat} : (p.rejoin b).poolAside q ↔ p.poolAside q := by
  unfold Psc.rejoin
  cases p.poolTail <;> exact Iff.rfl

theorem walk_poolAside (f : Nat) : ∀ (b : Nat) (p q : Psc), p.poolAside q → (Psc.walk f b p).1.poolAside q := by
  induction f with
  | zero => intro b p q h; exact h
  | succ f ih =>
    intro b p q h; unfold Psc.walk; split
    · exact rejoin_poolAside.2 h
    · exact ih _ _ _ (rejoin_poolAside.2 h)

theorem poolAside_refl (p : Psc) : p.poolAside p := rfl

theorem returnChain_poolAside (p : Psc) (o : Option Nat) : (p.returnChain o).1.poolAside p := by
  cases o with
  | none => exact poolAside_refl p
  | some b => exact walk_poolAside _ _ _ _ (poolAside_refl p)

theorem walk_count (f : Nat) : ∀ (b : Nat) (p : Psc), (Psc.walk f b p).1.freeCount = p.freeCount + (Psc.walk f b p).2 := by
  have hc : ∀ (p : Psc) b, (p.rejoin b).freeCount = p.freeCount + 1 := by
    intro p b; unfold Psc.rejoin; cases p.poolTail <;> rfl
  induction f with
  | zero => intro b p; rfl
  | succ f ih =>
    intro b p; unfold Psc.walk; split
    · exact hc _ _
    · simp only [ih, hc]; omega

theorem returnChain_count (p : Psc) (o : Option Nat) : (p.returnChain o).1.freeCount = p.freeCount + (p.returnChain o).2 := by
  cases o with
  | none => rfl
  | some b => exact walk_count _ _ _

/-- R70: the pool as CONFIGURE builds it runs through every block from 128 on. -/
theorem buildPool_poolIs (p : Psc) (m n : Nat) (hm : 1 ≤ n) (hn : n + 128 = m * 64) : (p.buildPool m).poolIs (List.range' 128 n) := by
  have key : ∀ b, 128 ≤ b → b < m * 64 → (p.buildPool m).link b = if b + 1 < m * 64 then some (b + 1) else none := by
    intro b h1 h2
    have hg : ∀ (n c : Nat) (r : List (Nat × Nat)), (∀ x ∈ r, m * 64 ≤ x.1) → c ≤ b → b < m*64 → c + n + 1 = m * 64 →
        sparseGet b ((List.range' c n).map (fun b => (b, b + 1)) ++ r) = if b + 1 < m * 64 then some (b+1) else none := by
      intro n
      induction n with
      | zero =>
        intro c r hr hc hb hn
        have : ¬ b + 1 < m * 64 := by omega
        simp only [List.range'_zero, List.map_nil, List.nil_append, if_neg this]
        induction r with
        | nil => rfl
        | cons x r ih =>
          have := hr x (by simp)
          simp only [sparseGet]
          rw [if_neg (by omega)]
          exact ih (fun y hy => hr y (by simp [hy]))
      | succ n ih =>
        intro c r hr hc hb hn
        simp only [List.range'_succ, List.map_cons, List.cons_append, sparseGet]
        by_cases h : c = b
        · subst h; rw [if_pos rfl, if_pos (by omega)]
        · rw [if_neg h]
          exact ih (c+1) r hr (by omega) hb (by omega)
    exact hg (m*64 - 129) 128 _ (by intro x hx; simpa using (List.mem_filter.1 hx).2) h1 h2 (by omega)
  have hl : ∀ n c, 128 ≤ c → c + n = m * 64 → (p.buildPool m).linked (List.range' c n) := by
    intro n
    induction n with
    | zero => intro c _ _; trivial
    | succ n ih =>
      intro c hc hn
      cases n with
      | zero =>
        simp only [List.range'_succ, List.range'_zero, Psc.linked]
        rw [key c hc (by omega), if_neg (by omega)]
      | succ n =>
        have := ih (c+1) (by omega) (by omega)
        simp only [List.range'_succ, Psc.linked] at this ⊢
        refine ⟨?_, this⟩
        rw [key c hc (by omega), if_pos (by omega)]
  have hnd : ∀ n c, (List.range' c n).Nodup := fun n c => List.nodup_range'
  refine ⟨?_, ?_, ?_, hnd n 128, hl n 128 (by omega) (by omega)⟩
  · rw [List.head?_range', if_neg (by omega)]; rfl
  · rw [List.getLast?_range', if_neg (by omega)]; show some _ = some _; congr 1; omega
  · rw [List.length_range']; show m * 64 - 128 = n; omega

/-- R71: what PSC lends: the head block of the pool, with END written for it. The rest of the pool is as it was. -/
theorem lend_spec {p : Psc} {b : Nat} {pool : List Nat} (h : p.poolIs (b :: pool)) :
    ∃ q, p.lend = some (b, q) ∧ q.poolIs pool ∧ q.poolAside p ∧
      ∀ c, q.link c = if c = b then none else p.link c := by
  obtain ⟨h1, h2, h3, h4, h5⟩ := h
  have h1 : p.poolHead = some b := h1
  have h3 : p.freeCount = pool.length + 1 := h3
  have h2 : p.poolTail = (b :: pool).getLast? := h2
  obtain ⟨hb, hnd⟩ := List.nodup_cons.1 h4
  have hlink : ∀ (q : Psc), q.links = p.links → ∀ c, (q.setLink b none).link c = if c = b then none else p.link c := by
    intro q hq c; rw [link_setLink]; split
    · rfl
    · exact congrArg (sparseGet c) hq
  refine ⟨_, by simp only [Psc.lend, h1, h3, Nat.add_one_ne_zero, if_false]; rfl, ?_, ?_, ?_⟩
  · refine ⟨?_, ?_, ?_, hnd, ?_⟩
    · cases pool with
      | nil => rfl
      | cons c r =>
        have : p.link b = some c := h5.1
        simp [Psc.setLink, this]
    · cases pool with
      | nil => rfl
      | cons c r => simp [Psc.setLink, h2]
    · simp [Psc.setLink]
    · have hq : p.linked pool := by
        cases pool with
        | nil => trivial
        | cons c r => exact h5.2
      refine (linked_of_agree fun c hc => ?_).1 hq
      exact ((hlink _ rfl c).trans (if_neg (show c ≠ b from fun e => hb (e ▸ hc)))).symm
  · rw [setLink_poolAside]; rfl
  · exact hlink _ rfl

theorem poolAside_trans {p q r : Psc} (h1 : p.poolAside q) (h2 : q.poolAside r) : p.poolAside r := by
  unfold Psc.poolAside at *
  cases p; cases q; cases r; simp_all

/-! ## Chains returned one after another (R72) -/

@[simp] theorem returnChains_nil (p : Psc) : p.returnChains [] = p := rfl

theorem returnChains_append (p : Psc) (a b : List (Option Nat)) :
    p.returnChains (a ++ b) = (p.returnChains a).returnChains b := List.foldl_append

/-- R72: the return of chains leaves alone all of PSC but the pool, and the free count does not fall. -/
theorem returnChains_spec (l : List (Option Nat)) : ∀ p : Psc,
    (p.returnChains l).poolAside p ∧ p.freeCount ≤ (p.returnChains l).freeCount := by
  induction l with
  | nil => exact fun p => ⟨poolAside_refl p, Nat.le_refl _⟩
  | cons o l ih =>
    intro p
    have h := ih (p.returnChain o).1
    have hc := returnChain_count p o
    exact ⟨poolAside_trans h.1 (returnChain_poolAside p o), by unfold Psc.returnChains at *; simp only [List.foldl_cons]; omega⟩

/-! ## The arbiter (R77) -/

theorem bestOf_mem : ∀ {l : List Op} {o : Op}, bestOf l = some o → o ∈ l
  | [], o, h => by simp [bestOf] at h
  | a :: r, o, h => by
    unfold bestOf at h
    cases hb : bestOf r with
    | none => rw [hb] at h; simp at h; simp [h]
    | some c =>
      rw [hb] at h; simp only at h
      have := bestOf_mem hb
      split at h <;> simp at h <;> subst h <;> simp [this]

/-- R77: the next owner is the oldest waiting request of the highest-ranked class. -/
theorem bestOf_split : ∀ {pre post : List Op} {op : Op}, (∀ q ∈ pre, op.client.rank < q.client.rank) →
    (∀ q ∈ post, op.client.rank ≤ q.client.rank) → bestOf (pre ++ op :: post) = some op
  | [], post, op, _, h2 => by
    simp only [List.nil_append, bestOf]
    cases hb : bestOf post with
    | none => rfl
    | some c =>
      have := h2 c (bestOf_mem hb)
      simp only; rw [if_neg (by omega)]
  | a :: pre, post, op, h1, h2 => by
    simp only [List.cons_append, bestOf]
    rw [bestOf_split (fun q hq => h1 q (by simp [hq])) h2]
    simp only; rw [if_pos (h1 a (by simp))]

/-- R78: a client drops its transfers: its waiting request is withdrawn and its burst in flight no longer wanted. -/
theorem dropped_eq (p : Psc) (c : Client) : p.dropped c = { p with
    waiting := p.waiting.filter (fun o => o.client != c)
    inFlight := match p.inFlight with
      | .busy op => .busy (if op.client = c then { op with stale := true } else op)
      | .idle => .idle
      | .ending => .ending } := by
  unfold Psc.dropped Psc.disown Psc.withdraw
  cases hf : p.inFlight with
  | busy op => by_cases hc : op.client = c <;> simp [hc]
  | idle => simp
  | ending => simp

/-- R78: a client that drops its transfers leaves the pool and the block link table alone. -/
@[simp] theorem dropped_keeps (p : Psc) (c : Client) :
    (p.dropped c).links = p.links ∧ (p.dropped c).poolHead = p.poolHead ∧ (p.dropped c).poolTail = p.poolTail ∧
    (p.dropped c).freeCount = p.freeCount ∧ (p.dropped c).poolSize = p.poolSize ∧
    (p.dropped c).storeMiB = p.storeMiB ∧ (p.dropped c).refreshInterval = p.refreshInterval ∧
    (p.dropped c).refreshMerged = p.refreshMerged := by
  simp [dropped_eq]

/-- R77: what a completion can leave, in either order: its client's handling with PSC as it then stands. -/
theorem completion_eq_atEnd (o : EndOrder) (client : State → State) (s : State) :
    completion o client s = atEnd o s (fun psc => client { s with psc := psc }) := by
  cases o <;> rfl

/-- R76, R77: a client without a waiting request has no operation behind the one that ends. -/
theorem endOperation_not_engaged {p : Psc} {c : Client} (h : ∀ q ∈ p.waiting, q.client ≠ c) :
    p.endOperation.engaged c = false := by
  unfold Psc.endOperation Psc.nextOwner
  cases hb : bestOf p.waiting with
  | none => simpa [Psc.engaged] using h
  | some op =>
    simp only [Psc.engaged, Bool.or_eq_false_iff, List.any_eq_false, decide_eq_true_eq, decide_eq_false_iff_not]
    exact ⟨fun q hq => h q (List.mem_of_mem_erase hq), h op (bestOf_mem hb)⟩

/-- R76, R77: so too while the operation in flight is ending. -/
theorem ending_not_engaged {p : Psc} {c : Client} (h : ∀ q ∈ p.waiting, q.client ≠ c) :
    Psc.engaged { p with inFlight := .ending } c = false := by
  simpa [Psc.engaged] using h

/-- R77: an end taken while the operation is ending is the end of the operation. -/
@[simp] theorem endOperation_ending (p : Psc) : Psc.endOperation { p with inFlight := .ending } = p.endOperation := by
  simp only [Psc.endOperation, Psc.nextOwner]

/-- R77: two handlings that agree on PSC after the end, and on PSC while it is ending, leave the same state. -/
theorem atEnd_congr {o : EndOrder} {s : State} {f g : Psc → State} (h1 : f s.psc.endOperation = g s.psc.endOperation)
    (h2 : f { s.psc with inFlight := .ending } = g { s.psc with inFlight := .ending }) : atEnd o s f = atEnd o s g := by
  cases o <;> simp [atEnd, h1, h2]

/-- R77: a completion whose client asks for nothing ends the operation alike in both orders. -/
theorem atEnd_idle (o : EndOrder) (s t : State) :
    atEnd o s (fun psc => { t with psc := psc }) = { t with psc := s.psc.endOperation } := by
  cases o
  · rfl
  · simp [atEnd, endOperation]

/-! ## A burst left behind (R46) -/

theorem staleLinkWrite_iff (s : State) : staleLinkWrite s = true ↔ staleWriteInFlight s := by
  unfold staleLinkWrite staleWriteInFlight
  cases s.psc.inFlight <;> simp

/-- R46: with no link-write burst left behind in flight, LP may take a PAGE.BAND whatever it needs. -/
theorem bandMayBeTaken_of_not_stale {s : State} (h : ¬staleWriteInFlight s) (f : Frame) : bandMayBeTaken s f = true := by
  have : staleLinkWrite s = false := by rw [← Bool.not_eq_true, staleLinkWrite_iff]; exact h
  simp [bandMayBeTaken, this]

/-- R46: while PRX has no burst in flight or waiting, none is left behind. -/
theorem not_stale_of_free {s : State} (h : s.psc.engaged .prxWrite = false) : ¬staleWriteInFlight s := by
  rintro ⟨op, h1, h2, _⟩
  simp [Psc.engaged, h1, h2] at h

end Sys2Proof.Machine
end

