-- ==== Sys2Proof/Laws/Directory.lean ====
section
/-! SUPPORT. The page directory's shared operations: entries written and read, the bands that an end of reception
misses, the bands that are not GOOD, the notes, the contexts. -/

namespace Sys2Proof.Machine

theorem entry_set {s : State} {h g : Nat} {e : Entry} (hh : h < s.pdir.entries.length) :
    entry (setEntry h e s) g = if g = h then e else entry s g := by
  unfold entry setEntry
  simp only [List.getD_eq_getElem?_getD, List.getElem?_set]
  by_cases hg : h = g
  · subst hg; simp [hh]
  · simp [hg, Ne.symm hg]

theorem set_entry (s : State) (h : Nat) : setEntry h (entry s h) s = s := by
  have : s.pdir.entries.set h (entry s h) = s.pdir.entries := by
    apply List.ext_getElem?
    intro i
    rw [List.getElem?_set]
    split
    · rename_i e; subst e
      split
      · rename_i h'; simp [entry, List.getD_eq_getElem?_getD, h']
      · simp_all
    · rfl
  simp [setEntry, this]

theorem setEntry_setEntry (h : Nat) (e d : Entry) (s : State) : setEntry h e (setEntry h d s) = setEntry h e s := by
  simp [setEntry]

/-- What a change of the pool and of one entry leaves. -/
def withEntry (s : State) (p : Psc) (h : Nat) (e : Entry) : State := setEntry h e { s with psc := p }

theorem returnChain_eq (o : Option Nat) (s : State) : (returnChain o s).1 = { s with psc := (s.psc.returnChain o).1 } := rfl

/-! ## The end of an entry's open bands (R35, R44) -/

/-- R35: one band's share of the end of an entry's open bands. -/
theorem missBand_spec (h : Nat) (s : State) (p : Psc) (e : Entry) (b : Nat) (hh : h < s.pdir.entries.length) :
    missBand h (withEntry s p h e) b = withEntry s
      (p.returnChains ((e.bands[b]?.toList.filter BandRecord.isOpen).map BandRecord.head)) h
      { e with bands := e.bands.modify b BandRecord.missed } := by
  have he : entry (withEntry s p h e) h = e := by simp [withEntry, entry_set, hh]
  unfold missBand bandOf
  rw [he]
  cases hb : e.bands[b]? with
  | none =>
    have : e.bands.modify b BandRecord.missed = e.bands := by
      apply List.ext_getElem?; intro i; rw [List.getElem?_modify]; split
      · rename_i e'; subst e'; simp [hb]
      · simp
    rw [this]; rfl
  | some r =>
    have hm : e.bands.modify b BandRecord.missed = e.bands.set b r.missed := by
      rw [List.modify_eq_set_getElem?]; simp [hb]
    simp only
    split
    · rename_i hc
      have ho : r.isOpen = true := by simpa [BandRecord.isOpen] using hc
      simp only [Option.toList_some, List.filter_cons, ho, if_true, List.filter_nil, List.map_cons, List.map_nil]
      rw [returnChain_eq]
      unfold setBand withEntry
      simp only [setEntry, hm, BandRecord.missed, if_pos hc, List.set_set]
      have : entry ({ (setEntry h e { s with psc := p }) with psc := (p.returnChain r.head).1 }) h = e := he
      simp only [setEntry] at this
      rw [this]; rfl
    · rename_i hc
      have ho : r.isOpen = false := by simpa [BandRecord.isOpen] using hc
      simp only [Option.toList_some, List.filter_cons, ho, Bool.false_eq_true, if_false, List.filter_nil, List.map_nil,
        returnChains_nil]
      have : r.missed = r := by simp [BandRecord.missed, hc]
      have h2 : e.bands.set b r = e.bands := by
        apply List.ext_getElem?; intro i; rw [List.getElem?_set]; split
        · rename_i e'; subst e'; split
          · exact hb.symm
          · simp_all
        · rfl
      rw [hm, this, h2]

/-- R35, R44: every open band of an entry becomes MISSING, and their chains go back to the pool in band order. -/
theorem missBands_spec (h : Nat) (s : State) (hh : h < s.pdir.entries.length) :
    missBands h s = withEntry s (s.psc.returnChains (entry s h).openChains) h (entry s h).missed := by
  have key : ∀ n, (List.range n).foldl (missBand h) s =
      withEntry s (s.psc.returnChains ((((entry s h).bands.take n).filter BandRecord.isOpen).map BandRecord.head)) h
        { entry s h with bands := (entry s h).bands.mapIdx (fun i r => if i < n then r.missed else r) } := by
    intro n
    induction n with
    | zero =>
      have : ((entry s h).bands.mapIdx fun i r => if i < 0 then r.missed else r) = (entry s h).bands := by
        apply List.ext_getElem? ; simp
      rw [this]; exact (set_entry s h).symm
    | succ n ih =>
      rw [List.range_succ, List.foldl_append, ih]
      simp only [List.foldl_cons, List.foldl_nil, missBand_spec h s _ _ n hh]
      have hb : (((entry s h).bands.mapIdx (fun i r => if i < n then r.missed else r))[n]?) = (entry s h).bands[n]? := by
        rw [List.getElem?_mapIdx]; cases (entry s h).bands[n]? <;> simp
      rw [hb, ← returnChains_append, ← List.map_append, ← List.filter_append, List.take_add_one]
      congr 2
      apply List.ext_getElem?; intro i
      simp only [List.getElem?_modify, List.getElem?_mapIdx]
      by_cases hi : n = i
      · subst hi; cases (entry s h).bands[n]? <;> simp
      · cases (entry s h).bands[i]? with
        | none => simp
        | some r =>
          simp only [Option.map_some, if_neg hi]
          by_cases h1 : i < n
          · simp [h1, Nat.lt_succ_of_lt h1]
          · have : ¬ i < n + 1 := by omega
            simp [h1, this]
  rw [missBands, key, List.take_length]
  have : ((entry s h).bands.mapIdx fun i r => if i < (entry s h).bands.length then r.missed else r) =
      (entry s h).bands.map BandRecord.missed := by
    apply List.ext_getElem; · simp
    intro i h1 h2
    simp at h1 ⊢
    intro h3; omega
  rw [this]; rfl

/-! ## Bands that are not GOOD -/

theorem notGood_eq (e : Entry) : e.notGood = (List.range e.bands.length).filter (fun b => (e.bands[b]?).any (fun r => r.state != .good)) := by
  unfold Entry.notGood
  have key : ∀ (l : List BandRecord) (n : Nat), (l.zipIdx n).filterMap (fun p => if p.1.state == .good then none else some p.2) =
      (List.range' n l.length).filter (fun b => (l[b - n]?).any (fun r => r.state != .good)) := by
    intro l
    induction l with
    | nil => intro n; rfl
    | cons r l ih =>
      intro n
      have h2 : (List.range' (n+1) l.length).filter (fun b => ((r :: l)[b - n]?).any (fun r => r.state != .good)) =
          (List.range' (n+1) l.length).filter (fun b => (l[b - (n+1)]?).any (fun r => r.state != .good)) := by
        apply List.filter_congr
        intro b hb
        have := (List.mem_range'_1.1 hb).1
        obtain ⟨k, rfl⟩ : ∃ k, b = n + 1 + k := ⟨b - (n+1), by omega⟩
        rw [show n + 1 + k - n = k + 1 by omega, show n + 1 + k - (n+1) = k by omega]; rfl
      simp only [List.zipIdx_cons, List.filterMap_cons, List.length_cons, List.range'_succ, List.filter_cons, ih, h2, Nat.sub_self, List.getElem?_cons_zero, Option.any_some]
      by_cases hr : r.state = .good <;> simp [hr]
  have := key e.bands 0
  simpa [List.range_eq_range'] using this

theorem firstBad_eq (e : Entry) : e.notGood.take 8 = e.firstBad := by rw [notGood_eq]; rfl

theorem notGood_length (e : Entry) : e.notGood.length = e.badBands := by
  unfold Entry.notGood Entry.badBands
  have key : ∀ (l : List BandRecord) (n : Nat), ((l.zipIdx n).filterMap (fun p => if p.1.state == .good then none else some p.2)).length =
      l.countP (fun r => r.state != .good) := by
    intro l
    induction l with
    | nil => intro n; rfl
    | cons r l ih =>
      intro n
      have := ih (n + 1)
      simp only [beq_iff_eq] at this
      by_cases hr : r.state = .good <;> simp [List.zipIdx_cons, hr, this]
  exact key _ _

theorem pageNote_eq (ev : PageEvent) (h : Nat) (e : Entry) : pageNote ev h e.state e = e.noteOf ev h := by
  simp [pageNote, Entry.noteOf, firstBad_eq]

/-! ## Contexts -/

theorem contextOf_congr {s t : State} (h : t.prx.contexts = s.prx.contexts) (g : Nat) : contextOf t g = contextOf s g := by
  simp [contextOf, h]

theorem freeContextOf_eq {h i : Nat} {s : State} (hc : contextOf s h = some i) : freeContextOf h s = setContext i none s := by
  simp [freeContextOf, hc]

theorem freeContextOf_none {h : Nat} {s : State} (hc : contextOf s h = none) : freeContextOf h s = s := by
  simp [freeContextOf, hc]

/-! ## The end of a reception (R35, R51) -/

/-- What queueing a report does to LP (R14). -/
theorem queueReport_eq (l : Lp) (r : Report) : l.queueReport r = { l with
    reports := if l.reports.length < 16 then l.reports ++ [r] else l.reports
    reportsLost := if l.reports.length < 16 then l.reportsLost else true } := by
  unfold Lp.queueReport
  split <;> rfl

theorem newerHeld_iff (s : State) (h : Nat) : newerHeld s h = true ↔
    ∃ g, g < s.pdir.entries.length ∧ g ≠ h ∧ (entry s g).current = true ∧ (entry s g).key = (entry s h).key ∧
      (entry s h).version < (entry s g).version := by
  unfold newerHeld
  rw [List.any_eq_true]
  constructor
  · rintro ⟨p, hp, hq⟩
    simp only [Bool.and_eq_true, bne_iff_ne, beq_iff_eq, decide_eq_true_eq] at hq
    obtain ⟨⟨⟨h1, h2⟩, h3⟩, h4⟩ := hq
    have := List.mem_zipIdx hp
    simp at this
    obtain ⟨hlt, he⟩ := this
    have : entry s p.2 = p.1 := by simp [entry, List.getD_eq_getElem?_getD, hlt, he]
    exact ⟨p.2, hlt, h1, by rw [this]; exact h2, by rw [this]; exact h3, by rw [this]; exact h4⟩
  · rintro ⟨g, h0, h1, h2, h3, h4⟩
    refine ⟨(entry s g, g), ?_, by simp [h1, h2, h3, h4]⟩
    rw [List.mem_zipIdx_iff_getElem?]
    simp [entry, List.getD_eq_getElem?_getD, h0]

/-- The context of an entry freed. -/
def freedContexts (s : State) (h : Nat) : List (Option Context) :=
  match contextOf s h with
  | some i => s.prx.contexts.set i none
  | none => s.prx.contexts

theorem freeContextOf_def (h : Nat) (s : State) :
    freeContextOf h s = { s with prx := { s.prx with contexts := freedContexts s h } } := by
  unfold freeContextOf freedContexts
  cases contextOf s h <;> rfl

/-- The entry as its reception's end leaves it, in the state given. -/
def Entry.endedAs (e : Entry) (st : EntryState) : Entry :=
  let m := { e with bands := e.bands.map BandRecord.missed }
  { m with damaged := m.badBands, state := st }

theorem closeReception_spec (ev : PageEvent) (byOpen : Bool) (h : Nat) (s : State) (hh : h < s.pdir.entries.length) :
      let st := if byOpen = true ∨ newerHeld s h = true then EntryState.superseded
        else ((entry s h).ended).state
      let e := (entry s h).endedAs st
      closedState (missBands h s) h byOpen = st ∧ (entry (missBands h s) h).notGood.length = e.damaged ∧
      let v : State := { s with
        psc := s.psc.returnChains (entry s h).openChains
        pdir := { s.pdir with entries := s.pdir.entries.set h e }
        prx := { s.prx with contexts := freedContexts s h }
        lp := s.lp.queueReport (e.noteOf ev h) }
      closeReception ev byOpen h s = if st = .superseded then releaseEntry h .superseded v else supersede h v := by
  have em := missBands_spec h s hh
  intro st e
  set p := s.psc.returnChains (entry s h).openChains
  set m : Entry := (entry s h).missed with hm
  have hem : entry (missBands h s) h = m := by rw [em]; simp [withEntry, entry_set, hh]
  have heg : ∀ g, g ≠ h → entry (missBands h s) g = entry s g := by
    intro g hg; rw [em, withEntry, entry_set (by exact hh), if_neg hg]; rfl
  have hlen : (missBands h s).pdir.entries.length = s.pdir.entries.length := by rw [em]; simp [withEntry, setEntry]
  have hnew : newerHeld (missBands h s) h = newerHeld s h := by
    rw [Bool.eq_iff_iff, newerHeld_iff, newerHeld_iff, hlen, hem]
    refine exists_congr fun g => and_congr_right fun _ => and_congr_right fun hg => ?_
    rw [heg g hg]; rfl
  have hst : closedState (missBands h s) h byOpen = st := by
    unfold closedState
    rw [hnew, hem]
    show _ = if _ then _ else _
    by_cases hc : byOpen = true ∨ newerHeld s h = true
    · rw [if_pos hc, if_pos (by simpa using hc)]
    · rw [if_neg hc, if_neg (by simpa using hc)]
      have : m.notGood.isEmpty = decide (m.badBands = 0) := by
        rw [← notGood_length]; cases m.notGood <;> simp
      rw [this]
      simp [Entry.ended, Entry.missed, hm]
  have hng : (entry (missBands h s) h).notGood.length = e.damaged := by
    rw [hem, notGood_length]; rfl
  refine ⟨hst, hng, ?_⟩
  intro v
  have hv : noteEntry ev h (freeContextOf h (setEntry h { entry (missBands h s) h with
      state := closedState (missBands h s) h byOpen, damaged := (entry (missBands h s) h).notGood.length } (missBands h s))) = v := by
    rw [hst, hng, hem]
    rw [em]
    have : setEntry h { m with state := st, damaged := e.damaged } (withEntry s p h m) = withEntry s p h e := by
      rw [withEntry, setEntry_setEntry]; rfl
    rw [this, freeContextOf_def]
    have hf : freedContexts (withEntry s p h e) h = freedContexts s h := rfl
    rw [hf]
    unfold noteEntry
    have he : entry { (withEntry s p h e) with prx := { (withEntry s p h e).prx with contexts := freedContexts s h } } h = e := by
      show entry (withEntry s p h e) h = e
      simp [withEntry, entry_set, hh]
    rw [he, pageNote_eq]
    rfl
  unfold closeReception
  simp only [hv]
  have : (entry v h).state = st := by
    have : entry v h = e := by
      show entry (withEntry s p h e) h = e
      simp [withEntry, entry_set, hh]
    rw [this]; rfl
  rw [this]

theorem foldl_fixed {α β : Type} {f : α → β → α} {a : α} {l : List β} (h : ∀ b ∈ l, f a b = a) : l.foldl f a = a := by
  induction l with
  | nil => rfl
  | cons b l ih => rw [List.foldl_cons, h b (by simp)]; exact ih (fun c hc => h c (by simp [hc]))

theorem entry_default {s : State} {g : Nat} (h : s.pdir.entries.length ≤ g) : entry s g = Entry.empty := by
  simp [entry, List.getD_eq_getElem?_getD, h]

theorem state_changed {s u : State} {h : Nat} {e : Entry} (hh : h < s.pdir.entries.length) (hu : u.pdir.entries = s.pdir.entries.set h e)
    (hne : e.state ≠ (entry s h).state) : testIfEntriesChanged s u = scheduleTest u := by
  unfold testIfEntriesChanged
  rw [if_neg]
  intro hc
  have := congrArg (fun l => l[h]?) hc
  simp [hu, hh] at this
  apply hne
  rw [← this]; simp [entry, List.getD_eq_getElem?_getD, hh]

theorem parseClose_u8 {h : Nat} (hh : h ≤ 63) : parseClose (u8 h) = some h := by
  simp [parseClose, u8, byteAt]; omega

/-! ## Releases and the end of a repair (R44, R59) -/

/-- R59, step 2: the chains of an entry go back to the pool in band order, and the blocks are counted. -/
theorem releaseChains_spec (h : Nat) (s : State) :
    let p := s.psc.returnChains (entry s h).chains
    releaseChains h s = ({ s with psc := p }, p.freeCount - s.psc.freeCount) := by
  have key : ∀ n, (List.range n).foldl (releaseBand h) (s, 0) =
      (let p := s.psc.returnChains (((entry s h).bands.take n).map BandRecord.head)
       ({ s with psc := p }, p.freeCount - s.psc.freeCount)) := by
    intro n
    induction n with
    | zero => simp
    | succ n ih =>
      rw [List.range_succ, List.foldl_append, ih, List.take_add_one, List.map_append, returnChains_append]
      simp only [List.foldl_cons, List.foldl_nil, releaseBand]
      set p := s.psc.returnChains (((entry s h).bands.take n).map BandRecord.head) with hp
      have hle : s.psc.freeCount ≤ p.freeCount := (returnChains_spec _ _).2
      have hb : bandOf { s with psc := p } h n = (entry s h).bands[n]? := rfl
      rw [hb]
      cases (entry s h).bands[n]? with
      | none => simp
      | some r =>
        have hc := returnChain_count p r.head
        have hr : p.returnChains ((some r).toList.map BandRecord.head) = (p.returnChain r.head).1 := rfl
        rw [hr]
        simp only [returnChain]
        congr 1
        omega
  rw [releaseChains, key, List.take_length]; rfl

theorem emptyChunkOf_none {h : Nat} {s : State} (hc : s.prx.chunk = none) : emptyChunkOf h s = s := by
  simp [emptyChunkOf, hc]

theorem emptyChunkOf_other {h : Nat} {s : State} (hc : ∀ c, s.prx.chunk = some c → c.handle ≠ h) : emptyChunkOf h s = s := by
  unfold emptyChunkOf
  cases hk : s.prx.chunk with
  | none => rfl
  | some c => simp [hc c hk]

/-- R59: what a release of an entry that no chunk in the chunk buffer belongs to leaves. -/
theorem releaseEntry_spec (h : Nat) (cause : ReleaseCause) (s : State) (hc : ∀ c, s.prx.chunk = some c → c.handle ≠ h) :
    let p := s.psc.returnChains (entry s h).chains
    releaseCount h s = p.freeCount - s.psc.freeCount ∧
      releaseEntry h cause s = { s with
        psc := p
        prx := { s.prx with contexts := freedContexts s h }
        lp := s.lp.queueReport ((entry s h).releaseNote cause (p.freeCount - s.psc.freeCount) h)
        pdir := { s.pdir with entries := s.pdir.entries.set h Entry.empty } } := by
  have h3 := releaseChains_spec h { s with prx := { s.prx with contexts := freedContexts s h } }
  refine ⟨?_, ?_⟩
  · unfold releaseCount; rw [emptyChunkOf_other hc, freeContextOf_def, h3]; rfl
  · unfold releaseEntry; rw [emptyChunkOf_other hc, freeContextOf_def, h3]
    simp only [pageNote, firstBad_eq]; rfl

theorem state_unchanged {s u : State} {h : Nat} {e : Entry} (hu : u.pdir.entries = s.pdir.entries.set h e)
    (he : e.state = (entry s h).state) : testIfEntriesChanged s u = u := by
  unfold testIfEntriesChanged
  rw [if_pos]
  rw [hu, List.map_set]
  apply List.ext_getElem?; intro k
  rw [List.getElem?_set]
  split
  · rename_i hk; subst hk
    split
    · rename_i hk; simp at hk; simp [he, entry, List.getD_eq_getElem?_getD, hk]
    · simp_all
  · rfl

/-- R44: what the end of an open repair leaves. -/
theorem endRepair_spec (h : Nat) (s : State) (hh : h < s.pdir.entries.length) (hc : ∀ c, s.prx.chunk = some c → c.handle ≠ h) :
    ∀ note : Option PageEvent,
      let e := (entry s h).missed
      endRepair h note s = { s with
        psc := s.psc.returnChains (entry s h).openChains
        pdir := { s.pdir with entries := s.pdir.entries.set h e }
        prx := { s.prx with contexts := freedContexts s h }
        lp := match note with
          | some ev => s.lp.queueReport (e.noteOf ev h)
          | none => s.lp } := by
  have h2 := missBands_spec h s hh
  intro note e
  set p := s.psc.returnChains (entry s h).openChains
  unfold endRepair
  rw [emptyChunkOf_other hc, h2, freeContextOf_def]
  have hf : freedContexts (withEntry s p h e) h = freedContexts s h := rfl
  cases note with
  | none => rfl
  | some ev =>
    simp only
    unfold noteEntry
    have he : entry { withEntry s p h e with prx := { (withEntry s p h e).prx with contexts := freedContexts (withEntry s p h e) h } } h = e := by
      show entry (withEntry s p h e) h = e
      simp [withEntry, entry_set, hh]
    rw [he, pageNote_eq]
    rfl

end Sys2Proof.Machine
end

