-- ==== Sys2Proof/WellFormed.lean ====
section
/-! DEFINITION. Which terms of `Instr` are steps the part can meet: a head return record has 32 readings
(R161), and a reception timeout names one of the 8 contexts (R26). -/

namespace Sys2Proof

/-- R161: "channel readings ... 32 values". -/
abbrev HeadRecord.wellFormed (r : HeadRecord) : Bool := r.readings.length == 32

/-- The check on a command's operands. -/
def Instr.wellFormed : Instr → Bool
  | .receptionTimeout ctx => decide (ctx < 8)
  | .headReturnRecord r => r.wellFormed
  | .hardwareReset => true
  | .resetRelease => true
  | .frameReceived _ => true
  | .frameTimerExpiry => true
  | .watchdogExpiry => true
  | .beginTransmission => true
  | .frameSent => true
  | .tagZero => true
  | .unknownKind => true
  | .status => true
  | .configure => true
  | .restart => true
  | .pageOpen => true
  | .pageBand => true
  | .pageClose => true
  | .pageQuery => true
  | .pageDrop => true
  | .linkWriteBurstDone _ => true
  | .screenBegin => true
  | .screenTile => true
  | .tileWriteBurstDone _ => true
  | .screenEnd => true
  | .screenQuery => true
  | .plateQueue => true
  | .plateCancel => true
  | .plateQuery => true
  | .plateList => true
  | .headSetup => true
  | .channelClear => true
  | .monitorTest => true
  | .fillBurstDone _ => true
  | .ruReadBurstDone _ => true
  | .ruWriteBurstDone _ => true
  | .refreshDue => true
  | .refreshOperationDone => true
  | .drumIndex => true
  | .slotClk => true
  | .fetchArrival _ => true
  | .indexOverdue => true
  | .indexLost => true
  | .clockLossExpiry => true
  | .monitorTestAbandon => true
  | .byteReceived _ => true

end Sys2Proof
end

