-- ==== Sys2Proof/Tests/Slice0.lean ====
section
/-! SUPPORT. Tests: the checks of WellFormed, the manual's worked examples, and for each statement with hypotheses
states that meet them. -/

open Sys2Proof Sys2Proof.Machine

namespace Sys2Proof.Tests

-- One test at a time: a hundred waiting at once would each hold a thread's stack.
set_option Elab.async false

/-! ## WellFormed: each check refuses an ill-formed term -/

theorem test_wellFormed_context : (Instr.receptionTimeout 8).wellFormed = false := by decide +kernel

theorem test_wellFormed_context_last : (Instr.receptionTimeout 7).wellFormed = true := by decide +kernel

theorem test_wellFormed_readings : (Instr.headReturnRecord ⟨true, true, 0, List.replicate 31 0⟩).wellFormed = false := by
  decide +kernel

theorem test_wellFormed_readings_all :
    (Instr.headReturnRecord ⟨true, true, 0, List.replicate 32 0⟩).wellFormed = true := by decide +kernel

/-- No row of the opcode table gives bits (log entry 2). -/
theorem test_no_word_spells_a_command : decodeTableWord 8 0x40 = none := by decide +kernel

/-! ## Shared states -/

/-- The part in READY with a 64 MiB store whose pool has come down to blocks 128, 129 and 130. -/
def night : State := { State.reset with
  part := .ready
  psc := { Psc.reset with
    storeMiB := some 64
    links := [(128, 129), (129, 130)]
    poolHead := some 128
    poolTail := some 130
    freeCount := 3
    poolSize := 3
    refreshInterval := some 20 }
  prx := { Prx.reset with timeout := some 30 }
  lp := { Lp.reset with watchdogPeriod := 20, watchdogRunning := true }
  hmon := { Hmon.reset with tolerance := 4, clockLoss := some 10 } }

/-- The state with one command in the command queue. -/
def given (f : Frame) (s : State) : State := { s with lp := { s.lp with cmdQueue := [f] } }

/-- A command frame with TAG 1. -/
def cmd (kind : Byte) (payload : List Byte) : Frame := ⟨kind, 1, payload⟩

/-- What a command leaves of a state, by a test of it. -/
def after (c : Instr) (s : State) (p : State → Bool) : Bool :=
  match exec c s with
  | .next t => p t
  | .fault _ => false
  | .refused _ => false

/-- The result code and fields of the newest finished reply. -/
def lastReply (s : State) : List Byte := (s.lp.replyFinished.getLast?.map Reply.payload).getD []

/-! ## The command link (chapter 1) -/

/-- R3, R4: "A LENGTH over 4096 discards the frame at once". -/
theorem test_length_4097_discards :
    after (.byteReceived 0x10) { night with lp := { night.lp with framer := .frame [0xA7, 0x01] } }
      (fun t => t.lp.framer == .hunting && t.lp.linkErrors == 1) = true := by decide +kernel

theorem test_length_4096_goes_on :
    after (.byteReceived 0x10) { night with lp := { night.lp with framer := .frame [0xA7, 0x00] } }
      (fun t => t.lp.framer == .frame [0xA7, 0x00, 0x10] && t.lp.linkErrors == 0) = true := by decide +kernel

/-- CRC-16 as the family's X.25 variant computes it without its final inversion: "123456789" gives 6F91h
(log entry 7). -/
theorem test_crc : crc16 [0x31, 0x32, 0x33, 0x34, 0x35, 0x36, 0x37, 0x38, 0x39] = 0x6F91#16 := by decide +kernel

/-- R10: TAG 0 comes before KIND: BAD_FIELD with TAG 0, whatever the KIND. -/
theorem test_tag_zero_first : after .tagZero (given ⟨0x77, 0, []⟩ night) (fun t =>
    t.lp.replyFinished == [⟨0xF7, 0, [0x05]⟩] && t.lp.cmdQueue == []) = true := by decide +kernel

theorem test_unknown_kind : after .unknownKind (given (cmd 0x77 []) night)
    (fun t => t.lp.replyFinished == [⟨0xF7, 1, [0x0B]⟩]) = true := by decide +kernel

/-- R18: the frame clears UNATTENDED and lowers LINK_LOST. Its bytes carry no payload, KIND 01h and TAG 01h. -/
theorem test_valid_frame_clears_unattended :
    after (.frameReceived ((frameBytes 0x01 0x01 []).getD 6 0))
      { night with lp := { night.lp with
          framer := .frame ((frameBytes 0x01 0x01 []).take 6), unattended := true, linkLost := true } }
      (fun t => t.lp.unattended == false && t.lp.linkLost == false && t.lp.cmdQueue == [⟨0x01, 0x01, []⟩]) = true := by
  decide +kernel

/-! ## Band coding (section 2.4, "Example: coding a band") -/

/-- The example's band of a page 100 pixels wide. -/
def exampleBand : List Byte :=
  [10, 80, 255] ++ List.replicate 63 255 ++ [1] ++ [20, 0, 0, 8, 2, 0, 8] ++ List.replicate 16 128

theorem test_band_length : exampleBand.length = 90 := by decide +kernel

theorem test_band_sum : (sumFrom 0 exampleBand).toNat = 18497 ∧ sumFrom 0 exampleBand + 47039#16 = 0 := by decide +kernel

theorem test_band_check_ends : scanChunk 100 Scan.start exampleBand = .done := by decide +kernel

/-- "Had the slice declared rows 9 ..." -/
theorem test_band_window_bounds :
    scanVerdict (scanChunk 100 Scan.start ([10, 80, 255] ++ List.replicate 63 255 ++ [1] ++ [20, 0, 0, 8, 2, 0, 9])) =
      some .windowBounds := by decide +kernel

/-- "Had the first run been 10 and the second 95 ..." -/
theorem test_band_overrun : scanVerdict (scanChunk 100 Scan.start [10, 95]) = some .overrun := by decide +kernel

theorem test_band_trailing : scanVerdict (scanChunk 100 Scan.start (exampleBand ++ [0])) = some .trailing := by decide +kernel

theorem test_band_short : scanVerdict (scanChunk 100 Scan.start (exampleBand.take 89)) = some .short := by decide +kernel

/-! ## The free pool (section 4.2, "Example: the pool through a release"), for the last blocks of a pool -/

theorem test_pool_lends_the_head : (night.psc.lend.map (fun p => (p.1, p.2.poolHead, p.2.freeCount))) =
    some (128, some 129, 2) := by decide +kernel

/-- Chains 128, 130 and then 129 return behind the free blocks, in that order. -/
theorem test_pool_release_order :
    (let p : Psc := { Psc.reset with
        links := [(128, 130), (131, 132)], poolHead := some 131, poolTail := some 132, freeCount := 2 }
     let q := p.returnChain (some 128)
     let r := q.1.returnChain (some 129)
     (q.2, r.2, r.1.links, r.1.poolHead, r.1.poolTail, r.1.freeCount)) =
      (2, 1, [(128, 130), (130, 129), (131, 132), (132, 128)], some 131, some 129, 5) := by decide +kernel

/-! ## Screen sets (section 5.2, "Example: loading set 3") -/

def sentCurve : List Nat :=
  [12, 230, 470, 460, 960, 1205, 1450, 1690, 1930, 2175, 2420, 2670, 2925, 3185, 3450, 4100, 4095]

/-- "C3, 460, is ... stored as 470. C15, 4100, is taken as 4095" and "the reply carries 3". -/
theorem test_curve_clamps : (clampCurve sentCurve).getD 0 1 = 0 ∧ (clampCurve sentCurve).getD 3 0 = 470 ∧
    (clampCurve sentCurve).getD 15 0 = 4095 ∧ (clampCurve sentCurve).getD 16 0 = 4095 ∧
    curveChanges sentCurve (clampCurve sentCurve) = 3 := by decide +kernel

/-- "offsets 1000..1155: bursts of 24, 64, 64 and 4 bytes" of tile area 3, at store byte 393216. -/
theorem test_tile_bursts : (burstsOf (393216 + 1000) (List.replicate 156 0)).map (fun p => (p.1, p.2.length)) =
    [(394216, 24), (394240, 64), (394304, 64), (394368, 4)] := by decide +kernel

/-! ## Screening (section 6.5, "Worked case") -/

/-- Screen set 6 of the case. -/
def set6 : ScreenSet := { ScreenSet.empty 7 with
  state := .ready
  width := 34
  height := 17
  shift := 13
  minDot := 205
  maxDot := 3890
  curve := [0, 230, 470, 715, 960, 1205, 1450, 1690, 1930, 2175, 2420, 2670, 2925, 3185, 3450, 3735, 4095] }

theorem test_tone_curve : toneCurve set6.curve 136 = 2053 ∧ toneCurve set6.curve 255 = 4095 ∧
    toneCurve set6.curve 0 = 0 := by decide +kernel

/-- R115, each row at a boundary: half-way raised, dropped, kept, made solid, lowered. -/
theorem test_dot_clamps : dotClamp 205 3890 2053 = 2053 ∧ dotClamp 205 3890 102 = 0 ∧ dotClamp 205 3890 103 = 205 ∧
    dotClamp 205 3890 3992 = 3890 ∧ dotClamp 205 3890 3993 = 4095 ∧ dotClamp 205 3890 0 = 0 := by decide +kernel

theorem test_threshold_position : thresholdPosition set6 1000 300 = 405 := by decide +kernel

/-! ## Raster words and the drum (chapter 8) -/

/-- R155: HALF, pass 1, half B: bits 16 to 31 of the stored word at channels 16 to 31; half A: at channels 0 to 15. -/
theorem test_raster_word_half : rasterWord .half 1 1 0xABCD1234#32 = 0xABCD0000#32 ∧
    rasterWord .half 0 1 0xABCD1234#32 = 0x0000ABCD#32 ∧ rasterWord .half 1 0 0xABCD1234#32 = 0x12340000#32 := by decide +kernel

/-- A job in IMAGING in FULL with dwell limit 2, as in "Sequence: a plate that stalls". -/
def plateJob : Job :=
  { id := 501, separation := 0, setIndex := 3, policy := .run, top := 0, bp := 2, wp := 6000,
    slots := [⟨⟨1, 2, 6, 0⟩, 100, none⟩], state := .imaging, generation := 1, cancelRequested := false, result := none,
    fit := none, verdict := none, defects := 0 }

def imaging : State := { night with
  psch := { Psch.reset with queue := [plateJob], armed := some 501 }
  drec := { Drec.reset with plateOpen := true }
  hmon := { night.hmon with nrev := 8192 }
  imp := { Imp.reset with nrev := 8192, lead := 100, dwellLimit := 2 } }

/-- "index 6": the count would reach 3, which exceeds the limit, so the revolution is END stalled. -/
theorem test_stall : after .drumIndex
    { imaging with imp := { imaging.imp with exposed := 2, steps := 2, firstExpose := true, dwellCount := 2 } }
    (fun t => t.imp.headWord == .frame .endPlate 2 0 && t.psch.armed == none &&
      (t.psch.history.map (fun r => (r.job.state, r.job.result, r.job.verdict))) ==
        [(.finished, some .stalled, some .reject)] && t.drec.reject) = true := by decide +kernel

/-- "index 5": the count comes to 2, and the revolution is DWELL. -/
theorem test_dwell_at_the_limit : after .drumIndex
    { imaging with imp := { imaging.imp with exposed := 2, steps := 2, firstExpose := true, dwellCount := 1 } }
    (fun t => t.imp.headWord == .frame .dwell 2 0 && t.imp.dwellCount == 2) = true := by decide +kernel

/-- "Sequence: an underrun in one sweep": in slot 3604 word 3504 is not held, so a dark word goes. -/
theorem test_underrun : after .slotClk
    { imaging with imp := { imaging.imp with
        rev := { Revolution.idle with decision := .expose, sweep := 9, ringSlot := 1, live := true, slot := 3603 }
        fifo := [], nextSend := 3504, nextFetch := 3520, refill := true } }
    (fun t => t.imp.underrun == some (3504, 3504) && t.imp.headWord == .raster 0 && t.imp.nextSend == 3505) = true := by
  decide +kernel

/-! ## The monitor (section 9.10) -/

/-- Channel 7 with window 600..800 is SUSPECT at 560, and a reading of 540 makes it FAULTED. -/
def watched : State := { imaging with
  hmon := { imaging.hmon with
    plateLoaded := true
    drumReady := true
    channels := (List.replicate 32 Channel.reset).set 7 ⟨600, 800, true, .suspect, 560⟩ }
  imp := { imaging.imp with
    steps := 3
    exposed := 3
    prev := { Revolution.idle with
      decision := .expose, sweep := 2, firstLine := 64, lastLine := 95, driven := 0xFFFFFFFF#32, live := true } } }

def readings540 : List (BitVec 10) := (List.replicate 32 0).set 7 540

/-- "HEAD.NOTE CHANNEL_FAULTED (560, 540, line 71); CHANNEL defect line 71". -/
theorem test_channel_faulted : after (.headReturnRecord ⟨true, true, 3, readings540⟩) watched (fun t =>
    t.lp.reports == [.head (.channelFaulted 7 600 800 560 540 501 71) 0x80#32] &&
    t.drec.list.map (fun d => (d.kind, d.channel, d.firstLine, d.severity)) == [(.channel, some 7, 71, .reject)]) =
      true := by decide +kernel

/-- R163: a carriage count of 1 with 3 steps ordered shows the loss of the head. -/
theorem test_head_lost : after (.headReturnRecord ⟨true, true, 1, readings540⟩) watched (fun t =>
    t.psch.armed == none && (t.psch.history.map (fun r => r.job.result)) == [some .headLost] &&
    t.imp.closing == some 3) = true := by decide +kernel

/-! ## Defects (sections 10.8 and 10.9) -/

/-- The geometry of the plate of section 10.8. -/
def pages108 : List SlotGeometry := [⟨100, 3499, 1, 4⟩, ⟨3600, 6999, 1, 5⟩]

def open108 : Drec := { Drec.reset with plateOpen := true, geometry := pages108 }

/-- The six defects of section 10.8 in the order taken. -/
def defects108 : List Defect :=
  [.handed .blankBand 192 255 (some (100, 3499)) none (some 1) (some 2) none,
   .handed .underrun 64 95 (some (3520, 3560)) none none none none,
   .handed .underrun 96 127 (some (3540, 3610)) none none none none,
   .handed .decode 340 383 (some (3600, 6999)) none (some 2) (some 4) none,
   .handed .drumSpeed 256 287 none none none none none,
   .handed .drumSpeed 288 319 none none none none none]

theorem test_plate_108 : (defects108.foldl Drec.take open108).list =
    [⟨.blankBand, .marked, 192, 255, some (100, 3499), none, some 1, some 2, none, 1⟩,
     ⟨.underrun, .reject, 64, 127, some (3520, 3610), none, none, none, none, 2⟩,
     ⟨.decode, .reject, 340, 383, some (3600, 6999), none, some 2, some 4, none, 1⟩,
     ⟨.drumSpeed, .reject, 256, 319, none, none, none, none, none, 2⟩] := by decide +kernel

/-- "the accumulator" after the second defect is MARKED, after the third REJECT. -/
theorem test_verdict_108 : ((defects108.take 2).foldl Drec.take open108).verdict = .marked ∧
    ((defects108.take 3).foldl Drec.take open108).verdict = .reject := by decide +kernel

/-- "The third record in reply form". -/
theorem test_defect_bytes : ((defects108.foldl Drec.take open108).list.getD 2 (.handed .abort 0 0 none none none none none)).bytes =
    [2, 2, 0x0D, 84, 1, 127, 1, 16, 14, 87, 27, 0, 2, 4, 0, 0, 1, 0] := by decide +kernel

/-- The CHANNEL defects of section 10.9: channels 7 and 12 in sweeps 0 to 22. -/
def defects109 : List Defect := (List.range 23).flatMap fun e =>
  [.handed .channel (32 * e + 7) (32 * e + 7) none (some 7) none none none,
   .handed .channel (32 * e + 12) (32 * e + 12) none (some 12) none none none]

theorem test_full_list : ((defects109.foldl Drec.take open108).list.length,
    (defects109.foldl Drec.take open108).list.getLast?.map (fun d => (d.kind, d.firstLine, d.lastLine, d.count))) =
      (24, some (.overflow, 364, 716, 23)) := by decide +kernel

/-! ## The arbiter (section 4.4) -/

/-- "1.00": a refresh, an imaging fetch and a raster request wait; the refresh begins at the end. -/
theorem test_arbiter : (let p : Psc := { Psc.reset with
      inFlight := .busy ⟨.prxWrite, .write 0 [0], false⟩
      waiting := [⟨.ru, .read 0 64, false⟩, ⟨.impFetch, .read 0 64, false⟩, ⟨.refresh, .refresh, false⟩] }
    (p.endOperation.inFlight, p.endOperation.nextOwner)) =
      (.busy ⟨.refresh, .refresh, false⟩, some ⟨.impFetch, .read 0 64, false⟩) := by decide +kernel

/-! ## For each statement with hypotheses, states that meet them

One theorem a statement. Its parts stand in the order of the statement's clauses, and the values lie where the
clauses meet. -/

/-- A command at the head of the queue of a part that may take one. -/
theorem takes_given {s : State} {f : Frame} (h1 : s.resetHeld = false) (h2 : s.prx.chunk = none)
    (h3 : s.sct.tileBuf = none) (h4 : s.lp.replyReserved.length + s.lp.replyFinished.length < 8) :
    takes (given f s) f [] := ⟨h1, h2, h3, h4, rfl⟩

theorem takes_night (f : Frame) : takes (given f night) f [] := takes_given rfl rfl rfl (by decide)

/-- A command frame with TAG 1 of a kind. -/
theorem ofKind_cmd (k : Byte) (p : List Byte) : ofKind k (cmd k p) := ⟨by simp [cmd], rfl⟩

theorem witness_StepTakesTheFrontOfTheQueue :
    ({ night with pending := [.status] } : State).pending = .status :: [] ∧ night.pending = [] := ⟨rfl, rfl⟩

theorem witness_HardwareResetHoldsThePart : (heldInReset night).resetHeld = true ∧ (heldInReset night).psc = Psc.reset ∧
    Instr.status ≠ .hardwareReset ∧ Instr.status ≠ .resetRelease := ⟨rfl, rfl, by decide, by decide⟩

/-- The state with a framer in FRAME. -/
def framing (bs : List Byte) : State := { night with lp := { night.lp with framer := .frame bs } }

/-- A sound frame of no payload, without its last byte. -/
def almost : List Byte := (frameBytes 0x01 0x01 []).take 6

theorem witness_FramesAreBuiltAndJudged :
    (night.resetHeld = false ∧ night.lp.framer = .hunting ∧ (0xA6 : Byte) ≠ 0xA7#8) ∧
    ((framing [0xA7, 0x01]).lp.framer = .frame [0xA7, 0x01] ∧ 4096 < frameLength ([0xA7, 0x01] ++ [0x10])) ∧
    ([0xA7].length < 2 ∧ ([0xA7, 0x00].length = 2 ∧ frameLength ([0xA7, 0x00] ++ [0x10]) ≤ 4096) ∧
      (3 ≤ (almost.take 5).length ∧ (almost.take 5).length + 1 < 7 + frameLength (almost.take 5))) ∧
    ((framing almost).lp.framer = .frame almost ∧ 3 ≤ almost.length ∧ almost.length + 1 = 7 + frameLength almost ∧
      frameSound (almost ++ [(frameBytes 0x01 0x01 []).getD 6 0]) = true ∧ frameSound (almost ++ [0]) = false ∧
      (framing almost).lp.unattended = false) ∧
    ((framing [0xA7]).resetHeld = false ∧ (framing [0xA7]).lp.framer = .frame [0xA7]) ∧
    night.lp.watchdogRunning = true ∧ State.reset.lp.watchdogRunning = false := by decide +kernel

theorem witness_FrameBytesAreReceivedAsTheirMessage : State.reset.resetHeld = false ∧
    State.reset.lp.framer = .hunting ∧ State.reset.pending = [] ∧ (List.replicate 4096 (0 : Byte)).length ≤ 4096 := by
  decide +kernel

theorem witness_TransmitterSendsRepliesBeforeReports :
    (let s : State := { night with lp := { night.lp with replyFinished := [⟨0x81, 1, [0]⟩] } }
     s.lp.tx = none ∧ s.lp.replyFinished = ⟨0x81, 1, [0]⟩ :: []) ∧
    (let s : State := { night with lp := { night.lp with reports := [.head (.clockLost .slotClk 1 1) 0] } }
     s.lp.tx = none ∧ s.lp.replyFinished = [] ∧ s.lp.reports = .head (.clockLost .slotClk 1 1) 0 :: []) ∧
    (night.lp.tx = none ∧ night.lp.replyFinished = [] ∧ night.lp.reports = []) ∧
    ({ night with lp := { night.lp with tx := some [0xA7] } } : State).lp.tx = some [0xA7] ∧
    ((List.replicate 15 (Report.head (.clockLost .slotClk 1 1) 0)).length < 16 ∧
      16 ≤ (List.replicate 16 (Report.head (.clockLost .slotClk 1 1) 0)).length) := by decide +kernel

theorem witness_LpTakesAndAnswersCommands :
    (takes (given ⟨0x01, 0, []⟩ night) ⟨0x01, 0, []⟩ [] ∧ (⟨0x01, 0, []⟩ : Frame).tag = 0#8) ∧
    (takes (given (cmd 0x15 []) night) (cmd 0x15 []) [] ∧ (cmd 0x15 []).tag ≠ 0#8 ∧
      (cmd 0x15 []).kind.toNat ∉ [0x01, 0x02, 0x03, 0x10, 0x11, 0x12, 0x13, 0x14, 0x20, 0x21, 0x22, 0x23, 0x30, 0x31,
        0x32, 0x40, 0x41, 0x42]) ∧
    ({ night with prx := { night.prx with chunk := some ⟨0, 0, true, [], []⟩ } } : State).prx.chunk ≠ none ∧
    ({ night with sct := { night.sct with tileBuf := some ⟨0, [], []⟩ } } : State).sct.tileBuf ≠ none ∧
    (let l : Lp := { night.lp with replyReserved := [1], replyFinished := List.replicate 7 ⟨0x81, 1, [0]⟩ }
     8 ≤ l.replyReserved.length + l.replyFinished.length) ∧
    (heldInReset night).resetHeld = true ∧ night.lp.cmdQueue = [] :=
  ⟨⟨takes_night _, rfl⟩, ⟨takes_night _, by decide, by decide⟩, by decide, by decide, by decide, rfl, rfl⟩

theorem witness_UnconfiguredRefusesCommands :
    takes (given (cmd 0x10 []) State.reset) (cmd 0x10 []) [] ∧ State.reset.part = .unconfigured ∧
    (cmd 0x10 []).tag ≠ 0#8 ∧ (cmd 0x42 []).kind = BitVec.ofNat 8 0x42 ∧ (cmd 0x32 [0, 0]).payload = [0, 0] ∧
    (cmd 0x32 [1, 0]).payload ≠ [0, 0] :=
  ⟨takes_given rfl rfl rfl (by decide), rfl, by decide, rfl, rfl, by decide⟩

theorem witness_StatusAnswersAndClearsTheLinkFlags :
    takes (given (cmd 0x01 []) night) (cmd 0x01 []) [] ∧ ofKind 0x01 (cmd 0x01 []) ∧ (cmd 0x01 []).payload = [] ∧
    (cmd 0x01 [0]).payload ≠ [] := ⟨takes_night _, ofKind_cmd _ _, rfl, by decide⟩

/-- The part in READY with one entry in COMPLETE. -/
def withPage : State := { night with
  pdir := { night.pdir with entries := night.pdir.entries.set 0 { Entry.empty with
    state := .complete, key := ⟨1, 2, 6, 0⟩, version := 3, width := 64,
    bands := [⟨90, 47039, 90, .good, none, some 140⟩] } } }

theorem witness_ConfigureChecksAndStoresItsValues :
    (takes (given (cmd 0x02 (u16 64 ++ [10, 20, 30, 4, 10])) State.reset) (cmd 0x02 (u16 64 ++ [10, 20, 30, 4, 10])) [] ∧
      ofKind 0x02 (cmd 0x02 (u16 64 ++ [10, 20, 30, 4, 10])) ∧
      (cmd 0x02 (u16 64 ++ [10, 20, 30, 4, 10])).payload = u16 64 ++ [10, 20, 30, 4, 10]) ∧
    (64 ∈ [64, 128, 256, 512, 1024] ∧ 10 ≤ (10 : Byte).toNat ∧ (159 : Byte).toNat ≤ 159) ∧
    (State.reset.part = .unconfigured ∧ night.part = .ready ∧ (∀ e ∈ night.pdir.entries, e.state = .empty) ∧
      night.psch.queue = [] ∧ night.psc.storeMiB = some 64 ∧ night.psc.storeMiB ≠ some 128) ∧
    ([0, 0, 0, 0, 0, 0] : List Byte).length ≠ 7 ∧
    (withPage.part = .ready ∧ ∃ e ∈ withPage.pdir.entries, e.state ≠ .empty) ∧
    ¬(10 ≤ byteAt (u16 64 ++ [9, 20, 30, 4, 10]) 2) ∧ ¬(byteAt (u16 64 ++ [160, 20, 30, 4, 10]) 2 ≤ 159) :=
  ⟨⟨takes_given rfl rfl rfl (by decide), ofKind_cmd _ _, rfl⟩, by decide, by decide +kernel, by decide,
    by decide +kernel, by decide, by decide⟩

theorem witness_RestartClearsTheNightsWork :
    (takes (given (cmd 0x03 []) night) (cmd 0x03 []) [] ∧ ofKind 0x03 (cmd 0x03 []) ∧ night.part = .ready ∧
      (cmd 0x03 []).payload = [] ∧ imagingJob night = none ∧ night.psc.inFlight = .idle) ∧
    (takes (given (cmd 0x03 []) imaging) (cmd 0x03 []) [] ∧ imagingJob imaging ≠ none ∧
      imaging.imp.rev.decision ≠ .endPlate) ∧
    (let s : State := { imaging with
       psc := { night.psc with inFlight := .busy ⟨.ru, .read 2293760 64, false⟩ }
       imp := { imaging.imp with rev := { Revolution.idle with decision := .endPlate } } }
     s.psc.inFlight = .busy ⟨.ru, .read 2293760 64, false⟩ ∧ s.imp.rev.decision = .endPlate ∧
       (imagingJob s).isSome = true) ∧
    (night.psc.storeMiB = some 64 ∧ 129 ≤ 64 * 64) ∧ State.reset.part = .unconfigured ∧ (cmd 0x03 [0]).payload ≠ [] :=
  ⟨⟨takes_night _, ofKind_cmd _ _, rfl, rfl, rfl, rfl⟩,
    ⟨takes_given rfl rfl rfl (by decide), by decide +kernel, by decide⟩, ⟨rfl, rfl, rfl⟩, by decide, rfl, by decide⟩

/-- R164, R198: RESTART with a job IMAGING sets closing pending in an END revolution too. -/
theorem test_restart_owes_the_end :
    (let s : State := { imaging with imp := { imaging.imp with
       rev := { Revolution.idle with decision := .endPlate }, exposed := 4 } }
     after .restart (given (cmd 0x03 []) s) (fun t => t.imp.closing == some 4 && t.imp.rev.dark)) = true := by
  decide +kernel

/-- A parcel header of one band of 90 bytes. -/
def header (version : Nat) (supersedes : Option Nat) : ParcelHeader :=
  ⟨⟨1, 2, 6, 0⟩, version, supersedes, 64, [(90, 47039)]⟩

/-- The payload of a PAGE.OPEN with that header. -/
def openBytes (version sup : Nat) : List Byte :=
  [0x4B, 0x44, 0xB4, 0xBB, 1, 2, 6, 0] ++ u16 version ++ u16 sup ++ u16 64 ++ u16 1 ++ u32 90 ++ u16 47039

/-- Each payload at the ends of its ranges, and one past them. -/
theorem witness_PayloadsAreReadAsLaidOut :
    (parseOpen (openBytes 4 3) = some (header 4 (some 3)) ∧ parseOpen (openBytes 4 4) = none ∧
      parseOpen (openBytes 65535 65535) = none ∧ parseOpen (0x4C :: (openBytes 4 3).drop 1) = none ∧
      parseOpen (openBytes 4 3 ++ [0]) = none) ∧
    (parseBand (u8 63 ++ u16 383 ++ u32 0 ++ flagByte true ++ [1]) = some ⟨63, 383, 0, true, [1]⟩ ∧
      parseBand (u8 64 ++ u16 383 ++ u32 0 ++ flagByte true ++ [1]) = none ∧
      parseBand (u8 63 ++ u16 383 ++ u32 0 ++ [2, 1]) = none ∧
      parseBand (u8 63 ++ u16 383 ++ u32 0 ++ flagByte true) = none) ∧
    (parseClose (u8 63) = some 63 ∧ parseClose (u8 64) = none ∧ parsePageQuery (u8 63 ++ u16 65535) = some (63, 65535) ∧
      parsePageQuery (u8 63) = none ∧ parseDrop [63, 1, 2, 6, 0, 3, 0] = some (63, ⟨1, 2, 6, 0⟩, 3) ∧
      parseDrop [63, 1, 2, 6, 0, 3] = none) ∧
    ((parseScreenBegin (u8 7 ++ List.replicate 44 255)).map ScreenShape.curve = some (List.replicate 17 65535) ∧
      parseScreenBegin (u8 8 ++ List.replicate 44 255) = none) ∧
    (parseHeadSetup (List.replicate 140 255)).isSome = true ∧ parseHeadSetup (List.replicate 139 255) = none := by
  decide +kernel

/-- An entry in RECEIVING served by context 0. -/
def receiving : State := { night with
  pdir := { night.pdir with entries := night.pdir.entries.set 5 { Entry.empty with
    state := .receiving, key := ⟨1, 2, 6, 0⟩, version := 3, width := 64,
    bands := [⟨40000, 47039, 100, .arriving, none, some 140⟩, ⟨20, 0, 0, .expected, none, none⟩] } }
  prx := { night.prx with contexts := (night.prx.contexts.set 0
    (some ⟨5, .reception, true, [⟨0, 5, some 140, .lineArt 3 2 true none⟩, ⟨1, 0, none, Scan.start⟩]⟩)) } }

/-- `receiving` alone, with as many band records taken by a second entry as leave none free. -/
def crowded : State := { receiving with
  pdir := { receiving.pdir with entries := [entry receiving 5, { Entry.empty with
    state := .complete, key := ⟨1, 2, 7, 0⟩, bands := List.replicate 8190 ⟨1, 0, 1, .good, none, some 140⟩ }] } }

/-- Every other entry of `receiving` is EMPTY. -/
theorem receiving_others (g : Nat) (h : g ≠ 5) : entry receiving g = Entry.empty := by
  unfold entry receiving
  simp only [List.getD_eq_getElem?_getD, List.getElem?_set]
  rw [if_neg (by omega)]
  simp only [night, State.reset, Pdir.reset, List.getElem?_replicate]
  split <;> rfl

theorem receiving_contexts (k : Nat) (c : Context) (h : receiving.prx.contexts[k]? = some (some c)) : k = 0 := by
  by_contra hk
  have : receiving.prx.contexts[k]? = night.prx.contexts[k]? := by
    show (night.prx.contexts.set 0 _)[k]? = _
    rw [List.getElem?_set, if_neg (by omega)]
  rw [this] at h
  cases List.eq_of_mem_replicate (n := 8) (List.mem_of_getElem? h)

theorem receiving_only {g : Nat} (h : (entry receiving g).state = .receiving) : g = 5 := by
  by_contra hg
  rw [receiving_others g hg] at h
  cases h

theorem witness_PageOpenIsCheckedAndCreatesAnEntry :
    (takes (given (cmd 0x10 (openBytes 3 65535)) night) (cmd 0x10 (openBytes 3 65535)) [] ∧
      ofKind 0x10 (cmd 0x10 (openBytes 3 65535)) ∧ night.part = .ready ∧
      parseOpen (openBytes 3 65535) = some (header 3 none) ∧ parseOpen [0] = none) ∧
    (withPage.pdir.entries[0]?.map Entry.version = some 3 ∧ (entry withPage 0).key = (header 3 none).key ∧
      (header 3 none).version ≤ (entry withPage 0).version ∧ (header 4 none).version > (entry withPage 0).version) ∧
    (parseOpen (openBytes 4 2) = some (header 4 (some 2)) ∧
      ¬∃ e ∈ withPage.pdir.entries, e.state ≠ .empty ∧ e.key = (header 4 (some 2)).key ∧ e.version = 2) ∧
    (∀ c ∈ ({ night with prx := { night.prx with contexts := List.replicate 8 (some ⟨0, .repair, true, []⟩) } } :
      State).prx.contexts, c ≠ none) ∧
    ((∀ e ∈ night.pdir.entries, e.key = (header 3 none).key →
        e.state = .empty ∨ e.state = .superseded ∨ (e.state ≠ .receiving ∧ e.version < (header 3 none).version)) ∧
      night.pdir.entries.findIdx? (fun e => e.state == .empty) = some 0 ∧
      night.prx.contexts.findIdx? Option.isNone = some 0 ∧
      (header 3 none).descriptors.length ≤ freeRecords night ∧ night.pdir.counter < 4294967296) ∧
    withPage.pdir.entries.findIdx? (fun e => e.state == .empty) = some 1 ∧
    (takes (given (cmd 0x10 (openBytes 4 65535)) receiving) (cmd 0x10 (openBytes 4 65535)) [] ∧
      parseOpen (openBytes 4 65535) = some (header 4 none) ∧
      (receiving.pdir.entries[5]?).map Entry.state = some .receiving ∧ (entry receiving 5).key = (header 4 none).key ∧
      (∀ d ∈ receiving.pdir.entries, ¬((d.state = .receiving ∨ d.state = .complete ∨ d.state = .damaged) ∧
        d.key = (header 4 none).key ∧ (header 4 none).version ≤ d.version)) ∧
      (∀ g, (entry receiving g).state = .receiving → (entry receiving g).key = (header 4 none).key → g = 5) ∧
      contextOf receiving 5 = some 0 ∧ (∀ k c, receiving.prx.contexts[k]? = some (some c) → c.handle = 5 → k = 0) ∧
      (header 4 none).descriptors.length ≤ freeRecords receiving + (entry receiving 5).bands.length ∧
      (receiving.pdir.entries.set 5 Entry.empty).findIdx? (fun d => d.state == .empty) = some 0 ∧
      (receiving.prx.contexts.set 0 none).findIdx? Option.isNone = some 0) ∧
    ((crowded.pdir.entries[0]?).map Entry.state = some .receiving ∧
      freeRecords crowded + (entry crowded 0).bands.length < [(90, (0 : Half)), (90, 0), (90, 0)].length) :=
  ⟨⟨takes_night _, ofKind_cmd _ _, rfl, by decide +kernel, by decide +kernel⟩, by decide +kernel, by decide +kernel,
    by decide +kernel, by decide +kernel, by decide +kernel,
    ⟨takes_given rfl rfl rfl (by decide), by decide +kernel, by decide +kernel, by decide +kernel, by decide +kernel,
      fun _ h _ => receiving_only h,
      by decide +kernel, fun k c h _ => receiving_contexts k c h, by decide +kernel, by decide +kernel,
      by decide +kernel⟩,
    ⟨by decide +kernel, by
      have h : (entry receiving 5).bands.length = 2 := by decide +kernel
      have hc : (entry crowded 0).bands.length = (entry receiving 5).bands.length := rfl
      have hm : crowded.pdir.entries.map (fun e => e.bands.length) = [(entry receiving 5).bands.length,
        (List.replicate 8190 (⟨1, 0, 1, .good, none, some 140⟩ : BandRecord)).length] := rfl
      rw [freeRecords, hm, hc, h, List.length_replicate]
      decide⟩⟩

/-- The payload of a PAGE.BAND of handle 5. -/
def bandBytes (band offset : Nat) (last : Bool) (chunk : List Byte) : List Byte :=
  u8 5 ++ u16 band ++ u32 offset ++ flagByte last ++ chunk

/-- The state with an empty pool. -/
def noBlocks (s : State) : State := { s with psc := { s.psc with poolHead := none, poolTail := none, freeCount := 0 } }

theorem takes_receiving (f : Frame) : takes (given f receiving) f [] := takes_given rfl rfl rfl (by decide)

theorem witness_PageBandRefusals :
    (takes (given (cmd 0x11 (bandBytes 0 100 false [1])) receiving) (cmd 0x11 (bandBytes 0 100 false [1])) [] ∧
      ofKind 0x11 (cmd 0x11 (bandBytes 0 100 false [1])) ∧ receiving.part = .ready ∧ parseBand [64] = none ∧
      parseBand (bandBytes 0 100 false [1]) = some ⟨5, 0, 100, false, [1]⟩) ∧
    ((entry withPage 5).state ≠ .receiving ∧ (entry withPage 5).state ≠ .damaged) ∧
    ((entry receiving 5).state = .receiving ∧ (entry receiving 5).bands[2]? = none ∧
      (entry receiving 5).bands[0]? = some ⟨40000, 47039, 100, .arriving, none, some 140⟩) ∧
    (99 ≠ 100 ∧ 40000 < 100 + 39901 ∧ (true = true ↔ 100 + 1 ≠ 40000)) ∧
    ((entry (noBlocks receiving) 5).bands[1]? = some ⟨20, 0, 0, .expected, none, none⟩ ∧
      contextOf (noBlocks receiving) 5 = some 0 ∧
      (∃ c, (noBlocks receiving).prx.contexts[0]? = some (some c)) ∧ (0 : Nat) % 16384 = 0 ∧
      (true = true ↔ 0 + 20 = 20) ∧ (noBlocks receiving).psc.freeCount = 0) :=
  ⟨⟨takes_receiving _, ofKind_cmd _ _, rfl, by decide +kernel, by decide +kernel⟩, by decide +kernel, by decide +kernel,
    by decide, by decide +kernel, by decide +kernel, ⟨_, rfl⟩, rfl, by decide, rfl⟩

/-- The state with a link-write burst in flight that an emptied chunk buffer has left behind. -/
def leftBehind (s : State) : State :=
  { s with psc := { s.psc with inFlight := .busy ⟨.prxWrite, .write 2097152 [7, 7], true⟩ } }

theorem leftBehind_stale (s : State) : staleWriteInFlight (leftBehind s) := ⟨_, rfl, rfl, rfl⟩

/-- Entry 5 in DAMAGED with band 1 under repair, 7 of its 20 bytes received. -/
def mending : State := { night with
  pdir := { night.pdir with entries := night.pdir.entries.set 5 { Entry.empty with
    state := .damaged, key := ⟨1, 2, 6, 0⟩, version := 3, width := 64, damaged := 1,
    bands := [⟨40000, 47039, 40000, .good, none, some 140⟩, ⟨20, 0, 7, .arriving, none, some 141⟩] } }
  prx := { night.prx with contexts := (night.prx.contexts.set 0
    (some ⟨5, .repair, true, [⟨1, 14, some 141, .lineArt 3 2 true none⟩]⟩)) } }

theorem witness_ChunkIsTaken :
    (takes (given (cmd 0x11 (bandBytes 0 100 false [1, 2])) receiving) (cmd 0x11 (bandBytes 0 100 false [1, 2])) [] ∧
      parseBand (bandBytes 0 100 false [1, 2]) = some ⟨5, 0, 100, false, [1, 2]⟩ ∧
      (entry receiving 5).state = .receiving ∧ 5 < receiving.pdir.entries.length ∧
      (entry receiving 5).bands[0]? = some ⟨40000, 47039, 100, .arriving, none, some 140⟩ ∧
      contextOf receiving 5 = some 0 ∧
      receiving.prx.contexts[0]? = some (some ⟨5, .reception, true,
        [⟨0, 5, some 140, .lineArt 3 2 true none⟩, ⟨1, 0, none, Scan.start⟩]⟩) ∧
      ([⟨0, 5, some 140, .lineArt 3 2 true none⟩, ⟨1, 0, none, Scan.start⟩] : List BandProgress).find?
        (fun q => q.band == 0) = some ⟨0, 5, some 140, .lineArt 3 2 true none⟩ ∧
      100 % 16384 ≠ 0 ∧ 100 % 16384 + 2 ≤ 16384 ∧ (false = true ↔ 100 + 2 = 40000) ∧
      burstsOf (140 * 16384 + 100 % 16384) [1, 2] = (2293860, [1, 2]) :: [] ∧
      receiving.psc.engaged .prxWrite = false) ∧
    (takes (given (cmd 0x11 (bandBytes 0 100 false [1, 2])) (leftBehind receiving))
        (cmd 0x11 (bandBytes 0 100 false [1, 2])) [] ∧ staleWriteInFlight (leftBehind receiving)) ∧
    (parseBand (bandBytes 1 7 true (List.replicate 13 0)) = some ⟨5, 1, 7, true, List.replicate 13 0⟩ ∧
      (entry mending 5).state = .damaged ∧ underRepair mending 5 1 = true ∧ contextOf mending 5 = some 0 ∧
      (entry mending 5).bands[1]? = some ⟨20, 0, 7, .arriving, none, some 141⟩ ∧ (true = true ↔ 7 + 13 = 20) ∧
      burstsOf (141 * 16384 + 7 % 16384) (List.replicate 13 0) = (2310151, List.replicate 13 0) :: []) :=
  ⟨⟨takes_receiving _, by decide +kernel, by decide +kernel, by decide +kernel, by decide +kernel, by decide +kernel,
      by decide +kernel, by decide +kernel, by decide, by decide, by decide, by decide +kernel, by decide +kernel⟩,
    ⟨takes_given rfl rfl rfl (by decide), leftBehind_stale _⟩, by decide +kernel⟩

/-- Band 0 of entry 5 with 16380 bytes received, in block 140, and a pool of block 130 alone. -/
def brimming : State := { receiving with
  pdir := { receiving.pdir with entries := receiving.pdir.entries.set 5 { entry receiving 5 with
    bands := [⟨40000, 47039, 16380, .arriving, none, some 140⟩, ⟨20, 0, 0, .expected, none, none⟩] } }
  psc := { receiving.psc with links := [], poolHead := some 130, poolTail := some 130, freeCount := 1 } }

theorem witness_ChunkTakesTheHeadBlockOfThePool :
    (takes (given (cmd 0x11 (bandBytes 1 0 true (List.replicate 20 7))) receiving)
        (cmd 0x11 (bandBytes 1 0 true (List.replicate 20 7))) [] ∧
      parseBand (bandBytes 1 0 true (List.replicate 20 7)) = some ⟨5, 1, 0, true, List.replicate 20 7⟩ ∧
      (entry receiving 5).bands[1]? = some ⟨20, 0, 0, .expected, none, none⟩ ∧ contextOf receiving 5 = some 0 ∧
      (0 : Nat) % 16384 = 0 ∧ 0 + (List.replicate 20 (7 : Byte)).length ≤ 20 ∧
      receiving.psc.poolIs (128 :: 129 :: [130]) ∧ receiving.psc.engaged .prxWrite = false) ∧
    (takes (given (cmd 0x11 (bandBytes 0 16380 false (List.replicate 6 7))) brimming)
        (cmd 0x11 (bandBytes 0 16380 false (List.replicate 6 7))) [] ∧
      parseBand (bandBytes 0 16380 false (List.replicate 6 7)) = some ⟨5, 0, 16380, false, List.replicate 6 7⟩ ∧
      (entry brimming 5).bands[0]? = some ⟨40000, 47039, 16380, .arriving, none, some 140⟩ ∧
      16384 < 16380 % 16384 + (List.replicate 6 (7 : Byte)).length ∧ 140 ∉ 130 :: ([] : List Nat) ∧
      burstsOf (140 * 16384 + 16380 % 16384) ((List.replicate 6 (7 : Byte)).take 4) ++
        burstsOf (130 * 16384) ((List.replicate 6 (7 : Byte)).drop 4) =
          (2310140, [7, 7, 7, 7]) :: [(2129920, [7, 7])] ∧
      brimming.psc.poolIs (130 :: []) ∧ brimming.psc.engaged .prxWrite = false) ∧
    (takes (given (cmd 0x11 (bandBytes 1 0 true (List.replicate 20 7))) (leftBehind receiving))
        (cmd 0x11 (bandBytes 1 0 true (List.replicate 20 7))) [] ∧ staleWriteInFlight (leftBehind receiving)) :=
  ⟨⟨takes_receiving _, by decide +kernel, by decide +kernel, by decide +kernel, by decide, by decide,
      ⟨rfl, rfl, rfl, by decide, rfl, rfl, rfl⟩, by decide +kernel⟩,
    ⟨takes_given rfl rfl rfl (by decide), by decide +kernel, by decide +kernel, by decide, by decide, by decide +kernel,
      ⟨rfl, rfl, rfl, by decide, rfl⟩, by decide +kernel⟩,
    ⟨takes_given rfl rfl rfl (by decide), leftBehind_stale _⟩⟩

/-- R46: the chunk that needs a block waits, its command not taken. -/
theorem test_block_waits :
    (let s := given (cmd 0x11 (bandBytes 1 0 true (List.replicate 20 7))) (leftBehind receiving)
     after .pageBand s (fun t => decide (t = s))) = true := by decide +kernel

/-- R71: the last free block is lent, and the pool has no head and no tail. -/
theorem test_last_block : after .pageBand (given (cmd 0x11 (bandBytes 0 16380 false (List.replicate 6 7))) brimming)
    (fun t => t.psc.poolHead == none && t.psc.poolTail == none && t.psc.freeCount == 0 &&
      t.psc.link 140 == some 130 && t.psc.link 130 == none) = true := by decide +kernel

/-- A DAMAGED entry with a band MISSING, not bound, and no context. -/
def damaged : State := { night with
  pdir := { night.pdir with entries := night.pdir.entries.set 5 { Entry.empty with
    state := .damaged, key := ⟨1, 2, 6, 0⟩, version := 3, width := 64, damaged := 1,
    bands := [⟨40000, 47039, 40000, .good, none, some 140⟩, ⟨20, 0, 0, .missing, some .missing, none⟩] } } }

/-- The state with entry 5 rewritten. -/
def page5 (f : Entry → Entry) (s : State) : State := setEntry 5 (f (entry s 5)) s

/-- The last burst of a LAST chunk of band 1 of entry 5 in flight, in a reception or a repair. -/
def draining (mode : ReceptionMode) (last : Bool) (todo : List (Nat × List Byte)) (s : State) : State := { s with
  psc := { s.psc with inFlight := .busy ⟨.prxWrite, .write 2097152 [7, 7], false⟩ }
  prx := { s.prx with
    contexts := (s.prx.contexts.set 0
      (some ⟨5, mode, false, [⟨1, 14, some 128, .lineArt 3 2 true none⟩]⟩))
    chunk := some ⟨5, 1, last, [7, 7], todo⟩ } }

/-- Entry 5 in DAMAGED with a repair open for band 1, and band 0 still DAMAGED. -/
def joining : State := page5 (fun e => { e with
  damaged := 2
  bands := e.bands.set 0 ⟨20, 0, 20, .damaged, some .short, some 140⟩ }) mending

/-- A repair opener of a band of entry 5, at the point where its chunk is placed. -/
def openerPlaced (i band : Nat) (c : Context) (s : State) : Option State :=
  let r := (bandOf s 5 band).getD ⟨20, 0, 0, .missing, none, none⟩
  placeChunk i 5 band 0 true (List.replicate 20 7) { (returnChain r.head s).1 with
    pdir := { s.pdir with entries := (s.pdir.entries.set 5 { entry s 5 with
      bands := (entry s 5).bands.set band { r with state := .arriving, cause := none, received := 0, head := none } }) }
    prx := { s.prx with contexts := s.prx.contexts.set i (some c) } }

theorem witness_RepairsAreOpenedAndJudged :
    (takes (given (cmd 0x11 (bandBytes 1 0 true (List.replicate 20 7))) damaged)
        (cmd 0x11 (bandBytes 1 0 true (List.replicate 20 7))) [] ∧ damaged.part = .ready ∧
      (entry damaged 5).state = .damaged ∧
      (entry damaged 5).bands[1]? = some ⟨20, 0, 0, .missing, some .missing, none⟩ ∧ underRepair damaged 5 1 = false ∧
      contextOf damaged 5 = none ∧ (entry damaged 5).refs = 0 ∧ (true = true ↔ 20 = 20) ∧ ¬(true = true ↔ 19 = 20) ∧
      damaged.prx.contexts.findIdx? Option.isNone = some 0 ∧
      (openerPlaced 0 1 ⟨5, .repair, true, [⟨1, 0, none, Scan.start⟩]⟩ damaged).isSome = true ∧
      openerPlaced 0 1 ⟨5, .repair, true, [⟨1, 0, none, Scan.start⟩]⟩ (noBlocks damaged) = none ∧
      staleWriteInFlight (leftBehind damaged)) ∧
    ((entry (page5 (fun e => { e with refs := 1 }) damaged) 5).refs ≠ 0) ∧
    (∀ c ∈ List.replicate 8 (some (⟨9, .reception, true, []⟩ : Context)), c ≠ none) ∧
    ((entry joining 5).state = .damaged ∧
      (entry joining 5).bands[0]? = some ⟨20, 0, 20, .damaged, some .short, some 140⟩ ∧
      underRepair joining 5 0 = false ∧ contextOf joining 5 = some 0 ∧
      joining.prx.contexts[0]? = some (some ⟨5, .repair, true, [⟨1, 14, some 141, .lineArt 3 2 true none⟩]⟩) ∧
      (openerPlaced 0 0 ⟨5, .repair, true, [⟨1, 14, some 141, .lineArt 3 2 true none⟩, ⟨0, 0, none, Scan.start⟩]⟩
        joining).isSome = true) ∧
    ((draining .repair true [] damaged).psc.inFlight = .busy ⟨.prxWrite, .write 2097152 [7, 7], false⟩ ∧
      contextOf (draining .repair true [] damaged) 5 = some 0 ∧ 5 < (draining .repair true [] damaged).pdir.entries.length ∧
      bandVerdict ⟨1, 14, some 128, .lineArt 3 2 true none⟩ ⟨20, 0, 0, .missing, some .missing, none⟩ = some .checksum ∧
      bandVerdict ⟨1, 14, some 128, .done⟩ ⟨20, 65522, 20, .arriving, none, none⟩ = none ∧
      (entry damaged 5).damaged = 1 ∧ (entry damaged 5).state = .damaged ∧
      2 ≤ (entry (page5 (fun e => { e with damaged := 2 }) damaged) 5).damaged) :=
  ⟨⟨takes_given rfl rfl rfl (by decide), rfl, by decide +kernel, by decide +kernel, by decide +kernel,
      by decide +kernel, by decide +kernel, by decide, by decide, by decide +kernel, by decide +kernel, by decide +kernel,
      leftBehind_stale _⟩, by decide +kernel, by decide +kernel, by decide +kernel,
    ⟨rfl, by decide +kernel, by decide +kernel, by decide, by decide, by decide +kernel, by decide +kernel,
      by decide +kernel⟩⟩

/-- Entry 5 in DAMAGED with an open repair of band 1 in context 0. -/
def repairing : State := { damaged with
  prx := { damaged.prx with contexts := (damaged.prx.contexts.set 0
    (some ⟨5, .repair, true, [⟨1, 0, none, Scan.start⟩]⟩)) } }

theorem witness_CloseAndTimeoutEndAReception :
    (takes (given (cmd 0x12 (u8 5)) receiving) (cmd 0x12 (u8 5)) [] ∧ ofKind 0x12 (cmd 0x12 (u8 5)) ∧
      receiving.part = .ready ∧ (cmd 0x12 (u8 5)).payload = u8 5 ∧ 5 < receiving.pdir.entries.length ∧
      (entry receiving 5).state = .receiving ∧ contextOf receiving 5 = some 0 ∧
      ∀ g, g ≠ 5 → (entry receiving g).state ≠ .empty → (entry receiving g).key ≠ (entry receiving 5).key) ∧
    ((∃ c, receiving.prx.contexts[0]? = some (some c) ∧ c.running = true ∧ c.handle = 5) ∧
      receiving.prx.contexts[7]? = some none) ∧
    ((∃ c, mending.prx.contexts[0]? = some (some c) ∧ c.running = true ∧ c.handle = 5) ∧ contextOf mending 5 = some 0 ∧
      (entry mending 5).state ≠ .receiving ∧ mending.prx.chunk = none) :=
  ⟨⟨takes_receiving _, ofKind_cmd _ _, rfl, rfl, by decide +kernel, by decide +kernel, by decide +kernel,
    fun g h h' => absurd (congrArg Entry.state (receiving_others g h)) h'⟩, ⟨⟨_, rfl, rfl, rfl⟩, rfl⟩,
    ⟨⟨_, rfl, rfl, rfl⟩, by decide +kernel, by decide +kernel, rfl⟩⟩

/-- Entry 5 in RECEIVING beside an older closed version of its key, not bound, as entry 6, and a bound one as 7. -/
def rivals : State := { receiving with
  pdir := { receiving.pdir with entries := (receiving.pdir.entries.set 6 { Entry.empty with
    state := .complete, key := ⟨1, 2, 6, 0⟩, version := 2 }).set 7 { Entry.empty with
    state := .complete, key := ⟨1, 2, 6, 0⟩, version := 1, refs := 1 } } }

/-- The other entries of `rivals` are those of `receiving`. -/
theorem rivals_others (g : Nat) (h6 : g ≠ 6) (h7 : g ≠ 7) : entry rivals g = entry receiving g := by
  unfold entry rivals
  simp only [List.getD_eq_getElem?_getD, List.getElem?_set]
  rw [if_neg (by omega), if_neg (by omega)]

/-- The rival 6 DAMAGED, with a repair open in context 1 and a chunk of it in the chunk buffer. -/
def mendedRival : State := { rivals with
  pdir := { rivals.pdir with entries := rivals.pdir.entries.set 6 { Entry.empty with
    state := .damaged, key := ⟨1, 2, 6, 0⟩, version := 2, damaged := 1,
    bands := [⟨20, 0, 1, .arriving, none, some 141⟩] } }
  prx := { rivals.prx with
    contexts := rivals.prx.contexts.set 1 (some ⟨6, .repair, false, [⟨0, 7, some 141, Scan.start⟩]⟩)
    chunk := some ⟨6, 0, false, [7], []⟩ } }

/-- R54: the timeout of the newer version's reception retires the entry under repair and drops its chunk. -/
theorem test_timeout_retires :
    after (.receptionTimeout 0) mendedRival (fun t => t.prx.chunk == none && entry t 6 == Entry.empty &&
      t.prx.contexts[1]? == some none && (entry t 7).state == .superseded && (entry t 5).timeout) = true := by
  decide +kernel

theorem witness_CloseAppliesSupersession :
    ((∃ c, mendedRival.prx.contexts[0]? = some (some c) ∧ c.running = true ∧ c.handle = 5) ∧
      mendedRival.resetHeld = false ∧ (entry mendedRival 5).state = .receiving ∧
      5 < mendedRival.pdir.entries.length ∧ mendedRival.prx.chunk = some ⟨6, 0, false, [7], []⟩ ∧
      (entry mendedRival 6).key = (entry mendedRival 5).key ∧ (entry mendedRival 6).state = .damaged ∧
      contextOf mendedRival 6 ≠ none) ∧
    (takes (given (cmd 0x12 (u8 5)) rivals) (cmd 0x12 (u8 5)) [] ∧ rivals.part = .ready ∧
      (entry rivals 5).state = .receiving ∧ 5 < rivals.pdir.entries.length) ∧
    ((entry rivals 6).key = (entry rivals 5).key ∧ (entry rivals 6).state = .complete ∧ (entry rivals 6).refs = 0 ∧
      (entry rivals 7).refs ≠ 0 ∧ contextOf rivals 7 = none) ∧
    ([6, 7].Pairwise (· < ·) ∧ ∀ g, g ∈ [6, 7] ↔ g ≠ 5 ∧ (entry rivals g).key = (entry rivals 5).key ∧
      ((entry rivals g).state = .complete ∨ (entry rivals g).state = .damaged)) ∧
    (let newer := page5 (fun e => { e with version := 1 }) rivals
     (entry newer 5).version < (entry newer 6).version) := by
  refine ⟨⟨⟨_, rfl, rfl, rfl⟩, by decide +kernel⟩, ⟨takes_given rfl rfl rfl (by decide), rfl, by decide +kernel,
    by decide +kernel⟩, by decide +kernel, ⟨by decide, fun g => ?_⟩, by decide +kernel⟩
  by_cases h6 : g = 6
  · subst h6; decide +kernel
  by_cases h7 : g = 7
  · subst h7; decide +kernel
  by_cases h5 : g = 5
  · subst h5; decide +kernel
  rw [rivals_others g h6 h7, receiving_others g h5]
  simp [h6, h7, Entry.empty]

theorem witness_PageCloseEndsARepair :
    (takes (given (cmd 0x12 (u8 5)) repairing) (cmd 0x12 (u8 5)) [] ∧ (cmd 0x12 (u8 5)).payload = u8 5 ∧
      (entry repairing 5).state ≠ .receiving ∧ contextOf repairing 5 = some 0 ∧
      5 < repairing.pdir.entries.length) ∧
    (contextOf damaged 63 = none ∧ (entry damaged 63).state ≠ .receiving) ∧
    ¬((u8 64).length = 1 ∧ byteAt (u8 64) 0 ≤ 63) :=
  ⟨⟨takes_given rfl rfl rfl (by decide), rfl, by decide +kernel, by decide +kernel, by decide +kernel⟩,
    by decide +kernel, by decide⟩

theorem witness_PageDropReleasesTheEntry :
    (takes (given (cmd 0x14 [0, 1, 2, 6, 0, 3, 0]) withPage) (cmd 0x14 [0, 1, 2, 6, 0, 3, 0]) [] ∧
      parseDrop [0, 1, 2, 6, 0, 3, 0] = some (0, ⟨1, 2, 6, 0⟩, 3)) ∧
    ((entry withPage 0).state ≠ .empty ∧ (entry withPage 0).key = ⟨1, 2, 6, 0⟩ ∧ (entry withPage 0).version = 3 ∧
      (entry withPage 0).refs = 0 ∧ 0 < withPage.pdir.entries.length) ∧
    (entry withPage 1).state = .empty ∧ (entry (page5 (fun e => { e with refs := 2 }) damaged) 5).refs ≠ 0 :=
  ⟨⟨takes_given rfl rfl rfl (by decide), by decide +kernel⟩, by decide +kernel, by decide +kernel, by decide +kernel⟩

/-- Entry 5 DAMAGED with a GOOD band, in other states. -/
def bound5 (f : Entry → Entry) : State := page5 (fun e => f { e with refs := 1 }) damaged

theorem witness_PagesAreReleasedRetiredAndBound :
    (let s := draining .repair true [] damaged
     (∃ k, s.prx.chunk = some k ∧ k.handle = 5) ∧ contextOf s 5 = some 0 ∧ 5 < s.pdir.entries.length) ∧
    (damaged.prx.chunk = none ∧ contextOf damaged 5 = none ∧ 5 ≠ 6 ∧ (entry damaged 5).refs = 0) ∧
    ((entry (bound5 id) 5).refs ≠ 0 ∧ (entry (bound5 id) 5).state ≠ .superseded ∧
      (entry (bound5 id) 5).storeSuspect = false) ∧
    (entry (bound5 (fun e => { e with state := .superseded })) 5).state = .superseded ∧
    ((entry (bound5 (fun e => { e with storeSuspect := true })) 5).storeSuspect = true ∧
      (entry (bound5 (fun e => { e with storeSuspect := true })) 5).goodBands ≠ 0) ∧
    (entry (bound5 (fun e => { e with storeSuspect := true, bands := [] })) 5).goodBands = 0 :=
  ⟨⟨⟨_, rfl, rfl⟩, by decide +kernel, by decide +kernel⟩, by decide +kernel, by decide +kernel, by decide +kernel,
    by decide +kernel, by decide +kernel⟩

theorem witness_PageAndScreenQueriesAnswer :
    (takes (given (cmd 0x13 (u8 5 ++ u16 1)) repairing) (cmd 0x13 (u8 5 ++ u16 1)) [] ∧ repairing.part = .ready ∧
      (entry repairing 5).state ≠ .empty ∧ 1 < (entry repairing 5).bands.length ∧
      (entry repairing 5).bands.length ≤ 2 ∧ (entry repairing 63).state = .empty) ∧
    ¬((u8 64 ++ u16 0).length = 3 ∧ byteAt (u8 64 ++ u16 0) 0 ≤ 63) ∧
    (takes (given (cmd 0x23 (u8 7)) night) (cmd 0x23 (u8 7)) [] ∧ ofKind 0x23 (cmd 0x23 (u8 7)) ∧
      (cmd 0x23 (u8 7)).payload = u8 7) ∧ ¬((u8 8).length = 1 ∧ byteAt (u8 8) 0 ≤ 7) :=
  ⟨⟨takes_given rfl rfl rfl (by decide), rfl, by decide +kernel, by decide +kernel, by decide +kernel,
      by decide +kernel⟩, by decide, ⟨takes_night _, ofKind_cmd _ _, rfl⟩, by decide⟩

theorem witness_ChunkIsWrittenAndItsBandJudged :
    (let s := draining .reception true [(2097154, [9])] receiving
     s.psc.inFlight = .busy ⟨.prxWrite, .write 2097152 [7, 7], false⟩ ∧ (∀ p ∈ s.psc.waiting, p.client ≠ .prxWrite) ∧
       ∃ c, s.prx.chunk = some c ∧ c.todo = (2097154, [9]) :: []) ∧
    (let s := draining .reception true [] receiving
     (∃ k, s.prx.chunk = some k ∧ k.todo = [] ∧ k.last = true) ∧ contextOf s 5 = some 0 ∧
       (∃ c, s.prx.contexts[0]? = some (some c) ∧ c.mode = .reception ∧ (c.bands.find? (fun q => q.band == 1)).isSome) ∧
       5 < s.pdir.entries.length ∧ (entry s 5).bands[1]? = some ⟨20, 0, 0, .expected, none, none⟩) ∧
    ((draining .reception false [] receiving).prx.chunk.map Chunk.last) = some false ∧
    ((leftBehind receiving).psc.inFlight = .busy ⟨.prxWrite, .write 2097152 [7, 7], true⟩ ∧
      (leftBehind receiving).prx.chunk = none) :=
  ⟨⟨rfl, by decide +kernel, ⟨_, rfl, rfl⟩⟩,
    ⟨⟨_, rfl, rfl, rfl⟩, by decide +kernel, ⟨_, rfl, rfl, by decide⟩, by decide +kernel, by decide +kernel⟩, rfl, rfl, rfl⟩

/-! ### Screen sets and the raster unit -/

/-- Screen set 6 in LOADING with a received count. -/
def loading (received : Nat) : State := { night with
  sct := { night.sct with sets := night.sct.sets.set 6 { set6 with
    state := .loading, received := received, runCrc := 5 } } }

/-- The payload of a SCREEN.BEGIN for set 6 with the shape of the worked case. -/
def beginBytes (width maxDot : Nat) : List Byte :=
  u8 6 ++ u16 width ++ u16 17 ++ u16 13 ++ u16 205 ++ u16 maxDot ++ sentCurve.flatMap u16

theorem witness_ScreenLoadsBeginAndEnd :
    (takes (given (cmd 0x20 (beginBytes 34 3890)) night) (cmd 0x20 (beginBytes 34 3890)) [] ∧ night.part = .ready ∧
      parseScreenBegin (beginBytes 34 3890) = some ⟨6, 34, 17, 13, 205, 3890, sentCurve⟩ ∧ parseScreenBegin [] = none ∧
      night.psch.queue = []) ∧
    ((clampCurve sentCurve).length = 17 ∧ (clampCurve sentCurve).head? = some 0 ∧
      ∀ k, k < 16 → (clampCurve sentCurve).getD (k + 1) 0 =
        max ((clampCurve sentCurve).getD k 0) (min 4095 (sentCurve.getD (k + 1) 0))) ∧
    ((∃ j ∈ imaging.psch.queue, j.setIndex = 3) ∧ ¬(2049 ≤ 2048) ∧ ¬(4096 ≤ 4095) ∧ 13 ≤ 34 - 1) ∧
    (takes (given (cmd 0x22 (u8 6 ++ u16 5)) (loading 578)) (cmd 0x22 (u8 6 ++ u16 5)) [] ∧
      (screenSet (loading 578) 6).state = .loading ∧
      (screenSet (loading 578) 6).received =
        (screenSet (loading 578) 6).width * (screenSet (loading 578) 6).height ∧
      (screenSet (loading 578) 6).generation ≠ 65535 ∧ (screenSet (loading 577) 6).received ≠ 578 ∧
      (screenSet night 6).state ≠ .loading) ∧
    ¬((u8 8 ++ u16 5).length = 3 ∧ byteAt (u8 8 ++ u16 5) 0 ≤ 7) :=
  ⟨⟨takes_night _, rfl, by decide +kernel, by decide +kernel, rfl⟩, by decide +kernel,
    ⟨⟨plateJob, by simp [imaging], rfl⟩, by decide, by decide, by decide⟩,
    ⟨takes_given rfl rfl rfl (by decide), by decide +kernel, by decide +kernel, by decide +kernel, by decide +kernel,
      by decide +kernel⟩, by decide⟩

/-- The last burst of the tile buffer in flight. -/
def tiling (todo : List (Nat × List Byte)) : State := { loading 578 with
  psc := { night.psc with inFlight := .busy ⟨.sctTile, .write 786432 [1, 0], false⟩ }
  sct := { (loading 578).sct with tileBuf := some ⟨6, [1, 0], todo⟩ } }

theorem witness_ScreenTileIsTakenAndWritten :
    (takes (given (cmd 0x21 (u8 6 ++ u16 577 ++ [4095].flatMap u16)) (loading 577))
        (cmd 0x21 (u8 6 ++ u16 577 ++ [4095].flatMap u16)) [] ∧
      (cmd 0x21 (u8 6 ++ u16 577 ++ [4095].flatMap u16)).payload = u8 6 ++ u16 577 ++ [4095].flatMap u16 ∧
      (screenSet (loading 577) 6).state = .loading ∧ (screenSet (loading 577) 6).received = 577 ∧
      577 + [4095].length ≤ 34 * 17 ∧ 34 * 17 < 577 + [4095, 4095].length ∧ 576 ≠ 577 ∧
      burstsOf (6 * 131072 + 2 * 577) (([4095].map (fun v => max 1 (min 4095 v))).flatMap u16) =
        (787586, [0xFF, 0x0F]) :: [] ∧ (loading 577).psc.engaged .sctTile = false) ∧
    (screenSet night 6).state ≠ .loading ∧ ([] : List Byte).length % 2 ≠ 1 ∧
    ((tiling []).psc.inFlight = .busy ⟨.sctTile, .write 786432 [1, 0], false⟩ ∧
      (∃ c, (tiling []).sct.tileBuf = some c ∧ c.todo = []) ∧ (∀ p ∈ (tiling []).psc.waiting, p.client ≠ .sctTile) ∧
      ∃ c, (tiling [(786434, [2, 0])]).sct.tileBuf = some c ∧ c.todo = (786434, [2, 0]) :: []) ∧
    burstsOf 62 [1, 2, 3] = [] ++ (62, [1, 2]) :: [(64, [3])] :=
  ⟨⟨takes_given rfl rfl rfl (by decide), rfl, by decide +kernel, by decide +kernel, by decide, by decide, by decide,
      by decide +kernel, by decide +kernel⟩, by decide +kernel, by decide,
    ⟨rfl, ⟨_, rfl, rfl⟩, by decide +kernel, ⟨_, rfl, rfl⟩⟩, by decide +kernel⟩

/-- A fill of set 6 with so many thresholds taken, its burst in flight. -/
def filling (taken : Nat) (stale : Bool) : State := { night with
  psc := { night.psc with inFlight := .busy ⟨.sctFill, .read (786432 + 2 * taken) 2, stale⟩ }
  sct := { night.sct with
    sets := night.sct.sets.set 6 set6
    cache := List.replicate taken 1
    fill := if stale then none else some ⟨6, 7, 0xFFFF, taken⟩ } }

theorem witness_FillBurstIsTakenAndTheFillJudged :
    ((filling 0 true).psc.inFlight = .busy ⟨.sctFill, .read 786432 2, true⟩ ∧
      (filling 0 true).sct.fill = none) ∧
    ((filling 576 false).psc.inFlight = .busy ⟨.sctFill, .read 787584 2, false⟩ ∧ (filling 576 false).sct.fill = some ⟨6, 7, 0xFFFF, 576⟩ ∧
      (∀ p ∈ (filling 576 false).psc.waiting, p.client ≠ .sctFill) ∧ 576 ≤ (filling 576 false).sct.cache.length ∧
      2 * (576 + 1) < 2 * set6.width * set6.height) ∧
    ((filling 577 false).sct.fill = some ⟨6, 7, 0xFFFF, 577⟩ ∧ 577 ≤ (filling 577 false).sct.cache.length ∧
      2 * set6.width * set6.height ≤ 2 * (577 + 1)) ∧
    ((filling 0 true).psc.engaged .sctFill = true ∧ night.psc.engaged .sctFill = false ∧
      1 ≤ 2 * (screenSet (filling 0 true) 6).width * (screenSet (filling 0 true) 6).height) ∧
    (let s : State := { filling 0 true with
       sct := { (filling 0 true).sct with fill := some ⟨6, 7, 0xFFFF, 0⟩ } }
     s.psc.inFlight = .busy ⟨.sctFill, .read 786432 2, true⟩ ∧ s.sct.fill = some ⟨6, 7, 0xFFFF, 0⟩ ∧
       (∀ p ∈ s.psc.waiting, p.client ≠ .sctFill) ∧ 2 * 0 < 2 * (screenSet s 6).width * (screenSet s 6).height) :=
  ⟨⟨rfl, rfl⟩,
    ⟨rfl, rfl, by decide +kernel, by decide +kernel, by decide⟩,
    ⟨rfl, by decide +kernel, by decide⟩, by decide +kernel, by decide +kernel⟩

theorem witness_ToneCurveMapsSamples :
    set6.curve.length = 17 ∧ set6.curve.head? = some 0 ∧ set6.curve.Pairwise (· ≤ ·) ∧ (∀ v ∈ set6.curve, v ≤ 4095) ∧
      239 < 240 ∧ 240 ≤ 255 ∧ 15 < 16 := by decide +kernel

/-- R115, a value on each side of every boundary of the table. -/
theorem witness_DotClampsMapScreenValues :
    205 < 3890 ∧ 3890 ≤ 4095 ∧ (1 ≤ 204 ∧ 204 < 205 ∧ 2 * 204 ≥ 205 ∧ 2 * 103 ≥ 205 ∧ 2 * 102 < 205) ∧
      (205 ≤ 205 ∧ 3890 ≤ 3890) ∧ (3890 < 3993 ∧ 2 * 3993 ≥ 3890 + 4095 ∧ 2 * 3992 < 3890 + 4095) := by decide

theorem witness_ScreenedBitsAndPixels :
    (set6.curve.length = 17 ∧ set6.curve.head? = some 0 ∧ set6.curve.Pairwise (· ≤ ·) ∧ (∀ v ∈ set6.curve, v ≤ 4095) ∧
      set6.minDot < set6.maxDot ∧ set6.maxDot ≤ 4095 ∧ 1 ≤ set6.width ∧ 1 ≤ set6.height ∧
      (∀ i, i < set6.width * set6.height → 1 ≤ (List.replicate 578 7).getD i 0 ∧ (List.replicate 578 7).getD i 0 ≤ 4095) ∧
      screenedValue set6 255 = 4095) ∧
    (([0, 0] : List (BitVec 64))[1]? = some 0 ∧ 63 < 64) ∧ (7 < 8 ∧ 0 + 8 * 8 ≤ 64) ∧ (1 < 2 ∧ 31 < 32) ∧
    (Scan.start ≠ .done ∧ (scanByte 100 Scan.start 5).2 = .run 0 0 5 false ∧
      (scanByte 100 (.lineArt 0 5 true none) 5).2 = .run 0 5 5 true ∧ (scanByte 100 Scan.start 240).2 = .none ∧
      (scanByte 100 (.fields 1 [0, 0, 0, 1, 1, 0]) 1).2 = .slice ⟨0, 0, 1, 1, 1⟩ ∧
      (scanByte 100 (.samples 1 ⟨0, 0, 1, 1, 1⟩ 0) 9).2 = .sample ⟨0, 0, 1, 1, 1⟩ 0 0 9 ∧
      (scanByte 4 Scan.start 5).1 = .fault .overrun) := by
  decide +kernel

/-- R108: a black run of 5 after a white one of 2, of a page at x0 1, sets the line-art bits of plate x 3 to 7. -/
theorem test_run_is_painted :
    (decodeBytes set6 [] 0 [2, 5] { Ru.reset with lineArt := List.replicate 9 0 }
      ⟨⟨1, 1, 10, 8, 1⟩, 0, 90, 0, some 140, Scan.start⟩).1.lineArt = [0, 0, 0, 1, 1, 1, 1, 1, 0] := by decide +kernel

theorem witness_RasterUnitReadsAsTheReceiverChecks :
    ((239 : Byte).toNat < 240 ∧ 240 ≤ (240 : Byte).toNat ∧ (254 : Byte).toNat ≤ 254 ∧ (255 : Byte).toNat = 255 ∧
      90 + 10 ≤ 100 ∧ 100 < 91 + 10 ∧ 62 < 63 ∧ 16 < (17 : Byte).toNat ∧ (0 : Byte).toNat = 0 ∧
      ((16 : Byte).toNat = 15 + 1 ∧ 15 < 16)) ∧
    ((8 : Byte).toNat ∈ [1, 2, 4, 8] ∧ (3 : Byte).toNat ∉ [1, 2, 4, 8] ∧
      (1 ≤ 0 + 256 * (16 : Byte).toNat ∧ 0 + 256 * (16 : Byte).toNat ≤ 4096) ∧ 4096 < 1 + 256 * (16 : Byte).toNat ∧
      (1 ≤ (8 : Byte).toNat ∧ (8 : Byte).toNat ≤ 64 ∧ 0 + (8 : Byte).toNat * 8 ≤ 64) ∧ 64 < 0 + (9 : Byte).toNat * 8 ∧
      (14 + 1 < 2 * 8 ∧ 2 * 8 ≤ 15 + 1)) ∧
    (∀ cause, scanChunk 100 Scan.start exampleBand ≠ .fault cause) ∧ (∀ old, Scan.start ≠ .fault old) ∧
    scanChunk 100 Scan.start [10, 95] = .fault .overrun ∧ DamageCause.overrun ≠ .trailing ∧
    scanChunk 100 Scan.start (exampleBand ++ [0]) = .fault .trailing := by
  refine ⟨by decide, by decide, fun cause => ?_, fun old => ?_, by decide +kernel, by decide, by decide +kernel⟩
  · rw [show scanChunk 100 Scan.start exampleBand = .done by decide +kernel]
    exact Scan.noConfusion
  · exact Scan.noConfusion

/-- RU in WAITING for plate band 0 of a job of one page slot, with the band of the page in a state. -/
def waiting (b : BandState) : State := { imaging with
  pdir := { imaging.pdir with entries := imaging.pdir.entries.set 10 { Entry.empty with
    state := .complete, key := ⟨1, 2, 6, 0⟩, width := 64, refs := 1, bands := [⟨90, 47039, 90, b, none, some 140⟩] } }
  ru := { Ru.reset with phase := .waiting, job := some ⟨6000, 2, 0, 6, [⟨1, 100, 10, 64, 1⟩]⟩ } }

theorem witness_RasterUnitClaimsSlotsAndPlacesPages :
    ((waiting .good).ru.phase = .waiting ∧ (waiting .good).ru.job.isSome = true ∧
      ringState (waiting .good) 0 = .free ∧ ringState (waiting .good) 1 = .free ∧ (waiting .good).imp.ring.length = 8 ∧
      ringState (setRing 1 .ready (waiting .good)) 1 ≠ .free) ∧
    ((0 : Nat) % 64 = 0 ∧ (waiting .good).ru.cursor = 0 / 64 + 0 ∧
      bandOf (waiting .good) 10 0 = some ⟨90, 47039, 90, .good, none, some 140⟩ ∧
      bandOf (waiting .missing) 10 0 = some ⟨90, 47039, 90, .missing, none, some 140⟩) ∧
    ((waiting .good).ru.cursor < 64 / 64 ∧ 0 / 64 + 0 ≤ (waiting .good).ru.cursor) ∧
    (let s : State := { waiting .good with ru := { (waiting .good).ru with phase := .building, claimed := some (0, 1) } }
     s.psc.engaged .ru = false ∧ s.ru.phase = .building ∧ s.ru.job.isSome = true ∧ s.ru.claimed = some (0, 1)) := by
  decide +kernel

/-- RU BUILDING plate band 0 with a burst of its page's band in flight. -/
def reading (stale : Bool) : State := { waiting .good with
  psc := { night.psc with inFlight := .busy ⟨.ru, .read 2293760 64, stale⟩ }
  ru := { (waiting .good).ru with
    phase := if stale then .idle else .building
    claimed := some (0, 1)
    context := some ⟨⟨1, 100, 10, 64, 1⟩, 0, 90, 0, some 140, Scan.start⟩ } }

/-- RU BUILDING with a burst of a sweep in flight. -/
def sweeping (h g cursor : Nat) : State := { waiting .good with
  psc := { night.psc with inFlight := .busy ⟨.ru, .write 1048576 [1], false⟩ }
  ru := { (waiting .good).ru with phase := .building, claimed := some (0, 1), write := some (h, g), cursor := cursor } }

theorem witness_RasterBurstsAreTakenInTurn :
    ((reading true).psc.inFlight = .busy ⟨.ru, .read 2293760 64, true⟩ ∧
      (reading true).ru.phase = .idle) ∧
    ((reading false).psc.inFlight = .busy ⟨.ru, .read 2293760 64, false⟩ ∧ (reading false).ru.phase = .building ∧
      (reading false).ru.job.isSome = true ∧
      (reading false).ru.context = some ⟨⟨1, 100, 10, 64, 1⟩, 0, 90, 0, some 140, Scan.start⟩ ∧
      (∀ p ∈ (reading false).psc.waiting, p.client ≠ .ru)) ∧
    ((sweeping 0 374 0).psc.inFlight = .busy ⟨.ru, .write 1048576 [1], false⟩ ∧
      (sweeping 0 374 0).ru.phase = .building ∧ (sweeping 0 374 0).ru.context = none ∧
      (sweeping 0 374 0).ru.write = some (0, 374) ∧ (sweeping 0 374 0).ru.claimed = some (0, 1)) ∧
    (16 * (373 + 1) < 6000 ∧ 6000 ≤ 16 * (374 + 1) ∧ 0 + 1 < 2 ∧ 2 ≤ (sweeping 1 374 1).ru.cursor + 1) ∧
    (let s : State := { reading true with ru := (reading false).ru }
     s.psc.inFlight = .busy ⟨.ru, .read 2293760 64, true⟩ ∧ s.ru.phase = .building ∧ s.ru.job.isSome = true ∧
       s.ru.context.isSome = true ∧ (s.ru.context.bind DecodeContext.block) = some 140 ∧
       ∀ p ∈ s.psc.waiting, p.client ≠ .ru) ∧
    (let s : State := { sweeping 0 0 0 with
       psc := { night.psc with inFlight := .busy ⟨.ru, .write 1048576 [1], true⟩ } }
     s.psc.inFlight = .busy ⟨.ru, .write 1048576 [1], true⟩ ∧ s.ru.context = none ∧ s.ru.write = some (0, 0) ∧
       s.ru.claimed = some (0, 1)) ∧ (15 < 16 ∧ 16 * 374 + 15 < 6000 ∧ 3 < 4) :=
  ⟨⟨rfl, rfl⟩, ⟨rfl, rfl, by decide, rfl, by decide +kernel⟩, ⟨rfl, rfl, rfl, rfl, rfl⟩, by decide,
    ⟨rfl, rfl, rfl, rfl, rfl, by decide +kernel⟩, ⟨rfl, rfl, rfl, rfl⟩, by decide⟩

/-- The bytes of the reader's next event, for each clause: a burst within the band, its correct end, a fault. -/
theorem witness_RasterReadClauses :
    (let d := decodeBytes set6 [] 0 (exampleBand.take 64) Ru.reset ⟨⟨1, 0, 10, 100, 1⟩, 0, 90, 0, some 140, Scan.start⟩
     d.2.2 = none ∧ d.2.1.scan ≠ .done ∧ d.2.1.read < 90) ∧
    (let d := decodeBytes set6 [] 0 exampleBand Ru.reset ⟨⟨1, 0, 10, 100, 1⟩, 0, 90, 0, some 140, Scan.start⟩
     d.2.2 = none ∧ d.2.1.scan = .done ∧ d.2.1.read = 90) ∧
    (let d := decodeBytes set6 [] 0 [10, 95] Ru.reset ⟨⟨1, 0, 10, 100, 1⟩, 0, 90, 0, some 140, Scan.start⟩
     d.2.2 = some .overrun) := by decide +kernel

/-! ### Plates and the schedule -/

/-- A QUEUED job for page 6 of entry 10, on set 6. -/
def queued : Job := { plateJob with setIndex := 6, bp := 2, wp := 6000, state := .queued, generation := 0 }

/-- Everything that a queued job waits for is there. -/
def loaded : State := { night with
  pdir := (waiting .good).pdir
  sct := { night.sct with sets := night.sct.sets.set 6 set6 }
  psch := { Psch.reset with queue := [queued], fresh := true }
  imp := { Imp.reset with nrev := 8192, lead := 100 }
  hmon := { night.hmon with nrev := 8192, plateLoaded := true, drumReady := true } }

/-- The payload of a PLATE.QUEUE of a job. -/
def queueBytes (j : Job) : List Byte :=
  u16 j.id ++ u8 j.separation ++ u8 j.setIndex ++ u8 j.policy.code ++ u16 j.top ++ u16 j.bp ++ u16 j.wp ++
    u8 j.slots.length ++ j.slots.flatMap (fun t => t.key.bytes ++ u16 t.x0)

/-- A 502nd job, of a page that no entry holds. -/
def other : Job := { queued with id := 502, slots := [⟨⟨1, 2, 7, 0⟩, 100, none⟩] }

/-- The state with the only queued job in a state, armed or not. -/
def jobIn (st : JobState) (armed : Option Nat) : State := { loaded with
  psch := { loaded.psch with queue := [{ queued with state := st }], armed := armed } }

theorem witness_PlateQueueAndCancel :
    ((takes (given (cmd 0x30 (queueBytes other)) loaded) (cmd 0x30 (queueBytes other)) [] ∧
      ofKind 0x30 (cmd 0x30 (queueBytes other)) ∧ loaded.part = .ready ∧ parseQueue (queueBytes other) = some other ∧
      parseQueue [] = none) ∧
    ((∃ k ∈ loaded.psch.queue, k.id = queued.id) ∧ (∀ k ∈ loaded.psch.queue, k.id ≠ other.id) ∧
      loaded.psch.queue.length < 16 ∧ 16 ≤ (List.replicate 16 queued).length ∧
      (screenSet loaded 6).state ≠ .empty ∧ (screenSet loaded 6).state ≠ .loading ∧
      (screenSet loaded 7).state = .empty) ∧
    (∀ t ∈ other.slots, resolve loaded t.key = none) ∧
    (let s : State := { night with pdir := { night.pdir with entries := night.pdir.entries.set 10 { Entry.empty with
        state := .damaged, key := ⟨1, 2, 7, 0⟩, damaged := 1, bands := [⟨90, 0, 90, .damaged, some .short, none⟩] } } }
     other.policy = .run ∧ resolve s ⟨1, 2, 7, 0⟩ = some 10 ∧ (entry s 10).state = .damaged ∧
       (entry s 10).damaged = (entry s 10).bands.length)) ∧
    ((takes (given (cmd 0x31 (u16 501)) (jobIn .queued none)) (cmd 0x31 (u16 501)) [] ∧
      (∀ j ∈ (jobIn .queued none).psch.queue, 1 ≤ j.id ∧ j.id ≤ 65535 ∧ u16 501 = u16 j.id ∧ j.state = .queued ∧
        (jobIn .queued none).psch.armed ≠ some j.id ∧ ∀ k ∈ (jobIn .queued none).psch.queue, k.id = j.id → k = j)) ∧
    (∀ j ∈ (jobIn .arming (some 501)).psch.queue, j.state = .arming ∧ (jobIn .arming (some 501)).psch.armed = some j.id) ∧
    (∀ j ∈ (jobIn .imaging (some 501)).psch.queue, j.state = .imaging) ∧
    ((u8 1).length ≠ 2 ∧ halfAt (u16 0) 0 = 0 ∧ ∀ j ∈ (jobIn .queued none).psch.queue, j.id ≠ halfAt (u16 502) 0)) :=
  ⟨⟨⟨takes_given rfl rfl rfl (by decide), ofKind_cmd _ _, rfl, by decide +kernel, by decide +kernel⟩, by decide +kernel,
    by decide +kernel, by decide +kernel⟩,
    ⟨⟨takes_given rfl rfl rfl (by decide), by decide +kernel⟩, by decide +kernel, by decide +kernel, by decide +kernel⟩⟩

theorem witness_PlateQueriesAnswer :
    (takes (given (cmd 0x32 (u16 501)) loaded) (cmd 0x32 (u16 501)) [] ∧ ofKind 0x32 (cmd 0x32 (u16 501)) ∧
      loaded.part = .ready ∧ loaded.psch.queue[0]? = some queued ∧ queued.id = 501 ∧ (u8 1).length ≠ 2) ∧
    (let s : State := { night with psch := { Psch.reset with history := [⟨{ queued with state := .finished }, []⟩] } }
     (∀ j ∈ s.psch.queue, j.id ≠ 501) ∧ s.psch.history[0]? = some ⟨{ queued with state := .finished }, []⟩ ∧
       (∀ r ∈ s.psch.history, r.job.id ≠ 65535) ∧ JobState.finished ≠ .imaging) ∧
    (takes (given (cmd 0x32 [0, 0]) loaded) (cmd 0x32 [0, 0]) [] ∧ (cmd 0x32 [0, 0]).payload = [0, 0]) :=
  ⟨⟨takes_given rfl rfl rfl (by decide), ofKind_cmd _ _, rfl, rfl, rfl, by decide⟩, by decide +kernel,
    ⟨takes_given rfl rfl rfl (by decide), rfl⟩⟩

/-- Entry 10 is the one entry of `loaded` in COMPLETE or DAMAGED. -/
theorem loaded_closed (h : Nat) (hh : (entry loaded h).state = .complete ∨ (entry loaded h).state = .damaged) :
    h = 10 := by
  have small : ∀ g : Fin 64, (entry loaded g).state = .complete ∨ (entry loaded g).state = .damaged → g.val = 10 := by
    decide +kernel
  by_cases hl : h < 64
  · exact small ⟨h, hl⟩ hh
  · have : loaded.pdir.entries.length = 64 := by decide +kernel
    simp [entry, List.getElem?_eq_none (show loaded.pdir.entries.length ≤ h by omega), Entry.empty] at hh

theorem witness_ScheduleTestArmsTheOldestEligibleJob :
    (∀ g h, (entry loaded g).key = ⟨1, 2, 6, 0⟩ ∧
        ((entry loaded g).state = .complete ∨ (entry loaded g).state = .damaged) →
      (entry loaded h).key = ⟨1, 2, 6, 0⟩ ∧
        ((entry loaded h).state = .complete ∨ (entry loaded h).state = .damaged) → g = h) ∧
    (nothingToArm night ∧ nothingToArm imaging) ∧
    (loaded.psch.armed = none ∧ loaded.psch.queue = [] ++ queued :: [] ∧ (loaded.psch.queue.map Job.id).Nodup ∧
      eligible loaded queued = true ∧ loaded.sct.fill = none ∧ (∀ t ∈ queued.slots, t.bound = none) ∧
      ∀ t ∈ queued.slots, resolve loaded t.key = some 10 ∧ contextOf loaded 10 = none) ∧
    (100 + 64 ≤ queued.wp ∧ 0 / 64 + 1 ≤ queued.bp ∧ loaded.imp.lead + queued.wp ≤ loaded.imp.nrev) ∧
    (eligible loaded { queued with wp := 163 } = true ∧ 163 < 100 + 64 ∧
      eligible loaded { queued with slots := queued.slots ++ [⟨⟨1, 2, 6, 0⟩, 163, none⟩] } = true ∧
      100 < 163 + 64 ∧ 163 < 100 + 64 ∧ eligible loaded { queued with top := 128 } = true ∧ 2 < 128 / 64 + 1 ∧
      eligible loaded { queued with wp := 8093 } = true ∧ loaded.imp.nrev < loaded.imp.lead + 8093) :=
  ⟨fun g h hg hh => (loaded_closed g hg.2).trans (loaded_closed h hh.2).symm,
    ⟨.inr (by decide +kernel), .inl (by decide +kernel)⟩, by decide +kernel, by decide +kernel, by decide +kernel⟩

theorem witness_ArmedJobBecomesImaging : (jobIn .arming (some 501)).psch.armed = some 501 ∧
    (jobIn .arming (some 501)).psch.queue = [] ++ { queued with state := .arming } :: [] ∧
    ((jobIn .arming (some 501)).psch.queue.map Job.id).Nodup := by decide +kernel

/-- The armed job of entry 10, bound. -/
def boundJob (st : JobState) : Job := { queued with state := st, slots := [⟨⟨1, 2, 6, 0⟩, 100, some (10, 0)⟩] }

/-- The state of a bound armed job with entry 10 changed. -/
def armedState (st : JobState) (f : Entry → Entry) : State :=
  let s := { loaded with psch := { loaded.psch with queue := [boundJob st], armed := some 501 } }
  setEntry 10 (f (entry s 10)) s

theorem witness_JobEndsAndIsArchived :
    (armedJob (armedState .imaging id) = some (boundJob .imaging) ∧ (armedState .imaging id).psch.armed = some 501 ∧
      contextOf (armedState .imaging id) 10 = none ∧ 10 < (armedState .imaging id).pdir.entries.length ∧
      (armedState .imaging id).prx.chunk = none ∧ (entry (armedState .imaging id) 10).state ≠ .superseded ∧
      (entry (armedState .imaging id) 10).storeSuspect = false ∧ (armedState .imaging id).imp.rev.decision ≠ .endPlate ∧
      ringState (setRing 2 .filling (armedState .imaging id)) 2 = .filling ∧
      (armedState .imaging id).ru.claimed = none) ∧
    (entry (armedState .imaging (fun e => { e with state := .superseded })) 10).state = .superseded ∧
    (entry (armedState .imaging (fun e => { e with storeSuspect := true })) 10).storeSuspect = true ∧
    armedJob (armedState .arming id) = some (boundJob .arming) := by decide +kernel

/-! ### The head and the drum -/

/-- The payload of a HEAD.SETUP that enables every channel. -/
def headBytes (nrev watermark : Nat) : List Byte :=
  u16 nrev ++ u8 100 ++ u8 1 ++ u8 1 ++ u8 16 ++ u16 watermark ++ u32 0xFFFFFFFF ++
    (List.replicate 32 (600, 800)).flatMap (fun w => u16 w.1 ++ u16 w.2)

theorem witness_HeadSetupAndChannelClear :
    (takes (given (cmd 0x40 (headBytes 8192 63)) night) (cmd 0x40 (headBytes 8192 63)) [] ∧
      ofKind 0x40 (cmd 0x40 (headBytes 8192 63)) ∧ (parseHeadSetup (headBytes 8192 63)).isSome = true ∧
      (parseHeadSetup (headBytes 8192 63)).map HeadSettings.sound = some true ∧
      (parseHeadSetup (headBytes 1023 63)).map HeadSettings.sound = some false ∧ ([] : List Byte).length ≠ 140 ∧
      night.psch.armed = none ∧ night.hmon.test = none ∧ imaging.psch.armed ≠ none) ∧
    (takes (given (cmd 0x41 (u32 (0x80#32).toNat)) watched) (cmd 0x41 (u32 (0x80#32).toNat)) [] ∧
      watched.part = .ready ∧ (cmd 0x41 (u32 (0x80#32).toNat)).payload = u32 (0x80#32).toNat ∧
      watched.hmon.channels.length = 32 ∧ ([] : List Byte).length ≠ 4) :=
  ⟨⟨takes_night _, ofKind_cmd _ _, by decide +kernel, by decide +kernel, by decide +kernel, by decide, rfl, rfl,
      by decide⟩, ⟨takes_given rfl rfl rfl (by decide), rfl, rfl, by decide +kernel, by decide⟩⟩

/-- The tuning values are clamped: a dwell limit of 16 and a watermark of 63. -/
theorem test_head_setup_clamps : after .headSetup (given (cmd 0x40 (headBytes 8192 63)) night)
    (fun t => lastReply t == [0, 15, 64, 0] && t.imp.swath == .half && t.imp.half == 1 &&
      (t.hmon.channels.map Channel.high) == List.replicate 32 800) = true := by decide +kernel

/-- A test pending with index events counted. -/
def testing (n : Nat) : State := { night with
  lp := { night.lp with replyReserved := [9] }
  hmon := { night.hmon with test := some (9, n) } }

theorem witness_MonitorTestWaitsForARecord :
    (takes (given (cmd 0x42 []) night) (cmd 0x42 []) [] ∧ night.part = .ready ∧ (cmd 0x42 []).payload = [] ∧
      night.psch.armed = none ∧ night.hmon.test = none) ∧
    (cmd 0x42 [0]).payload ≠ [] ∧ (testing 0).hmon.test ≠ none ∧ (testing 3).hmon.test = some (9, 3) ∧
    (testing 3).resetHeld = false ∧ ∀ tag, (testing 2).hmon.test ≠ some (tag, 3) :=
  ⟨⟨takes_night _, rfl, rfl, rfl, rfl⟩, by decide, by decide, rfl, rfl, fun tag => by simp [testing]⟩

theorem witness_HeadReturnRecordIsTaken :
    ({ night with imp := { night.imp with recordTaken := true } } : State).imp.recordTaken = true ∧
    (watched.resetHeld = false ∧ watched.imp.recordTaken = false ∧ (imagingJob watched).isSome = true ∧
      watched.imp.endDecided = false ∧ watched.imp.steps = 3 ∧ (1 : BitVec 16).toNat ≠ 3 ∧ (1 : BitVec 16).toNat ≠ 3 - 1 ∧
      (2 : BitVec 16).toNat = 3 - 1) ∧
    ((testing 3).hmon.test = some (9, 3) ∧ (testing 3).hmon.channels.length = 32 ∧
      (testing 3).imp.recordTaken = false) := by decide +kernel

/-- `watched` with channels 7 and 9 SUSPECT, both of which the record makes FAULTED. -/
def watchedTwice : State := { watched with
  hmon := { watched.hmon with channels := watched.hmon.channels.set 9 ⟨600, 800, true, .suspect, 900⟩ } }

/-- The fault mask as it stands when a channel of `watchedTwice` becomes FAULTED. -/
def risingMask (k : Nat) : Word := if k < 7 then 0 else if k < 9 then 0x80 else 0x280

theorem witness_ReadingsMoveTheChannels :
    (watched.imp.prev.decision = .expose ∧ readings540.length = 32 ∧ watched.hmon.channels.length = 32 ∧
      watched.hmon.highFailed = 0 ∧ watched.hmon.lowFailed = 0 ∧ watched.imp.prev.live = true ∧
      Revolution.idle.decision ≠ .expose) ∧
    (watched.hmon.channels[7]? = some ⟨600, 800, true, .suspect, 560⟩ ∧ readings540[7]? = some 540 ∧
      watched.imp.prev.driven.getLsbD 7 = true ∧ (540 : BitVec 10).toNat < 600 ∧
      ¬((600 : BitVec 10).toNat < 600 ∨ 800 < (600 : BitVec 10).toNat) ∧
      ¬((800 : BitVec 10).toNat < 600 ∨ 800 < (800 : BitVec 10).toNat)) ∧
    (watched.hmon.channels[8]? = some Channel.reset ∧ Channel.reset.enabled = false) ∧
    (∀ k k', k < 32 → k' < 32 → ((risingMask k).getLsbD k' = true ↔
      ((if k' ≤ k then judgeRecord ⟨true, true, 3, readings540⟩ watchedTwice.imp.prev 501 watchedTwice
        else watchedTwice).hmon.channels[k']?).map Channel.state = some .faulted)) := by
  refine ⟨by decide +kernel, by decide +kernel, by decide +kernel, fun k k' hk hk' => ?_⟩
  have h1 : (judgeRecord ⟨true, true, 3, readings540⟩ watchedTwice.imp.prev 501 watchedTwice).hmon.channels.map
      Channel.state = ((List.replicate 32 ChannelState.ok).set 7 .faulted).set 9 .faulted := by decide +kernel
  have h2 : watchedTwice.hmon.channels.map Channel.state =
      ((List.replicate 32 ChannelState.ok).set 7 .suspect).set 9 .suspect := by decide +kernel
  have key : ∀ k, k < 32 → ∀ k', k' < 32 → ((risingMask k).getLsbD k' = true ↔
      (if k' ≤ k then ((List.replicate 32 ChannelState.ok).set 7 .faulted).set 9 .faulted
        else ((List.replicate 32 ChannelState.ok).set 7 .suspect).set 9 .suspect)[k']? = some .faulted) := by
    decide +kernel
  rw [key k hk k' hk', ← h1, ← h2, ← List.getElem?_map]
  split <;> rfl

/-- An EXPOSE revolution under way, about to begin a slot. -/
def exposing (slot : Nat) (fifo : List (Nat × Word)) : State := { imaging with
  imp := { imaging.imp with
    rev := { Revolution.idle with decision := .expose, live := true, slot := slot }
    fifo := fifo } }

/-- R148: a raster word on the head link, least significant byte first. -/
theorem test_head_link :
    headLink { night with imp := { night.imp with headWord := .raster 0x04030201#32 } } = [1, 2, 3, 4] := by
  decide +kernel

theorem witness_SlotSendsOneWord :
    (night.imp.headWord = .raster 0 ∧ 3 < 4 ∧ 7 < 8) ∧
    ((exposing 99 [(0, 5)]).resetHeld = false ∧ (exposing 99 [(0, 5)]).imp.rev.decision = .expose ∧
      (exposing 99 [(0, 5)]).imp.rev.live = true ∧ (exposing 99 [(0, 5)]).imp.rev.dark = false ∧
      (imagingJob (exposing 99 [(0, 5)])).map Job.wp = some 6000 ∧ 0 < 6000 ∧
      (exposing 99 [(0, 5)]).imp.rev.slot + 1 = (exposing 99 [(0, 5)]).imp.lead + 0 ∧
      (exposing 99 [(0, 5)]).imp.lead + 0 < (exposing 99 [(0, 5)]).imp.nrev ∧
      (exposing 99 [(0, 5)]).imp.fifo = (0, 5) :: [] ∧ (exposing 99 [(0, 5)]).imp.rev.slot ≤ 131071) ∧
    (exposing 99 []).imp.fifo = [] ∧ (exposing 98 []).imp.rev.slot + 1 < (exposing 98 []).imp.lead ∧
    (exposing 6099 []).imp.rev.slot + 1 = (exposing 6099 []).imp.lead + 6000 := by decide +kernel

/-- HMON's slot count at a value. -/
def counting (n : Nat) (s : State) : State := { s with hmon := { s.hmon with slotCount := n } }

theorem witness_SlotBoundsAndClockLoss :
    night.hmon.slotCount = 0 ∧
    ((counting 131071 imaging).hmon.slotCount = 131071 ∧ imaging.hmon.nrev ≤ 65535 ∧ imaging.hmon.tolerance ≤ 255) ∧
    (0 < (counting 1 imaging).hmon.slotCount ∧ (counting 1 imaging).hmon.slotCount < 131071 ∧
      (counting 1 imaging).hmon.slotCount + 1 ≠ 8192 + 4 + 1 ∧ (counting 1 imaging).hmon.slotCount + 1 ≠ 2 * 8192) ∧
    ((counting 8196 imaging).hmon.slotCount = imaging.hmon.nrev + imaging.hmon.tolerance ∧
      (counting 8196 imaging).hmon.overdue = false ∧ 1024 ≤ imaging.hmon.nrev) ∧
    ((counting 16383 imaging).hmon.slotCount + 1 = 2 * imaging.hmon.nrev ∧
      (counting 16383 imaging).hmon.indexLost = false) ∧
    (let s := counting 8196 { imaging with hmon := { imaging.hmon with overdue := true, indexLost := true } }
     s.hmon.slotCount + 1 = s.hmon.nrev + s.hmon.tolerance + 1 ∧ s.hmon.overdue = true ∧ s.hmon.indexLost = true) ∧
    (State.reset.hmon.clockLoss = none ∧ night.hmon.clockLoss ≠ none ∧ night.resetHeld = false ∧
      (imagingJob night).isNone = true ∧ night.hmon.test = none ∧ (testing 3).hmon.test = some (9, 3)) := by
  decide +kernel

/-- R146: a HEAD.SETUP between two indices. The revolution under way is measured against the Nrev in use. -/
theorem test_new_nrev_waits :
    after .indexOverdue { counting 8196 imaging with imp := { imaging.imp with nrev := 9000 } }
      (fun t => t.hmon.overdue && t.hmon.slotCount == 8197) = true ∧
    after .drumIndex { counting 8192 night with imp := { night.imp with nrev := 9000 } }
      (fun t => t.hmon.nrev == 9000) = true := by decide +kernel

theorem witness_IndexClosesTheRevolution :
    (night.resetHeld = false ∧ (∀ tag n, night.hmon.test = some (tag, n) → n < 3) ∧ night.imp.rev.decision ≠ .expose) ∧
    ((exposing 8191 []).imp.rev.decision = .expose ∧ (exposing 8191 []).imp.rev.live = true ∧
      ∀ tag n, (exposing 8191 []).hmon.test = some (tag, n) → n < 3) ∧
    (∀ tag n, (testing 2).hmon.test = some (tag, n) → n < 3) := by
  refine ⟨⟨rfl, fun _ _ h => ?_, by decide⟩, ⟨rfl, rfl, fun _ _ h => ?_⟩, fun _ n h => ?_⟩
  · simp [night, Hmon.reset] at h
  · simp [exposing, imaging, night, Hmon.reset] at h
  · simp [testing] at h
    omega

/-- A job in IMAGING with a number of sweeps exposed and IMP's other progress. -/
def decided (e : Nat) (f : Imp → Imp) : State := { imaging with imp := f { imaging.imp with exposed := e } }

theorem witness_IndexDecidesTheRevolution :
    ((imagingJob night).isNone = true ∧ night.imp.closing = none ∧
      ({ night with imp := { night.imp with closing := some 5 } } : State).imp.closing = some 5) ∧
    (imagingJob (decided 0 id) = some plateJob ∧ (decided 0 id).imp.endDecided = false ∧
      (decided 0 id).imp.cancelPending = false ∧ ringState (decided 0 id) 0 ≠ .ready ∧
      (decided 0 id).imp.firstExpose = false) ∧
    (decided 4 id).imp.exposed = 2 * plateJob.bp ∧
    (let s := decided 1 (fun m => { m with swath := .half })
     s.imp.swath ≠ .full ∧ s.imp.exposed % 2 = 1 ∧ s.imp.exposed ≠ 4 * plateJob.bp) ∧
    ringState (decided 0 (fun m => { m with ring := m.ring.set 0 .ready })) 0 = .ready ∧
    (let s := decided 2 (fun m => { m with firstExpose := true, dwellCount := 1 })
     s.imp.firstExpose = true ∧ s.imp.dwellCount + 1 ≤ s.imp.dwellLimit) ∧
    (let s := decided 2 (fun m => { m with firstExpose := true, dwellCount := 2 })
     s.imp.dwellLimit < s.imp.dwellCount + 1) ∧
    (decided 0 (fun m => { m with cancelPending := true })).imp.cancelPending = true ∧
    (decided 0 (fun m => { m with endDecided := true })).imp.endDecided = true := by decide +kernel

/-- A fetch burst in flight for the sweep that an EXPOSE revolution exposes. -/
def fetching (level : Nat) : State := { exposing 0 (List.replicate level (0, 0)) with
  psc := { night.psc with inFlight := .busy ⟨.impFetch, .read 1048576 64, false⟩ } }

theorem witness_FetchesFillTheFifo :
    ((fetching 0).psc.inFlight = .busy ⟨.impFetch, .read 1048576 64, false⟩) ∧
    (imagingJob (exposing 0 []) = some plateJob ∧ (exposing 0 []).imp.rev.decision = .expose ∧
      (exposing 0 []).imp.rev.live = true ∧ (exposing 0 []).imp.nextFetch < plateJob.wp ∧
      (exposing 0 []).imp.fifo.length ≤ (exposing 0 []).imp.watermark ∧
      (exposing 0 []).psc.engaged .impFetch = false ∧ (fetching 0).psc.engaged .impFetch = true) ∧
    ((List.replicate 513 (0, 0)).length > imaging.imp.watermark ∧ imaging.imp.refill = false ∧
      2048 < (List.replicate 2033 ((0 : Nat), (0 : Nat))).length + min 16 (6000 - 0) ∧
      (List.replicate 2032 ((0 : Nat), (0 : Nat))).length + min 16 (6000 - 0) ≤ 2048 ∧ plateJob.wp ≤ 6000) ∧
    (night.imp.rev.decision ≠ .expose ∧ 1 ≤ 1 ∧ 31 < 32) :=
  ⟨rfl, by decide +kernel, by decide +kernel, by decide⟩

/-! ### The store, the defects and what every step keeps -/

theorem witness_BurstsMoveTheirBytes :
    ((draining .reception true [] receiving).psc.inFlight = .busy ⟨.prxWrite, .write 2097152 [7, 7], false⟩ ∧
      ([7, 7] : List Byte)[1]? = some 7 ∧ (2097154 < 2097152 ∨ 2097152 + [7, 7].length ≤ 2097154)) ∧
    (let s : State := { night with psc := { night.psc with inFlight := .busy ⟨.ru, .write 67108863 [7, 7], true⟩ } }
     s.psc.inFlight = .busy ⟨.ru, .write 67108863 [7, 7], true⟩ ∧ s.psc.storeMiB = some 64 ∧ 67108864 = 64 * 1048576) ∧
    (∃ t, exec .status night = .next t) ∧ Instr.status ≠ .hardwareReset ∧ Instr.status ≠ .refreshDue :=
  ⟨⟨rfl, rfl, by decide⟩, ⟨rfl, rfl, rfl⟩, ⟨night, rfl⟩, by decide, by decide⟩

theorem witness_ArbiterServesTheHighestClass :
    (night.psc.inFlight = .idle ∧ (fetching 0).psc.inFlight = .busy ⟨.impFetch, .read 1048576 64, false⟩ ∧
      night.psc.waiting = []) ∧
    (let pre : List Op := [⟨.ru, .read 0 64, false⟩]
     let post : List Op := [⟨.impFetch, .read 64 64, false⟩]
     (∀ q ∈ pre, Client.impFetch.rank < q.client.rank) ∧ ∀ q ∈ post, Client.impFetch.rank ≤ q.client.rank) ∧
    (({ night with psc := { night.psc with inFlight := .busy ⟨.refresh, .refresh, false⟩ } } : State).psc.inFlight =
      .busy ⟨.refresh, .refresh, false⟩) ∧
    (Client.impFetch = .impFetch ∧ Client.impFetch ≠ .ru) ∧
    State.reset.psc.refreshInterval = none ∧ night.psc.refreshInterval = some 20 ∧
    ∀ p ∈ night.psc.waiting, p.client ≠ .refresh := by decide +kernel

/-- A refresh request waiting at an interval. -/
def unserved (interval : Nat) : State := { withPage with
  psc := { night.psc with
    refreshInterval := some interval
    inFlight := .busy ⟨.prxWrite, .write 0 [0], false⟩
    waiting := [⟨.refresh, .refresh, false⟩] } }

theorem witness_MergedRefreshDamagesTheStore :
    (unserved 12).psc.refreshInterval = some 12 ∧ (∃ p ∈ (unserved 12).psc.waiting, p.client = .refresh) ∧ 12 < 13 ∧
    (unserved 13).psc.refreshInterval = some 13 ∧ 13 ≤ 13 ∧ (entry (unserved 12) 0).refs = 0 ∧
    (entry (page5 (fun e => { e with refs := 1 }) damaged) 5).refs ≠ 0 := by decide +kernel

theorem witness_ChainRejoinsThePoolInOrder :
    (night.psc.poolIs [128, 129, 130] ∧
      (night.psc.setLink 140 (some 141)).linked [140, 141] ∧ ([128, 129, 130] ++ [140, 141]).Nodup ∧
      [140, 141].length ≤ 65536) ∧ (noBlocks night).psc.poolIs [] :=
  ⟨⟨⟨rfl, rfl, rfl, by decide, rfl, rfl, rfl⟩, ⟨rfl, rfl⟩, by decide, by decide⟩,
    ⟨rfl, rfl, rfl, by decide, trivial⟩⟩

theorem witness_DefectIsPlacedAndRaisesTheVerdict :
    (let r : Defect := .handed .channel 7 7 none (some 7) none none none
     let d : Defect := .handed .channel 39 39 none (some 7) none none none
     r.kind = d.kind ∧ r.channel = d.channel ∧ r.slot = d.slot ∧ d.firstLine ≤ r.lastLine + 32 ∧
       ¬(d.firstLine + 1 ≤ r.lastLine + 32)) ∧
    ((defects109.take 22).foldl Drec.take open108).list.length = 22 ∧
    ((defects109.take 23).foldl Drec.take open108).list.length = 23 ∧
    ((defects109.take 24).foldl Drec.take open108).list.length = 24 ∧
    (Drec.reset.plateOpen = false ∧ open108.plateOpen = true ∧ DefectKind.underrun ≠ .overflow) := by decide +kernel

/-- A SLOT_CLK event, which is none of the commands excepted, in READY. -/
theorem witness_CommandsLeaveTheRestAlone :
    (∃ t, exec .slotClk imaging = .next t) ∧ imaging.part = .ready ∧ Instr.slotClk ≠ .hardwareReset ∧
    Instr.slotClk ≠ .headSetup ∧ Instr.slotClk ≠ .restart ∧ Instr.slotClk ≠ .configure ∧ Instr.slotClk ≠ .drumIndex ∧
    ({ imaging with psc := { imaging.psc with refreshMerged := true } } : State).psc.refreshMerged = true :=
  ⟨⟨_, rfl⟩, rfl, by decide, by decide, by decide, by decide, by decide, rfl⟩

/-- A state past reset with a job in IMAGING and a defect recorded meets what every step keeps, and takes a step. -/
def midnight : State := { imaging with
  pending := [.slotClk]
  dram := [(0, 1), (2097152, 7)]
  hmon := { imaging.hmon with test := none }
  drec := { open108 with list := [.handed .blankBand 192 255 (some (100, 3499)) none (some 1) (some 2) none], verdict := .marked }
  psch := { imaging.psch with history := [⟨{ queued with
    id := 500, state := .cancelled, result := some .cancelled }, []⟩] } }

/-- `receiving` with a command waiting. -/
def dusk : State := { receiving with pending := [.status] }

theorem dusk_others (g : Nat) (h : g ≠ 5) : entry dusk g = Entry.empty := receiving_others g h

/-- The band records of `dusk`. -/
theorem dusk_band {h b : Nat} {r : BandRecord} (hb : bandOf dusk h b = some r) : h = 5 ∧ r.isOpen = true ∧
    ((b = 0 ∧ r = ⟨40000, 47039, 100, .arriving, none, some 140⟩) ∨ (b = 1 ∧ r = ⟨20, 0, 0, .expected, none, none⟩)) := by
  by_cases h5 : h = 5
  · subst h5
    have : (entry dusk 5).bands = [⟨40000, 47039, 100, .arriving, none, some 140⟩, ⟨20, 0, 0, .expected, none, none⟩] := by
      decide +kernel
    rw [bandOf, this] at hb
    match b with
    | 0 => simp at hb; subst hb; exact ⟨rfl, rfl, .inl ⟨rfl, rfl⟩⟩
    | 1 => simp at hb; subst hb; exact ⟨rfl, rfl, .inr ⟨rfl, rfl⟩⟩
    | _ + 2 => simp at hb
  · rw [bandOf, dusk_others h h5] at hb
    simp [Entry.empty] at hb

theorem witness_StepKeepsTheDirectorySound : directorySound dusk ∧ ∃ t, step dusk = .next t := by
  have h5 : (entry dusk 5).state = .receiving := by decide +kernel
  have hne : ∀ g, (entry dusk g).state ≠ .empty → g = 5 := fun g h => by
    by_contra hg
    exact h (congrArg Entry.state (dusk_others g hg))
  refine ⟨⟨fun h => ?_, fun g h hg hh _ => ?_, fun g h hg hh _ => ?_, ⟨fun i c hc => ?_, fun h hh => ?_, fun h hh hc => ?_⟩,
    fun k hk => ?_⟩, ⟨_, rfl⟩⟩
  · by_cases hh : h = 5
    · subst hh; unfold entrySound; rw [h5]; decide +kernel
    · rw [dusk_others h hh]; exact rfl
  · rw [hne g (by intro h0; simp [Entry.closed, h0] at hg), hne h (by intro h0; simp [Entry.closed, h0] at hh)]
  · rw [hne g (by rw [hg]; decide), hne h (by rw [hh]; decide)]
  · obtain rfl := receiving_contexts i c hc
    have h0 : dusk.prx.contexts[0]? = some (some ⟨5, .reception, true,
      [⟨0, 5, some 140, .lineArt 3 2 true none⟩, ⟨1, 0, none, Scan.start⟩]⟩) := rfl
    rw [h0] at hc
    obtain rfl := Option.some.inj (Option.some.inj hc)
    refine ⟨by decide +kernel, .inl ⟨h5, rfl⟩, fun b r hb => ?_⟩
    obtain ⟨_, hr, ⟨rfl, _⟩ | ⟨rfl, _⟩⟩ := dusk_band hb <;> exact ⟨fun _ => hr, fun _ => rfl⟩
  · rw [hne h (by rw [hh]; decide)]; decide +kernel
  · rw [hne h (by rw [hh]; decide), h5] at hh; cases hh
  · exact absurd (show (none : Option Chunk) = some k from hk) (by simp)

/-- `dusk` with the pool of a 64 MiB store, of which no block is lent: its entry's bands wait for their first. -/
def stocked : State := { State.reset with
  pending := [.status]
  part := .ready
  psc := Psc.reset.buildPool 64 }

theorem witness_StepKeepsTheStoreAndItsPool : (storeCanonical midnight ∧ ∃ t, step midnight = .next t) ∧
    (directorySound stocked ∧ poolSound stocked ∧ ∃ t, step stocked = .next t) := by
  have he : ∀ h, entry stocked h = Entry.empty := fun h => by
    simp only [entry, stocked, State.reset, Pdir.reset, List.getD_eq_getElem?_getD, List.getElem?_replicate]
    split <;> rfl
  have hb : ∀ h b, bandOf stocked h b = none := fun h b => by rw [bandOf, he h]; simp [Entry.empty]
  have hc : ∀ (i : Nat) (c : Context), stocked.prx.contexts[i]? ≠ some (some c) := fun i c h => by
    cases List.eq_of_mem_replicate (n := 8) (List.mem_of_getElem? h)
  refine ⟨⟨⟨by decide +kernel, by decide +kernel⟩, ⟨_, rfl⟩⟩, ⟨fun h => ?_, fun g h hg _ _ => ?_, fun g h hg _ _ => ?_,
      ⟨fun i c h => absurd h (hc i c), fun h hh => ?_, fun h hh _ => ?_⟩, fun k hk => absurd (show (none : Option Chunk) = some k from hk) (by simp)⟩,
    ⟨fun h => absurd h (by decide), ⟨by decide, by decide, rfl⟩, fun h b r hr => ?_,
      ⟨List.range' 128 3968, fun _ _ => [], buildPool_poolIs Psc.reset 64 3968 (by decide) rfl, fun h b r hr => ?_, ?_⟩⟩,
    ⟨_, rfl⟩⟩
  · rw [he h]; exact rfl
  · rw [he g] at hg; cases hg
  · rw [he g] at hg; cases hg
  · rw [he h] at hh; cases hh
  · rw [he h] at hh; cases hh
  · rw [hb h b] at hr; cases hr
  · rw [hb h b] at hr; cases hr
  · have : allChains stocked (fun _ _ => []) = [] := by simp [allChains]
    rw [this, List.append_nil]
    exact .refl _

/-- A job in IMAGING whose first sweep is exposed while RU fills the next two ring slots. -/
def exposingAndFilling : State := { midnight with
  imp := { midnight.imp with
    rev := { Revolution.idle with decision := .expose, live := true }
    ring := ((midnight.imp.ring.set 0 .exposing).set 2 .filling).set 3 .filling }
  ru := { Ru.reset with phase := .building, claimed := some (2, 3) } }

theorem witness_StepKeepsTheRingSound : scheduleSound exposingAndFilling ∧ ringSound exposingAndFilling ∧
    ∃ t, step exposingAndFilling = .next t := by
  have hr : ∀ k, ringState exposingAndFilling k =
      ([.exposing, .free, .filling, .filling, .free, .free, .free, .free] : List RingState).getD k .free := fun k => by
    have : exposingAndFilling.imp.ring = [.exposing, .free, .filling, .filling, .free, .free, .free, .free] := by decide
    rw [ringState, this]
  refine ⟨⟨by decide, by decide, ?_, ?_, by decide, ?_⟩,
    ⟨by decide, by decide, fun k hk => ⟨2, 3, rfl, ?_⟩, fun _ => rfl, fun k hk => ⟨rfl, rfl, ?_⟩,
      fun _ => ⟨plateJob, by decide⟩, fun _ _ => by decide, fun h => absurd h (by decide), rfl⟩, ⟨_, rfl⟩⟩
  · simp [exposingAndFilling, midnight, imaging, queueStateSound, plateJob]
  · simp [exposingAndFilling, midnight, imaging, plateJob]
  · simp [exposingAndFilling, midnight, historySound, queued, plateJob]
  · rw [hr k] at hk
    match k, hk with
    | 2, _ => exact .inl rfl
    | 3, _ => exact .inr rfl
    | 0, h | 1, h | 4, h | 5, h | 6, h | 7, h => simp at h
    | _ + 8, h => simp at h
  · rw [hr k] at hk
    match k, hk with
    | 0, _ => rfl
    | 1, h | 2, h | 3, h | 4, h | 5, h | 6, h | 7, h => simp at h
    | _ + 8, h => simp at h

theorem witness_StepKeepsTheLinkSound : linkSound midnight ∧ ∃ t, step midnight = .next t :=
  ⟨⟨trivial, by decide, by decide, by decide, by decide, rfl, rfl⟩, ⟨_, rfl⟩⟩

theorem witness_StepKeepsAtMostOneJobArmed : scheduleSound midnight ∧ ∃ t, step midnight = .next t := by
  refine ⟨⟨by decide, by decide, ?_, ?_, by decide, ?_⟩, ⟨_, rfl⟩⟩
  · simp [midnight, imaging, queueStateSound, plateJob]
  · simp [midnight, imaging, plateJob]
  · simp [midnight, historySound, queued, plateJob]

theorem witness_StepKeepsTheRecorderSound : recorderSound midnight.drec ∧ ∃ t, step midnight = .next t := by
  refine ⟨⟨by decide, ?_, by decide, by decide, by decide⟩, ⟨_, rfl⟩⟩
  intro i d h
  have hi : i = 0 := by
    have := (List.getElem?_eq_some_iff.1 h).1
    simpa [midnight] using this
  subst hi
  simp only [midnight, List.getElem?_cons_zero, Option.some.injEq] at h
  subst h
  decide

theorem witness_StepKeepsTheSettingsInRange : settingsSound midnight ∧ ∃ t, step midnight = .next t := by
  refine ⟨⟨by decide, by decide, by decide, by decide, by decide, ?_, ?_, by unfold headSettingsSound; decide, by decide, ?_⟩,
    ⟨_, rfl⟩⟩
  · intro x hx
    have : x = ScreenSet.empty 0 := List.eq_of_mem_replicate (n := 8) hx
    subst this
    refine ⟨rfl, rfl, by decide, by decide, by decide⟩
  · intro c hc
    have : c = Channel.reset := List.eq_of_mem_replicate (n := 32) hc
    subst this
    exact ⟨by decide, by decide⟩
  · exact ⟨⟨64, rfl, by decide⟩, ⟨20, rfl, by decide, by decide⟩, ⟨30, rfl, by decide, by decide⟩,
      ⟨10, rfl, by decide, by decide⟩, by decide, by decide⟩

end Sys2Proof.Tests
end

/-! The command link (chapter 1): frames received and sent, and the commands that LP answers itself. -/

namespace Sys2Proof.Machine

/-! ## The framer, the frame timer and the watchdog (R3 to R8, R17, R18) -/

theorem exec_byteReceived {s : State} (b : Byte) (hr : s.resetHeld = false) :
    exec (.byteReceived b) s = .next (receiveByte b s) := by
  show execByteReceived b s = _
  simp [execByteReceived, hr]

theorem exec_frameReceived {s : State} {bs : List Byte} (b : Byte) (hr : s.resetHeld = false)
    (hf : s.lp.framer = .frame bs) (h3 : 3 ≤ bs.length) (hl : bs.length + 1 = 7 + frameLength bs) :
    exec (.frameReceived b) s = .next (receiveByte b s) := by
  show execFrameReceived b s = _
  simp [execFrameReceived, lastByteDue, hr, hf, h3, hl]

theorem receiveByte_hunting {s : State} (b : Byte) (hf : s.lp.framer = .hunting) :
    receiveByte b s = if b = 0xA7#8 then { s with lp := { s.lp with framer := .frame [b] } } else s := by
  simp [receiveByte, hf]

/-- A LENGTH over 4096 discards the frame (R4). -/
theorem receiveByte_length_over {s : State} {bs : List Byte} {b : Byte} (hf : s.lp.framer = .frame bs)
    (h2 : bs.length = 2) (hl : 4096 < frameLength (bs ++ [b])) : receiveByte b s = discardFrame s := by
  simp [receiveByte, hf, h2, hl]

theorem acceptFrame_eq (f : Frame) (s : State) : acceptFrame f s =
    if s.lp.unattended then scheduleTest { s with lp := s.lp.validFrame f } else { s with lp := s.lp.validFrame f } :=
  rfl

theorem discardFrame_eq (s : State) : discardFrame s = { s with lp := { s.lp with
    framer := .hunting
    linkErrors := if s.lp.linkErrors < 65535 then s.lp.linkErrors + 1 else s.lp.linkErrors } } :=
  rfl

theorem frameSound_iff (bs : List Byte) : frameSound bs = true ↔
    crc16 ((bs.drop 1).take (4 + frameLength bs)) = BitVec.ofNat 16 (halfAt bs (5 + frameLength bs)) :=
  beq_iff_eq

/-- Settles O3: the framer's cases are the branches of `receiveByte`, and a frame's last byte is judged by
`receiveByte_last`. -/
theorem framesAreBuiltAndJudged : Obligations.FramesAreBuiltAndJudged := by
  refine ⟨fun s b hr => ⟨fun hf hb => ?_, fun hf hb => ?_, fun bs hf h2 hl => ?_, fun bs hf h => ?_⟩,
    fun s b bs hr hf h3 hl => ?_, ⟨fun s bs hr hf => ?_, fun s hf => ?_⟩, fun s hr hw => ?_, fun s hw => ?_⟩
  · rw [exec_byteReceived b hr, receiveByte_hunting b hf, if_neg hb]
  · rw [exec_byteReceived b hr, receiveByte_hunting b hf, if_pos hb, hb]
  · rw [exec_byteReceived b hr, receiveByte_length_over hf h2 hl, discardFrame_eq]
  · rw [exec_byteReceived b hr, receiveByte_keeps_on hf h]
  · rw [exec_frameReceived b hr hf h3 hl, receiveByte_last hf h3 hl]
    refine ⟨fun hbad => ?_, fun hgood hu => ?_, fun hgood hu => ?_⟩
    · rw [if_neg (mt (frameSound_iff _).1 hbad), discardFrame_eq]
    · rw [if_pos ((frameSound_iff _).2 hgood), acceptFrame_eq, hu, validFrame_eq]
      rfl
    · rw [if_pos ((frameSound_iff _).2 hgood), acceptFrame_eq, hu, validFrame_eq]
      rfl
  · show execFrameTimerExpiry s = _
    simp [execFrameTimerExpiry, hf, hr, discardFrame_eq]
  · show execFrameTimerExpiry s = _
    simp [execFrameTimerExpiry, hf]
  · show execWatchdogExpiry s = _
    simp [execWatchdogExpiry, hr, hw]
  · show execWatchdogExpiry s = _
    simp [execWatchdogExpiry, hw]

/-! ## A message received byte by byte (R1) -/

theorem byteAt_append_right (p q : List Byte) (i : Nat) : byteAt (p ++ q) (p.length + i) = byteAt q i := by
  simp [byteAt, List.getD_eq_getElem?_getD, List.getElem?_append_right]

theorem halfAt_append_right (p q : List Byte) (i : Nat) : halfAt (p ++ q) (p.length + i) = halfAt q i := by
  simp only [halfAt, Nat.add_assoc, byteAt_append_right]

/-- The two bytes of a field read back as its value. -/
theorem halfAt_u16 {n : Nat} (hn : n < 65536) : halfAt (u16 n) 0 = n := by
  simp [halfAt, byteAt, u16]
  omega

/-- SYNC, LENGTH, KIND, TAG and payload: the bytes of a frame before its CRC. -/
def frameHead (k t : Byte) (p : List Byte) : List Byte := (0xA7 : Byte) :: (u16 p.length ++ [k, t] ++ p)

theorem frameHead_length (k t : Byte) (p : List Byte) : (frameHead k t p).length = 5 + p.length := by
  simp [frameHead, u16]
  omega

theorem frameBytes_eq (k t : Byte) (p : List Byte) :
    frameBytes k t p = frameHead k t p ++ u16 (crc16 ((frameHead k t p).drop 1)).toNat := by
  simp [frameBytes, frameHead]

theorem frameLength_whole {k t : Byte} {p : List Byte} (hp : p.length ≤ 4096) :
    frameLength (frameBytes k t p) = p.length := by
  rw [← frameLength_frameBytes k t p hp _ (show 3 ≤ (frameBytes k t p).length by rw [frameBytes_length]; omega),
    List.take_length]

/-- A message's own CRC judges its frame valid (R1, R6). -/
theorem frameSound_frameBytes {k t : Byte} {p : List Byte} (hp : p.length ≤ 4096) :
    frameSound (frameBytes k t p) = true := by
  have hhead : ((frameBytes k t p).drop 1).take (4 + p.length) = (frameHead k t p).drop 1 := by
    rw [frameBytes_eq, List.drop_append_of_le_length (by rw [frameHead_length]; omega),
      List.take_append_of_le_length (by simp [frameHead_length]),
      List.take_of_length_le (by simp [frameHead_length])]
  have hcrc : halfAt (frameBytes k t p) (5 + p.length) = (crc16 ((frameHead k t p).drop 1)).toNat := by
    rw [frameBytes_eq, ← frameHead_length k t p]
    exact (halfAt_append_right _ _ 0).trans (halfAt_u16 (BitVec.isLt _))
  rw [frameSound_iff, frameLength_whole hp, hhead, hcrc, BitVec.ofNat_toNat, BitVec.setWidth_eq]

/-- The fields of a message's frame are the message's own (R1). -/
theorem frameOf_frameBytes {k t : Byte} {p : List Byte} (hp : p.length ≤ 4096) :
    frameOf (frameBytes k t p) = ⟨k, t, p⟩ := by
  rw [frameOf, frameLength_whole hp]
  simp [frameBytes, u16]

/-- A valid frame's effect does not depend on the bytes the framer has kept: it hunts again (R6). -/
theorem acceptFrame_framer (f : Frame) (s : State) (x : Framer) :
    acceptFrame f { s with lp := { s.lp with framer := x } } = acceptFrame f s := by
  simp only [acceptFrame_eq, validFrame_eq]

/-- The state with the bytes `l` to arrive. -/
def expecting (s : State) (l : List Byte) : State := { s with pending := l.map Instr.byteReceived }

/-- The state with a framer that has kept `bs`, and with the bytes `l` to arrive. -/
def midFrame (s : State) (bs l : List Byte) : State :=
  expecting { s with lp := { s.lp with framer := .frame bs } } l

theorem step_expecting {s : State} (hr : s.resetHeld = false) (b : Byte) (l : List Byte) :
    step (expecting s (b :: l)) = .next (receiveByte b (expecting s l)) :=
  exec_byteReceived (s := expecting s l) b hr

theorem step_midFrame {s : State} (hr : s.resetHeld = false) (bs : List Byte) (b : Byte) (l : List Byte) :
    step (midFrame s bs (b :: l)) = .next (receiveByte b (midFrame s bs l)) :=
  step_expecting (s := { s with lp := { s.lp with framer := .frame bs } }) hr b l

/-- SYNC starts a frame (R3). -/
theorem step_expecting_sync {s : State} (hr : s.resetHeld = false) (hf : s.lp.framer = .hunting) (l : List Byte) :
    step (expecting s (0xA7#8 :: l)) = .next (midFrame s [0xA7#8] l) := by
  rw [step_expecting hr, receiveByte_hunting (s := expecting s l) _ hf, if_pos rfl]
  rfl

/-- Once a LENGTH is complete, the bytes kept of a message's frame give the message's length (R1). -/
theorem frameLength_kept {k t : Byte} {p bs l : List Byte} (hp : p.length ≤ 4096) (hw : bs ++ l = frameBytes k t p)
    (h3 : 3 ≤ bs.length) : frameLength bs = p.length := by
  rw [← frameLength_append (q := l) h3, hw, frameLength_whole hp]

/-- A byte before the last of a message's frame is kept (R3, R4). -/
theorem receiveByte_midFrame {k t b c : Byte} {p bs l : List Byte} (s : State) (hp : p.length ≤ 4096)
    (hw : (bs ++ [b]) ++ (c :: l) = frameBytes k t p) :
    receiveByte b (midFrame s bs (c :: l)) = midFrame s (bs ++ [b]) (c :: l) := by
  have hlen : bs.length + 2 + l.length = 7 + p.length := by
    rw [← frameBytes_length k t p, ← hw]
    simp only [List.length_append, List.length_cons, List.length_nil]
    omega
  refine receiveByte_keeps_on (bs := bs) rfl ?_
  rcases Nat.lt_trichotomy bs.length 2 with h | h | h
  · exact .inl h
  · exact .inr (.inl ⟨h, (frameLength_kept hp hw (by simp [h])).trans_le hp⟩)
  · refine .inr (.inr ⟨h, ?_⟩)
    rw [frameLength_kept (l := b :: c :: l) hp (by simpa using hw) h]
    omega

/-- The last byte of a message's frame makes it a valid frame (R6). -/
theorem receiveByte_last_of_message {s : State} {k t b : Byte} {p bs : List Byte} (hq : s.pending = [])
    (hp : p.length ≤ 4096) (hw : bs ++ [b] = frameBytes k t p) :
    receiveByte b (midFrame s bs []) = acceptFrame ⟨k, t, p⟩ s := by
  have hlen : bs.length + 1 = 7 + p.length := by
    rw [← frameBytes_length k t p, ← hw, List.length_append, List.length_singleton]
  have h3 : 3 ≤ bs.length := by omega
  have hstate : midFrame s bs [] = { s with lp := { s.lp with framer := .frame bs } } := by
    simp [midFrame, expecting, hq]
  rw [receiveByte_last (bs := bs) rfl h3 (by rw [frameLength_kept hp hw h3]; exact hlen), hw,
    if_pos (frameSound_frameBytes hp), frameOf_frameBytes hp, hstate]
  exact acceptFrame_framer ⟨k, t, p⟩ s (.frame bs)

/-- The framer that has kept the first bytes of a message's frame takes the rest of it, at least one byte. -/
theorem steps_midFrame {s : State} {k t : Byte} {p : List Byte} (hr : s.resetHeld = false) (hq : s.pending = [])
    (hp : p.length ≤ 4096) : ∀ {l bs : List Byte}, bs ++ l = frameBytes k t p → l ≠ [] →
      steps l.length (midFrame s bs l) = .next (acceptFrame ⟨k, t, p⟩ s)
  | [], _, _, h => absurd rfl h
  | [b], bs, hw, _ => by
    rw [List.length_singleton, steps, step_midFrame hr, receiveByte_last_of_message hq hp hw]
    rfl
  | b :: c :: l, bs, hw, _ => by
    have hw' : (bs ++ [b]) ++ (c :: l) = frameBytes k t p := by simpa using hw
    rw [List.length_cons, steps, step_midFrame hr, receiveByte_midFrame s hp hw']
    exact steps_midFrame hr hq hp hw' (List.cons_ne_nil c l)

/-- Settles O4: SYNC starts the frame, and `steps_midFrame` takes the rest of it by induction on the bytes to come. -/
theorem frameBytesAreReceivedAsTheirMessage : Obligations.FrameBytesAreReceivedAsTheirMessage := by
  intro s k t p hr hf hq hp
  obtain ⟨l, hl⟩ : ∃ l, frameBytes k t p = 0xA7#8 :: l := ⟨_, rfl⟩
  have hne : l ≠ [] := by
    rintro rfl
    have := frameBytes_length k t p
    rw [hl] at this
    simp at this
    omega
  rw [hl]
  show steps (l.length + 1) (expecting s (0xA7#8 :: l)) = _
  rw [steps, step_expecting_sync hr hf]
  exact steps_midFrame hr hq hp (by rw [hl]; rfl) hne

/-! ## Frames out (R14, R15) -/

theorem exec_beginTransmission_reply {s : State} {r : Reply} {rest : List Reply} (hr : s.resetHeld = false)
    (ht : s.lp.tx = none) (hf : s.lp.replyFinished = r :: rest) :
    exec .beginTransmission s = .next { s with lp := { s.lp with replyFinished := rest, tx := some r.frame } } := by
  show execBeginTransmission s = _
  simp [execBeginTransmission, hr, ht, hf]

theorem exec_beginTransmission_report {s : State} {r : Report} {rest : List Report} (hr : s.resetHeld = false)
    (ht : s.lp.tx = none) (hf : s.lp.replyFinished = []) (hq : s.lp.reports = r :: rest) :
    exec .beginTransmission s = .next { s with lp := { s.lp with reports := rest, tx := some r.frame } } := by
  show execBeginTransmission s = _
  simp [execBeginTransmission, hr, ht, hf, hq]

theorem exec_beginTransmission_empty {s : State} (hf : s.lp.replyFinished = []) (hq : s.lp.reports = []) :
    exec .beginTransmission s = .next s := by
  show execBeginTransmission s = _
  simp [execBeginTransmission, hf, hq]

/-- A frame being sent is not interrupted (R15). -/
theorem exec_beginTransmission_busy {s : State} {bytes : List Byte} (ht : s.lp.tx = some bytes) :
    exec .beginTransmission s = .next s := by
  show execBeginTransmission s = _
  simp [execBeginTransmission, ht]

theorem exec_frameSent {s : State} (hr : s.resetHeld = false) :
    exec .frameSent s = .next { s with lp := { s.lp with tx := none } } := by
  show execFrameSent s = _
  simp [execFrameSent, hr]

theorem queueReport_of_lt {l : Lp} {r : Report} (h : l.reports.length < 16) :
    l.queueReport r = { l with reports := l.reports ++ [r] } := if_pos h

/-- A report is lost when 16 wait (R14). -/
theorem queueReport_of_le {l : Lp} {r : Report} (h : 16 ≤ l.reports.length) :
    l.queueReport r = { l with reportsLost := true } := if_neg (Nat.not_lt.2 h)

theorem attn_iff (s : State) : attn s = true ↔ s.lp.reports ≠ [] := by
  simp [attn]

/-! ## The payloads of reports (R12) -/

theorem codeOr0_eq {α : Type} (code : α → Nat) (o : Option α) : codeOr0 code o = (o.map code).getD 0 := by
  cases o <;> rfl

/-- R64: the further fields of a PAGE.NOTE, those of another event being 0. -/
theorem PageEvent.bytes_eq (e : PageEvent) : e.bytes = match e with
    | .superseded h v r => u8 h ++ u16 v ++ u8 r ++ [0, 0, 0, 0, 0]
    | .released c n => [0, 0, 0, 0] ++ u8 c.code ++ u16 n ++ [0, 0]
    | .storeDamaged n => [0, 0, 0, 0, 0, 0, 0] ++ u16 n
    | _ => [0, 0, 0, 0, 0, 0, 0, 0, 0] := by
  cases e <;> rfl

theorem pageNote_payload (n : PageNote) : (Report.page n).payload =
    u8 n.event.code ++ u8 n.handle ++ u8 n.key.edition ++ u8 n.key.section_ ++ u8 n.key.page ++ u8 n.key.separation ++
      u16 n.version ++ u8 n.state.code ++ u16 n.damaged ++ flagByte n.timeout ++ u8 n.listed.length ++
      n.listed.flatMap u16 ++ n.event.bytes := by
  simp [Report.payload, PageNote.payload, PageKey.bytes, listBytes]

theorem startedNote_payload (id set generation : Nat) (bound : List (Nat × Nat)) :
    (Report.plate (.started id set generation bound)).payload =
      u8 1 ++ u16 id ++ u8 set ++ u16 generation ++ u8 bound.length ++ bound.flatMap (fun b => u8 b.1 ++ u16 b.2) ++
        ([0, 0, 0, 0, 0] : List Byte) := by
  simp [Report.payload, PlateNote.payload, startedBytes, listBytes]

theorem endedNote_payload (id defects : Nat) (st : JobState) (r : Option JobResult) (f : Option FitFault)
    (v : Option Verdict) : (Report.plate (.ended id st r f v defects)).payload =
      u8 2 ++ u16 id ++ [0, 0, 0, 0] ++ u8 st.code ++ u8 ((r.map JobResult.code).getD 0) ++
        u8 ((f.map FitFault.code).getD 0) ++ u8 ((v.map Verdict.code).getD 0) ++ u8 defects := by
  simp only [Report.payload, PlateNote.payload, codeOr0_eq]
  rfl

/-- Settles O5: the transmitter's cases, the report queue's two, and each report's payload. -/
theorem transmitterSendsRepliesBeforeReports : Obligations.TransmitterSendsRepliesBeforeReports := by
  refine ⟨fun s hr => ⟨fun r rest ht hf => exec_beginTransmission_reply hr ht hf,
      fun r rest ht hf hq => exec_beginTransmission_report hr ht hf hq,
      fun _ hf hq => exec_beginTransmission_empty hf hq, fun bytes ht => exec_beginTransmission_busy ht,
      exec_frameSent hr⟩,
    fun l r => ⟨queueReport_of_lt, queueReport_of_le⟩, attn_iff, fun n => ⟨rfl, ?_⟩,
    fun id set generation defects bound st r f v =>
      ⟨rfl, startedNote_payload id set generation bound, endedNote_payload id defects st r f v⟩,
    fun mask k low high suspect reading job line n carriage clock a b c d => ⟨rfl, rfl, ?_, rfl⟩⟩
  · rw [pageNote_payload, PageEvent.bytes_eq]
    cases n.event <;> rfl
  · cases clock <;> rfl

/-! ## Taking a command (R9 to R11) -/

/-- A command waits where the chunk buffer or the tile buffer holds data, no reply place is free, or the part is held in
reset (R9), and none is taken from an empty command queue. -/
theorem nothing_taken {s : State} (h : s.prx.chunk ≠ none ∨ s.sct.tileBuf ≠ none ∨
    8 ≤ s.lp.replyReserved.length + s.lp.replyFinished.length ∨ s.resetHeld = true ∨ s.lp.cmdQueue = []) :
    canTake s = false ∨ s.lp.cmdQueue = [] := by
  rcases h with hchunk | htile | hplaces | hreset | hempty
  · simp [canTake, Option.isNone_iff_eq_none, hchunk]
  · simp [canTake, Option.isNone_iff_eq_none, htile]
  · simp [canTake, Lp.placesUsed, Nat.not_lt.2 hplaces]
  · simp [canTake, hreset]
  · exact .inr hempty

theorem isCommandKind_iff (k : Byte) : isCommandKind k = true ↔
    k.toNat ∈ [0x01, 0x02, 0x03, 0x10, 0x11, 0x12, 0x13, 0x14, 0x20, 0x21, 0x22, 0x23, 0x30, 0x31, 0x32, 0x40,
      0x41, 0x42] := List.contains_iff_mem

/-- Settles O6: a command that LP may take runs by `serve_takes`, and every one of its commands else waits by
`serve_waits`. -/
theorem lpTakesAndAnswersCommands : Obligations.LpTakesAndAnswersCommands := by
  refine ⟨fun s f rest h => ⟨fun ht => ?_, fun ht hk => ?_⟩, fun s c hc h => ?_⟩
  · show execTagZero s = _
    rw [execTagZero, serve_takes h (by simp [ht])]
    simp [answer, taken, replyKind, ht, rBadField]
  · show execUnknownKind s = _
    rw [execUnknownKind, serve_takes h (by simp [ht, mt (isCommandKind_iff f.kind).1 hk])]
    rfl
  · simp only [List.mem_cons, List.not_mem_nil, or_false] at hc
    rcases hc with rfl | rfl | rfl | rfl | rfl | rfl | rfl | rfl | rfl | rfl | rfl | rfl | rfl | rfl | rfl | rfl |
      rfl | rfl | rfl | rfl | rfl <;> exact serve_waits (nothing_taken h)

end Sys2Proof.Machine

/-! The state after a hardware reset meets what every step keeps. -/

namespace Sys2Proof.Machine

theorem entry_reset (h : Nat) : entry State.reset h = Entry.empty := by
  simp only [entry, State.reset, Pdir.reset, List.getD_eq_getElem?_getD, List.getElem?_replicate]
  split <;> rfl

theorem bandOf_reset (h b : Nat) : bandOf State.reset h b = none := by
  rw [bandOf, entry_reset]
  rfl

theorem contexts_reset (i : Nat) (c : Context) : State.reset.prx.contexts[i]? ≠ some (some c) := fun h => by
  cases List.eq_of_mem_replicate (n := 8) (List.mem_of_getElem? h)

theorem ringState_reset (k : Nat) : ringState State.reset k = .free := by
  simp only [ringState, State.reset, Imp.reset, List.getD_eq_getElem?_getD, List.getElem?_replicate]
  split <;> rfl

theorem storeCanonical_reset : storeCanonical State.reset := ⟨rfl, rfl⟩

theorem linkSound_reset : linkSound State.reset :=
  ⟨trivial, by decide, by decide, by decide, by decide, rfl, rfl⟩

theorem scheduleSound_reset : scheduleSound State.reset :=
  ⟨by decide, by decide, by simp [State.reset, Psch.reset], by simp [State.reset, Psch.reset], by decide,
    by simp [State.reset, Psch.reset]⟩

theorem recorderSound_reset : recorderSound State.reset.drec :=
  ⟨by decide, by simp [State.reset, Drec.reset], by decide, by decide, by decide⟩

theorem settingsSound_reset : settingsSound State.reset := by
  refine ⟨rfl, rfl, rfl, rfl, rfl, fun x hx => ?_, fun c hc => ?_, by unfold headSettingsSound; decide, by decide,
    rfl, rfl, rfl, rfl, rfl⟩
  · obtain rfl : x = ScreenSet.empty 0 := List.eq_of_mem_replicate (n := 8) hx
    exact ⟨rfl, rfl, by decide, by decide, by decide⟩
  · obtain rfl : c = Channel.reset := List.eq_of_mem_replicate (n := 32) hc
    exact ⟨by decide, by decide⟩

theorem directorySound_reset : directorySound State.reset := by
  have hstate (h : Nat) : (entry State.reset h).state = .empty := by rw [entry_reset]; rfl
  refine ⟨fun h => ?_, fun g h hg => ?_, fun g h hg => ?_,
      ⟨fun i c hc => absurd hc (contexts_reset i c), fun h hh => ?_, fun h hh => ?_⟩,
    fun k hk => by cases hk⟩
  · rw [entry_reset]; exact rfl
  · simp [Entry.closed, hstate] at hg
  · simp [hstate] at hg
  · simp [hstate] at hh
  · simp [hstate] at hh

/-- Before CONFIGURE the pool has no block (R70). -/
theorem poolSound_reset : poolSound State.reset := by
  have hno {h b : Nat} {r : BandRecord} (hr : bandOf State.reset h b = some r) : False := by simp [bandOf_reset] at hr
  refine ⟨fun _ => rfl, rfl, fun h b r hr => (hno hr).elim, [], fun _ _ => [],
    ⟨rfl, rfl, rfl, .nil, trivial⟩, fun h b r hr => (hno hr).elim, ?_⟩
  simp [allChains, State.reset, Psc.reset]

theorem ringSound_reset : ringSound State.reset :=
  ⟨by decide, by decide, by simp [ringState_reset], by decide, by simp [ringState_reset],
    by simp [State.reset, Imp.reset, Revolution.idle], by decide, by simp [State.reset, Sct.reset], rfl⟩

/-- Settles O60, law by law. -/
theorem resetMeetsWhatEveryStepKeeps : Obligations.ResetMeetsWhatEveryStepKeeps :=
  ⟨storeCanonical_reset, linkSound_reset, scheduleSound_reset, recorderSound_reset, settingsSound_reset,
    directorySound_reset, poolSound_reset, ringSound_reset⟩

end Sys2Proof.Machine

/-! The report queue's capacity, which every operation that queues a report keeps (R14). Of LP's fields only the report
queue can be changed by an operation that is no step of LP's own. -/

namespace Sys2Proof.Machine

/-- A report queue within its 16 places (R14). -/
def reportsFit (l : List Report) : Bool := decide (l.length ≤ 16)

@[simp] theorem report_reportsFit (r : Report) (s : State) :
    reportsFit (report r s).lp.reports = reportsFit s.lp.reports := by
  unfold report Lp.queueReport reportsFit
  split
  · simp only [List.length_append, List.length_singleton, decide_eq_decide]
    omega
  · rfl

@[simp] theorem noteEntry_reportsFit (ev : PageEvent) (h : Nat) (s : State) :
    reportsFit (noteEntry ev h s).lp.reports = reportsFit s.lp.reports := by
  simp [noteEntry]

@[simp] theorem endRepair_reportsFit (h : Nat) (note : Option PageEvent) (s : State) :
    reportsFit (endRepair h note s).lp.reports = reportsFit s.lp.reports := by
  cases note <;> simp [endRepair]

@[simp] theorem releaseEntry_reportsFit (h : Nat) (cause : ReleaseCause) (s : State) :
    reportsFit (releaseEntry h cause s).lp.reports = reportsFit s.lp.reports := by
  simp [releaseEntry]

@[simp] theorem retire_reportsFit (by_ h : Nat) (s : State) :
    reportsFit (retire by_ h s).lp.reports = reportsFit s.lp.reports := by
  unfold retire
  dsimp only
  (repeat' split) <;> simp

@[simp] theorem retireIfOlder_reportsFit (by_ : Nat) (s : State) (h : Nat) :
    reportsFit (retireIfOlder by_ s h).lp.reports = reportsFit s.lp.reports := by
  unfold retireIfOlder
  split <;> simp

@[simp] theorem supersede_reportsFit (by_ : Nat) (s : State) :
    reportsFit (supersede by_ s).lp.reports = reportsFit s.lp.reports :=
  foldl_keeps (fun x : State => reportsFit x.lp.reports) _ (by simp) _ _

@[simp] theorem closeReception_reportsFit (ev : PageEvent) (byOpen : Bool) (h : Nat) (s : State) :
    reportsFit (closeReception ev byOpen h s).lp.reports = reportsFit s.lp.reports := by
  unfold closeReception
  dsimp only
  split <;> simp

@[simp] theorem closeEntry_reportsFit (ev : PageEvent) (h : Nat) (s : State) :
    reportsFit (closeEntry ev h s).lp.reports = reportsFit s.lp.reports := by
  unfold closeEntry
  split <;> simp

@[simp] theorem completeBand_reportsFit (i h b : Nat) (s : State) :
    reportsFit (completeBand i h b s).lp.reports = reportsFit s.lp.reports := by
  unfold completeBand
  dsimp only
  (repeat' split) <;> simp

@[simp] theorem drainChunk_reportsFit (c : Chunk) (s : State) :
    reportsFit (drainChunk c s).lp.reports = reportsFit s.lp.reports := by
  unfold drainChunk
  dsimp only
  (repeat' split) <;> simp

@[simp] theorem prxBurstDone_reportsFit (stale : Bool) (s : State) :
    reportsFit (prxBurstDone stale s).lp.reports = reportsFit s.lp.reports := by
  unfold prxBurstDone
  (repeat' split) <;> simp

@[simp] theorem markStore_reportsFit (h : Nat) (s : State) :
    reportsFit (markStore h s).lp.reports = reportsFit s.lp.reports := by
  unfold markStore
  dsimp only
  split <;> simp

@[simp] theorem damageEntry_reportsFit (s : State) (h : Nat) :
    reportsFit (damageEntry s h).lp.reports = reportsFit s.lp.reports := by
  unfold damageEntry
  (repeat' split) <;> simp

@[simp] theorem damageStore_reportsFit (s : State) :
    reportsFit (damageStore s).lp.reports = reportsFit s.lp.reports :=
  foldl_keeps (fun x : State => reportsFit x.lp.reports) _ (by simp) _ _

@[simp] theorem bindEntry_reportsFit (s : State) (h : Nat) :
    reportsFit (bindEntry s h).lp.reports = reportsFit s.lp.reports := by
  unfold bindEntry
  dsimp only
  split <;> simp

@[simp] theorem unbindEntry_reportsFit (s : State) (h : Nat) :
    reportsFit (unbindEntry s h).lp.reports = reportsFit s.lp.reports := by
  unfold unbindEntry
  dsimp only
  (repeat' split) <;> simp

@[simp] theorem archiveJob_reportsFit (j : Job) (l : List Defect) (s : State) :
    reportsFit (archiveJob j l s).lp.reports = reportsFit s.lp.reports := by
  simp [archiveJob]

@[simp] theorem unbindJob_reportsFit (j : Job) (s : State) :
    reportsFit (unbindJob j s).lp.reports = reportsFit s.lp.reports :=
  foldl_keeps (fun x : State => reportsFit x.lp.reports) _ (by simp) _ _

@[simp] theorem endArmedJob_reportsFit (r : JobResult) (f : Option FitFault) (s : State) :
    reportsFit (endArmedJob r f s).lp.reports = reportsFit s.lp.reports := by
  unfold endArmedJob
  dsimp only
  (repeat' split) <;> simp

@[simp] theorem bindJob_reportsFit (j : Job) (s : State) :
    reportsFit (bindJob j s).lp.reports = reportsFit s.lp.reports := by
  simpa [bindJob] using foldl_keeps (fun x : State => reportsFit x.lp.reports) _ (by simp) _ _

@[simp] theorem startImaging_reportsFit (s : State) :
    reportsFit (startImaging s).lp.reports = reportsFit s.lp.reports := by
  unfold startImaging
  split <;> simp

@[simp] theorem tileCheck_reportsFit (j : Job) (s : State) :
    reportsFit (tileCheck j s).lp.reports = reportsFit s.lp.reports := by
  unfold tileCheck
  dsimp only
  split <;> simp

@[simp] theorem scheduleFrom_reportsFit (n : Nat) (s : State) :
    reportsFit (scheduleFrom n s).lp.reports = reportsFit s.lp.reports := by
  induction n generalizing s with
  | zero => rfl
  | succ n ih =>
    unfold scheduleFrom
    (repeat' split) <;> simp [ih]

@[simp] theorem scheduleTest_reportsFit (s : State) :
    reportsFit (scheduleTest s).lp.reports = reportsFit s.lp.reports := by
  simp [scheduleTest]

@[simp] theorem endArmed_reportsFit (r : JobResult) (f : Option FitFault) (s : State) :
    reportsFit (endArmed r f s).lp.reports = reportsFit s.lp.reports := by
  unfold endArmed
  split <;> simp

@[simp] theorem endImaging_reportsFit (r : JobResult) (s : State) :
    reportsFit (endImaging r s).lp.reports = reportsFit s.lp.reports := by
  unfold endImaging
  split <;> simp

@[simp] theorem judgeFill_reportsFit (f : Fill) (s : State) :
    reportsFit (judgeFill f s).lp.reports = reportsFit s.lp.reports := by
  unfold judgeFill
  dsimp only
  split <;> simp

@[simp] theorem fillDone_reportsFit (stale : Bool) (bs : List Byte) (s : State) :
    reportsFit (fillDone stale bs s).lp.reports = reportsFit s.lp.reports := by
  unfold fillDone
  dsimp only
  (repeat' split) <;> simp

@[simp] theorem testIfEntriesChanged_reportsFit (b s : State) :
    reportsFit (testIfEntriesChanged b s).lp.reports = reportsFit s.lp.reports := by
  unfold testIfEntriesChanged
  split <;> simp

@[simp] theorem closeOlder_reportsFit (older : Option Nat) (s : State) :
    reportsFit (closeOlder older s).lp.reports = reportsFit s.lp.reports := by
  cases older <;> simp [closeOlder]

@[simp] theorem expireReception_reportsFit (c : Context) (s : State) :
    reportsFit (expireReception c s).lp.reports = reportsFit s.lp.reports := by
  simp [expireReception]

@[simp] theorem prxCompletion_reportsFit (stale : Bool) (s : State) :
    reportsFit (prxCompletion stale s).lp.reports = reportsFit s.lp.reports := by
  simp [prxCompletion]

@[simp] theorem mergeRefresh_reportsFit (s : State) :
    reportsFit (mergeRefresh s).lp.reports = reportsFit s.lp.reports := by
  simp [mergeRefresh]

@[simp] theorem checkHead_reportsFit (r : HeadRecord) (s : State) :
    reportsFit (checkHead r s).lp.reports = reportsFit s.lp.reports := by
  unfold checkHead
  split <;> simp

@[simp] theorem takeHeadState_reportsFit (r : HeadRecord) (s : State) :
    reportsFit (takeHeadState r s).lp.reports = reportsFit s.lp.reports := by
  unfold takeHeadState
  dsimp only
  (repeat' split) <;> simp

@[simp] theorem judgeReading_reportsFit (r : HeadRecord) (v : Revolution) (job : Nat) (s : State) (k : Nat) :
    reportsFit (judgeReading r v job s k).lp.reports = reportsFit s.lp.reports := by
  unfold judgeReading
  dsimp only
  (repeat' split) <;> simp

@[simp] theorem judgeRecord_reportsFit (r : HeadRecord) (v : Revolution) (job : Nat) (s : State) :
    reportsFit (judgeRecord r v job s).lp.reports = reportsFit s.lp.reports := by
  have hj : reportsFit ((List.range 32).foldl (judgeReading r v job) s).lp.reports = reportsFit s.lp.reports :=
    foldl_keeps (fun x : State => reportsFit x.lp.reports) _ (by simp) _ _
  unfold judgeRecord
  dsimp only
  (repeat' split) <;> simp [hj]

@[simp] theorem decideEnd_reportsFit (r : JobResult) (s : State) :
    reportsFit (decideEnd r s).lp.reports = reportsFit s.lp.reports := by
  simp [decideEnd]

@[simp] theorem decideDwell_reportsFit (s : State) :
    reportsFit (decideDwell s).lp.reports = reportsFit s.lp.reports := by
  unfold decideDwell
  dsimp only
  (repeat' split) <;> simp

@[simp] theorem decideImaging_reportsFit (j : Job) (s : State) :
    reportsFit (decideImaging j s).lp.reports = reportsFit s.lp.reports := by
  unfold decideImaging
  dsimp only
  (repeat' split) <;> simp

@[simp] theorem decideRevolution_reportsFit (s : State) :
    reportsFit (decideRevolution s).lp.reports = reportsFit s.lp.reports := by
  unfold decideRevolution
  split <;> simp

@[simp] theorem reportClockLoss_reportsFit (clock : ClockName) (s : State) :
    reportsFit (reportClockLoss clock s).lp.reports = reportsFit s.lp.reports := by
  unfold reportClockLoss
  split <;> simp

@[simp] theorem hmonSlot_reportsFit (s : State) :
    reportsFit (hmonSlot s).lp.reports = reportsFit s.lp.reports := by
  unfold hmonSlot markLost
  dsimp only
  (repeat' split) <;> simp

@[simp] theorem slotEvent_reportsFit (s : State) :
    reportsFit (slotEvent s).lp.reports = reportsFit s.lp.reports := by
  simp [slotEvent]

@[simp] theorem cancelJob_reportsFit (j : Job) (s : State) :
    reportsFit (cancelJob j s).lp.reports = reportsFit s.lp.reports := by
  unfold cancelJob
  split <;> simp [cancelQueued]

end Sys2Proof.Machine

/-! Every step keeps the link port within its queues. -/

namespace Sys2Proof.Machine

/-! ## What the link's soundness depends on -/

/-- The part of the state that `linkSound` reads: LP's queues as far as their bounds need them, and the TAG of the
pending test. -/
structure LinkView where
  framer : Framer
  commands : Nat
  reserved : List Byte
  replies : Nat
  fits : Bool
  errors : Nat
  unattended : Bool
  linkLost : Bool
  test : Option Byte

/-- The link as it stands in a state. -/
def linkView (s : State) : LinkView where
  framer := s.lp.framer
  commands := s.lp.cmdQueue.length
  reserved := s.lp.replyReserved
  replies := s.lp.replyFinished.length
  fits := reportsFit s.lp.reports
  errors := s.lp.linkErrors
  unattended := s.lp.unattended
  linkLost := s.lp.linkLost
  test := s.hmon.test.map Prod.fst

/-- `linkSound`, said of the view. -/
structure LinkView.Sound (v : LinkView) : Prop where
  framer : framerSound v.framer
  commands : v.commands ≤ 8
  places : v.reserved.length + v.replies ≤ 8
  fits : v.fits = true
  errors : v.errors ≤ 65535
  reserved : v.reserved = v.test.toList
  lost : v.linkLost = v.unattended

theorem linkSound_iff (s : State) : linkSound s ↔ (linkView s).Sound := by
  have htest : (s.hmon.test.map Prod.fst).toList = s.hmon.test.toList.map Prod.fst := by
    cases s.hmon.test <;> rfl
  constructor
  · rintro ⟨framer, commands, places, reports, errors, reserved, lost⟩
    exact ⟨framer, commands, places, decide_eq_true reports, errors, reserved.trans htest.symm, lost⟩
  · rintro ⟨framer, commands, places, fits, errors, reserved, lost⟩
    exact ⟨framer, commands, places, of_decide_eq_true fits, errors, reserved.trans htest, lost⟩

/-- A step that leaves the view alone keeps the link sound. -/
theorem linkSound_of_linkView_eq {s t : State} (hv : linkView t = linkView s) (h : linkSound s) : linkSound t := by
  rw [linkSound_iff, hv, ← linkSound_iff]
  exact h

/-! ## LP's own steps -/

/-- A discard is counted up to 65535 link errors and no further (R7). -/
theorem discardFrame_keeps_linkSound {s : State} (h : linkSound s) : linkSound (discardFrame s) := by
  obtain ⟨-, commands, places, reports, errors, reserved, lost⟩ := h
  refine ⟨trivial, commands, places, reports, ?_, reserved, lost⟩
  show countLinkError s.lp.linkErrors ≤ 65535
  unfold countLinkError
  split <;> omega

theorem linkView_scheduleTest (s : State) : linkView (scheduleTest s) = linkView s := by
  simp [linkView]

theorem acceptFrame_keeps_linkSound {f : Frame} {s : State} (h : linkSound s) : linkSound (acceptFrame f s) := by
  have hv : linkSound { s with lp := s.lp.validFrame f } := by
    obtain ⟨-, commands, places, reports, errors, reserved, -⟩ := h
    rw [validFrame_eq]
    refine ⟨trivial, ?_, places, reports, errors, reserved, rfl⟩
    dsimp only
    split
    · rw [List.length_append]
      exact Nat.succ_le_of_lt ‹_›
    · exact commands
  rw [acceptFrame_eq]
  split
  · exact linkSound_of_linkView_eq (linkView_scheduleTest _) hv
  · exact hv

/-- A byte that joins the bytes kept leaves the beginning of a frame that can still be valid (R3, R4). -/
theorem framerSound_snoc {bs : List Byte} {b : Byte} (h : framerSound (.frame bs))
    (hlength : ¬ ((bs ++ [b]).length = 3 ∧ 4096 < frameLength (bs ++ [b])))
    (hlast : ¬ (3 ≤ (bs ++ [b]).length ∧ (bs ++ [b]).length = 7 + frameLength (bs ++ [b]))) :
    framerSound (.frame (bs ++ [b])) := by
  obtain ⟨hsync, hbound⟩ := h
  refine ⟨by simp [List.head?_append, hsync], ?_⟩
  by_cases h3 : 3 ≤ bs.length
  · rw [frameLength_append h3] at hlast ⊢
    simp only [List.length_append, List.length_singleton] at hlast ⊢
    omega
  · simp only [List.length_append, List.length_singleton] at hlength hlast ⊢
    omega

theorem receiveByte_keeps_linkSound {b : Byte} {s : State} (h : linkSound s) : linkSound (receiveByte b s) := by
  have ⟨framer, commands, places, reports, errors, reserved, lost⟩ := h
  unfold receiveByte
  dsimp only
  split
  · split
    · rename_i hsync
      exact ⟨⟨congrArg some hsync, .inl (by simp)⟩, commands, places, reports, errors, reserved, lost⟩
    · exact h
  · rename_i bs hframe
    split
    · exact discardFrame_keeps_linkSound h
    · split
      · split
        · exact acceptFrame_keeps_linkSound h
        · exact discardFrame_keeps_linkSound h
      · rename_i hlength hlast
        exact ⟨framerSound_snoc (hframe ▸ framer) hlength hlast, commands, places, reports, errors, reserved,
          lost⟩

theorem execHardwareReset_keeps_linkSound {s t : State} (he : execHardwareReset s = .next t) : linkSound t := by
  obtain rfl := Host.Outcome.next.inj he
  exact linkSound_of_linkView_eq (s := State.reset) rfl linkSound_reset

theorem execFrameTimerExpiry_keeps_linkSound {s t : State} (h : linkSound s) (he : execFrameTimerExpiry s = .next t) :
    linkSound t := by
  unfold execFrameTimerExpiry at he
  (repeat' split at he) <;> obtain rfl := Host.Outcome.next.inj he
  · exact h
  · exact h
  · exact discardFrame_keeps_linkSound h

theorem execByteReceived_keeps_linkSound {b : Byte} {s t : State} (h : linkSound s)
    (he : execByteReceived b s = .next t) : linkSound t := by
  unfold execByteReceived at he
  split at he <;> obtain rfl := Host.Outcome.next.inj he
  · exact h
  · exact receiveByte_keeps_linkSound h

theorem execFrameReceived_keeps_linkSound {b : Byte} {s t : State} (h : linkSound s)
    (he : execFrameReceived b s = .next t) : linkSound t := by
  unfold execFrameReceived at he
  split at he <;> obtain rfl := Host.Outcome.next.inj he
  · exact h
  · exact receiveByte_keeps_linkSound h

theorem execWatchdogExpiry_keeps_linkSound {s t : State} (h : linkSound s) (he : execWatchdogExpiry s = .next t) :
    linkSound t := by
  unfold execWatchdogExpiry at he
  split at he <;> obtain rfl := Host.Outcome.next.inj he
  · exact h
  · obtain ⟨framer, commands, places, reports, errors, reserved, -⟩ := h
    exact ⟨framer, commands, places, reports, errors, reserved, rfl⟩

theorem execFrameSent_keeps_linkSound {s t : State} (h : linkSound s) (he : execFrameSent s = .next t) :
    linkSound t := by
  unfold execFrameSent at he
  split at he <;> obtain rfl := Host.Outcome.next.inj he <;> exact h

/-- A frame that begins leaves its queue one shorter (R15). -/
theorem execBeginTransmission_keeps_linkSound {s t : State} (h : linkSound s)
    (he : execBeginTransmission s = .next t) : linkSound t := by
  have ⟨framer, commands, places, reports, errors, reserved, lost⟩ := h
  unfold execBeginTransmission at he
  (repeat' split at he) <;> obtain rfl := Host.Outcome.next.inj he
  · exact h
  · rename_i hq
    refine ⟨framer, commands, ?_, reports, errors, reserved, lost⟩
    simp only [Lp.placesUsed, hq, List.length_cons] at places ⊢
    omega
  · rename_i hq
    refine ⟨framer, commands, places, ?_, errors, reserved, lost⟩
    simp only [hq, List.length_cons] at reports ⊢
    omega
  · exact h

/-! ## Commands (R9, R13) -/

/-- The view after one more reply is finished (R13). -/
def LinkView.answered (v : LinkView) : LinkView := { v with replies := v.replies + 1 }

/-- The meaning of a command that finishes one reply and changes nothing else that the link's soundness reads. -/
def AnswersOnce (run : Frame → State → State) : Prop := ∀ f s, linkView (run f s) = (linkView s).answered

/-- The meaning of a command that keeps the link sound when a reply place is free (R9). -/
def AnswersSoundly (run : Frame → State → State) : Prop :=
  ∀ f s, linkSound s → s.lp.placesUsed < 8 → linkSound (run f s)

@[simp] theorem answer_replyFinished_length (f : Frame) (code : Byte) (fields : List Byte) (s : State) :
    (answer f code fields s).lp.replyFinished.length = s.lp.replyFinished.length + 1 := by
  simp [answer]

theorem linkView_answer (f : Frame) (code : Byte) (fields : List Byte) (s : State) :
    linkView (answer f code fields s) = (linkView s).answered := by
  simp [linkView, LinkView.answered]

theorem LinkView.Sound.answered {v : LinkView} (h : v.Sound) (hroom : v.reserved.length + v.replies < 8) :
    v.answered.Sound :=
  ⟨h.framer, h.commands, hroom, h.fits, h.errors, h.reserved, h.lost⟩

theorem linkSound_of_answered {s t : State} (hv : linkView t = (linkView s).answered) (h : linkSound s)
    (hroom : s.lp.placesUsed < 8) : linkSound t := by
  rw [linkSound_iff, hv]
  exact ((linkSound_iff s).1 h).answered hroom

theorem AnswersOnce.soundly {run : Frame → State → State} (hrun : AnswersOnce run) : AnswersSoundly run :=
  fun f s => linkSound_of_answered (hrun f s)

/-- In UNCONFIGURED the answer is NOT_READY (R192). -/
theorem AnswersSoundly.whenReady {run : Frame → State → State} (hrun : AnswersSoundly run) :
    AnswersSoundly (whenReady run) := by
  intro f s h hroom
  unfold Machine.whenReady
  split
  · exact linkSound_of_answered (linkView_answer f _ _ s) h hroom
  · exact hrun f s h hroom

/-- The taking of a command shortens the command queue, and its meaning runs with a reply place free (R9). -/
theorem AnswersSoundly.serve {p : Frame → Bool} {run : Frame → State → State} (hrun : AnswersSoundly run)
    {s t : State} (h : linkSound s) (he : serve p run s = .next t) : linkSound t := by
  rcases serve_cases he with rfl | ⟨f, rest, htakes, -, rfl⟩
  · exact h
  · obtain ⟨framer, commands, places, reports, errors, reserved, lost⟩ := h
    obtain ⟨-, -, -, hroom, hqueue⟩ := htakes
    refine hrun f _ ⟨framer, ?_, places, reports, errors, reserved, lost⟩ hroom
    rw [hqueue] at commands
    exact Nat.le_of_succ_le commands

/-- A command that is answered with its result code alone (R10). -/
theorem answer_answersOnce (code : Byte) : AnswersOnce (fun f s => answer f code [] s) :=
  fun f s => linkView_answer f code [] s

theorem runStatus_answersOnce : AnswersOnce runStatus := by
  intro f s
  unfold runStatus
  dsimp only
  split
  · simp [linkView, LinkView.answered]
  · exact linkView_answer f _ _ s

theorem runConfigure_answersOnce : AnswersOnce runConfigure := by
  intro f s
  unfold runConfigure
  (repeat' split) <;> simp [linkView, LinkView.answered]

/-- The view after RESTART: the command and report queues and the link error count are cleared, while the reply queue
and a pending test stay (R20). -/
def LinkView.restarted (v : LinkView) : LinkView := { v with commands := 0, fits := true, errors := 0 }

theorem linkView_restartPart (s : State) : linkView (restartPart s) = (linkView s).restarted := by
  unfold restartPart
  dsimp only
  split <;> simp [linkView, LinkView.restarted, Lp.restart, Hmon.restart, reportsFit]

theorem LinkView.Sound.restarted {v : LinkView} (h : v.Sound) : v.restarted.Sound :=
  ⟨h.framer, Nat.zero_le 8, h.places, rfl, Nat.zero_le 65535, h.reserved, h.lost⟩

theorem runRestart_answersSoundly : AnswersSoundly runRestart := by
  intro f s h hroom
  unfold runRestart
  (repeat' split)
  · exact linkSound_of_answered (linkView_answer f _ _ s) h hroom
  · rw [linkSound_iff, linkView_answer, linkView_restartPart]
    exact ((linkSound_iff s).1 h).restarted.answered hroom
  · exact linkSound_of_answered (linkView_answer f _ _ s) h hroom

theorem linkView_createEntry {x : ParcelHeader} {h : Nat} {s t : State} (hc : createEntry x s = some (h, t)) :
    linkView t = linkView s := by
  simp [linkView, createEntry_keeps hc]

theorem linkView_closeOlder (older : Option Nat) (s : State) : linkView (closeOlder older s) = linkView s := by
  simp [linkView]

theorem runPageOpen_answersOnce : AnswersOnce runPageOpen := by
  intro f s
  unfold runPageOpen
  dsimp only
  (repeat' split) <;> simp only [linkView_scheduleTest, linkView_answer]
  rename_i hcreated
  rw [linkView_createEntry hcreated, linkView_closeOlder]

theorem linkView_acceptChunk {f : Frame} {x : ChunkOperands} {i : Nat} {opened : Bool} {refused s : State}
    (hrefused : linkView refused = linkView s) :
    linkView (acceptChunk f x i opened refused s) = (linkView s).answered := by
  unfold acceptChunk
  split
  · rename_i t hplaced
    have hkept : linkView t = linkView s := by simp [linkView, placeChunk_keeps hplaced]
    rw [linkView_answer, hkept]
  · rw [linkView_answer, hrefused]

theorem linkView_openRepair (i h b : Nat) (s : State) : linkView (openRepair i h b s) = linkView s := by
  simp [linkView]

theorem linkView_startTimer (i : Nat) (s : State) : linkView (startTimer i s) = linkView s := by
  simp [linkView]

theorem linkView_runOpener (f : Frame) (x : ChunkOperands) (r : BandRecord) (s : State) :
    linkView (runOpener f x r s) = (linkView s).answered := by
  unfold runOpener
  dsimp only
  (repeat' split) <;> simp only [linkView_answer, linkView_acceptChunk (linkView_startTimer _ _), linkView_openRepair]

theorem linkView_runChunk (f : Frame) (x : ChunkOperands) (r : BandRecord) (s : State) :
    linkView (runChunk f x r s) = (linkView s).answered := by
  unfold runChunk
  (repeat' split) <;> simp only [linkView_answer, linkView_acceptChunk]

theorem runPageBand_answersOnce : AnswersOnce runPageBand := by
  intro f s
  unfold runPageBand
  dsimp only
  (repeat' split) <;> simp only [linkView_answer, linkView_runChunk, linkView_runOpener]

theorem runPageClose_answersOnce : AnswersOnce runPageClose := by
  intro f s
  unfold runPageClose
  (repeat' split) <;> simp [linkView, LinkView.answered]

theorem runPageQuery_answersOnce : AnswersOnce runPageQuery := by
  intro f s
  unfold runPageQuery
  (repeat' split) <;> simp [linkView_answer]

theorem runPageDrop_answersOnce : AnswersOnce runPageDrop := by
  intro f s
  unfold runPageDrop
  dsimp only
  (repeat' split) <;> simp [linkView, LinkView.answered]

theorem runScreenBegin_answersOnce : AnswersOnce runScreenBegin := by
  intro f s
  unfold runScreenBegin
  dsimp only
  (repeat' split) <;> simp [linkView, LinkView.answered]

theorem runScreenTile_answersOnce : AnswersOnce runScreenTile := by
  intro f s
  unfold runScreenTile
  dsimp only
  (repeat' split) <;> simp [linkView, LinkView.answered]

theorem runScreenEnd_answersOnce : AnswersOnce runScreenEnd := by
  intro f s
  unfold runScreenEnd
  dsimp only
  (repeat' split) <;> simp [linkView, LinkView.answered]

theorem runScreenQuery_answersOnce : AnswersOnce runScreenQuery := by
  intro f s
  unfold runScreenQuery
  split <;> simp [linkView_answer]

theorem runPlateQueue_answersOnce : AnswersOnce runPlateQueue := by
  intro f s
  unfold runPlateQueue
  dsimp only
  (repeat' split) <;> simp [linkView, LinkView.answered]

theorem runPlateCancel_answersOnce : AnswersOnce runPlateCancel := by
  intro f s
  unfold runPlateCancel
  split <;> simp [linkView, LinkView.answered]

theorem runPlateQuery_answersOnce : AnswersOnce runPlateQuery := by
  intro f s
  unfold runPlateQuery
  split <;> simp [linkView_answer]

theorem runPlateList_answersOnce : AnswersOnce runPlateList := fun f s => linkView_answer f _ _ s

theorem runHeadSetup_answersOnce : AnswersOnce runHeadSetup := by
  intro f s
  unfold runHeadSetup
  (repeat' split) <;> simp [linkView, LinkView.answered]

theorem runChannelClear_answersOnce : AnswersOnce runChannelClear := by
  intro f s
  unfold runChannelClear
  dsimp only
  split <;> simp [linkView, LinkView.answered]

/-- An accepted MONITOR.TEST reserves the reply place that its own reply will take (R13, R176). -/
theorem runMonitorTest_answersSoundly : AnswersSoundly runMonitorTest := by
  intro f s h hroom
  unfold runMonitorTest
  (repeat' split)
  · exact linkSound_of_answered (linkView_answer f _ _ s) h hroom
  · exact linkSound_of_answered (linkView_answer f _ _ s) h hroom
  · rename_i hidle
    obtain ⟨framer, commands, places, reports, errors, reserved, lost⟩ := h
    have hnone : s.hmon.test = none := by
      simp only [headBusy, Bool.or_eq_true, Option.isSome_iff_ne_none, not_or, ne_eq, Decidable.not_not] at hidle
      exact hidle.2
    rw [hnone] at reserved
    refine ⟨framer, commands, ?_, reports, errors, by simp [reserved], lost⟩
    simp only [Lp.placesUsed, List.length_append, List.length_singleton] at hroom ⊢
    omega

/-! ## The pending test (R177, R178) -/

/-- A pending test's reply is finished in the place reserved for it. -/
theorem finishTest_keeps_linkSound {code : Byte} {fields : List Byte} {s : State} (h : linkSound s) :
    linkSound (finishTest code fields s) := by
  unfold finishTest
  split
  · exact h
  · rename_i tag n htest
    obtain ⟨framer, commands, places, reports, errors, reserved, lost⟩ := h
    have hreserved : s.lp.replyReserved = [tag] := by simpa [htest] using reserved
    refine linkSound_of_linkView_eq (linkView_scheduleTest _) ⟨framer, commands, ?_, reports, errors, ?_, lost⟩
    · simp only [Lp.placesUsed, hreserved, List.length_singleton] at places
      simp only [Lp.placesUsed, hreserved, List.erase_cons_head, List.length_nil, List.length_append,
        List.length_singleton]
      omega
    · simp [hreserved]

theorem takeRecord_keeps_linkSound {r : HeadRecord} {s : State} (h : linkSound s) : linkSound (takeRecord r s) := by
  unfold takeRecord
  dsimp only
  split
  · exact finishTest_keeps_linkSound (linkSound_of_linkView_eq (by simp [linkView]) h)
  · exact linkSound_of_linkView_eq (by simp [linkView]) h

theorem abandonIfFourth_keeps_linkSound {s : State} (h : linkSound s) : linkSound (abandonIfFourth s) := by
  unfold abandonIfFourth
  (repeat' split)
  · exact finishTest_keeps_linkSound h
  · exact h
  · exact h

/-- An index counts for a pending test and leaves its TAG (R178). -/
theorem linkView_hmonIndex (s : State) : linkView (hmonIndex s) = linkView s := by
  simp [linkView, hmonIndex, Function.comp_def]

theorem linkView_closeRevolution (s : State) : linkView (closeRevolution s) = linkView s := by
  simp [linkView]

theorem linkView_decideRevolution (s : State) : linkView (decideRevolution s) = linkView s := by
  simp [linkView]

theorem indexEvent_keeps_linkSound {s : State} (h : linkSound s) : linkSound (indexEvent s) := by
  have hdecided : linkView (decideRevolution (hmonIndex (closeRevolution s))) = linkView s := by
    rw [linkView_decideRevolution, linkView_hmonIndex, linkView_closeRevolution]
  exact abandonIfFourth_keeps_linkSound (linkSound_of_linkView_eq hdecided h)

theorem execHeadReturnRecord_keeps_linkSound {r : HeadRecord} {s t : State} (h : linkSound s)
    (he : execHeadReturnRecord r s = .next t) : linkSound t := by
  unfold execHeadReturnRecord at he
  split at he <;> obtain rfl := Host.Outcome.next.inj he
  · exact h
  · exact takeRecord_keeps_linkSound h

theorem execDrumIndex_keeps_linkSound {s t : State} (h : linkSound s) (he : execDrumIndex s = .next t) :
    linkSound t := by
  unfold execDrumIndex at he
  split at he <;> obtain rfl := Host.Outcome.next.inj he
  · exact h
  · exact indexEvent_keeps_linkSound h

theorem execMonitorTestAbandon_keeps_linkSound {s t : State} (h : linkSound s)
    (he : execMonitorTestAbandon s = .next t) : linkSound t := by
  unfold execMonitorTestAbandon at he
  split at he <;> obtain rfl := Host.Outcome.next.inj he
  · exact indexEvent_keeps_linkSound h
  · exact h

theorem execClockLossExpiry_keeps_linkSound {s t : State} (h : linkSound s) (he : execClockLossExpiry s = .next t) :
    linkSound t := by
  unfold execClockLossExpiry at he
  split at he <;> obtain rfl := Host.Outcome.next.inj he
  · exact h
  · exact finishTest_keeps_linkSound (linkSound_of_linkView_eq (by simp [linkView]) h)

/-! ## Events that leave the view alone -/

theorem linkView_endOperation (s : State) : linkView (endOperation s) = linkView s := by
  simp [linkView]

/-- A completion leaves the view alone when its client's handling does (R77). -/
theorem linkView_completion {client : State → State} (hclient : ∀ s, linkView (client s) = linkView s)
    (o : EndOrder) (s : State) : linkView (completion o client s) = linkView s := by
  cases o with
  | endFirst => exact (hclient _).trans (linkView_endOperation s)
  | askFirst => exact (linkView_endOperation _).trans (hclient _)

theorem finishWrite_linkView {o : EndOrder} {addr : Nat} {bs : List Byte} {client : State → State}
    (hclient : ∀ s, linkView (client s) = linkView s) {s t : State}
    (he : finishWrite o addr bs client s = .next t) : linkView t = linkView s := by
  obtain rfl := Host.Outcome.next.inj he
  rw [linkView_completion hclient]
  rfl

theorem finishRead_linkView {o : EndOrder} {addr len : Nat} {client : List Byte → State → State}
    (hclient : ∀ bs s, linkView (client bs s) = linkView s) {s t : State}
    (he : finishRead o addr len client s = .next t) : linkView t = linkView s := by
  obtain rfl := Host.Outcome.next.inj he
  exact linkView_completion (hclient _) o s

theorem linkView_slotEvent (s : State) : linkView (slotEvent s) = linkView s := by
  simp [linkView]

theorem execLinkWriteBurstDone_linkView {o : EndOrder} {s t : State} (he : execLinkWriteBurstDone o s = .next t) :
    linkView t = linkView s := by
  unfold execLinkWriteBurstDone at he
  split at he
  · exact finishWrite_linkView (by simp [linkView]) he
  · rw [Host.Outcome.next.inj he]

theorem execTileWriteBurstDone_linkView {o : EndOrder} {s t : State} (he : execTileWriteBurstDone o s = .next t) :
    linkView t = linkView s := by
  unfold execTileWriteBurstDone at he
  split at he
  · exact finishWrite_linkView (by simp [linkView]) he
  · rw [Host.Outcome.next.inj he]

theorem execRuWriteBurstDone_linkView {o : EndOrder} {s t : State} (he : execRuWriteBurstDone o s = .next t) :
    linkView t = linkView s := by
  unfold execRuWriteBurstDone at he
  split at he
  · exact finishWrite_linkView (by simp [linkView]) he
  · rw [Host.Outcome.next.inj he]

theorem execFillBurstDone_linkView {o : EndOrder} {s t : State} (he : execFillBurstDone o s = .next t) :
    linkView t = linkView s := by
  unfold execFillBurstDone at he
  split at he
  · exact finishRead_linkView (by simp [linkView]) he
  · rw [Host.Outcome.next.inj he]

theorem execRuReadBurstDone_linkView {o : EndOrder} {s t : State} (he : execRuReadBurstDone o s = .next t) :
    linkView t = linkView s := by
  unfold execRuReadBurstDone at he
  split at he
  · exact finishRead_linkView (by simp [linkView]) he
  · rw [Host.Outcome.next.inj he]

theorem execFetchArrival_linkView {o : EndOrder} {s t : State} (he : execFetchArrival o s = .next t) :
    linkView t = linkView s := by
  unfold execFetchArrival at he
  split at he
  · exact finishRead_linkView (by simp [linkView]) he
  · rw [Host.Outcome.next.inj he]

theorem execRefreshOperationDone_linkView {s t : State} (he : execRefreshOperationDone s = .next t) :
    linkView t = linkView s := by
  unfold execRefreshOperationDone at he
  split at he <;> obtain rfl := Host.Outcome.next.inj he
  · exact linkView_endOperation s
  · rfl

theorem execRefreshDue_linkView {s t : State} (he : execRefreshDue s = .next t) : linkView t = linkView s := by
  unfold execRefreshDue at he
  (repeat' split at he) <;> obtain rfl := Host.Outcome.next.inj he <;> simp [linkView]

theorem execReceptionTimeout_linkView {ctx : Nat} {s t : State} (he : execReceptionTimeout ctx s = .next t) :
    linkView t = linkView s := by
  unfold execReceptionTimeout at he
  (repeat' split at he) <;> obtain rfl := Host.Outcome.next.inj he <;> simp [linkView]

theorem execSlotClk_linkView {s t : State} (he : execSlotClk s = .next t) : linkView t = linkView s := by
  unfold execSlotClk at he
  split at he <;> obtain rfl := Host.Outcome.next.inj he
  · rfl
  · exact linkView_slotEvent s

theorem execIndexOverdue_linkView {s t : State} (he : execIndexOverdue s = .next t) : linkView t = linkView s := by
  unfold execIndexOverdue at he
  split at he <;> obtain rfl := Host.Outcome.next.inj he
  · exact linkView_slotEvent s
  · rfl

theorem execIndexLost_linkView {s t : State} (he : execIndexLost s = .next t) : linkView t = linkView s := by
  unfold execIndexLost at he
  split at he <;> obtain rfl := Host.Outcome.next.inj he
  · exact linkView_slotEvent s
  · rfl

/-! ## Every command -/

theorem exec_keeps_linkSound {c : Instr} {s t : State} (h : linkSound s) (he : exec c s = .next t) : linkSound t := by
  cases c with
  | hardwareReset => exact execHardwareReset_keeps_linkSound he
  | resetRelease => rwa [← Host.Outcome.next.inj he]
  | frameReceived => exact execFrameReceived_keeps_linkSound h he
  | byteReceived => exact execByteReceived_keeps_linkSound h he
  | frameTimerExpiry => exact execFrameTimerExpiry_keeps_linkSound h he
  | watchdogExpiry => exact execWatchdogExpiry_keeps_linkSound h he
  | beginTransmission => exact execBeginTransmission_keeps_linkSound h he
  | frameSent => exact execFrameSent_keeps_linkSound h he
  | tagZero => exact (answer_answersOnce _).soundly.serve h he
  | unknownKind => exact (answer_answersOnce _).soundly.serve h he
  | status => exact runStatus_answersOnce.soundly.serve h he
  | configure => exact runConfigure_answersOnce.soundly.serve h he
  | restart => exact runRestart_answersSoundly.serve h he
  | pageOpen => exact runPageOpen_answersOnce.soundly.whenReady.serve h he
  | pageBand => exact runPageBand_answersOnce.soundly.whenReady.serve h he
  | pageClose => exact runPageClose_answersOnce.soundly.whenReady.serve h he
  | pageQuery => exact runPageQuery_answersOnce.soundly.whenReady.serve h he
  | pageDrop => exact runPageDrop_answersOnce.soundly.whenReady.serve h he
  | screenBegin => exact runScreenBegin_answersOnce.soundly.whenReady.serve h he
  | screenTile => exact runScreenTile_answersOnce.soundly.whenReady.serve h he
  | screenEnd => exact runScreenEnd_answersOnce.soundly.whenReady.serve h he
  | screenQuery => exact runScreenQuery_answersOnce.soundly.whenReady.serve h he
  | plateQueue => exact runPlateQueue_answersOnce.soundly.whenReady.serve h he
  | plateCancel => exact runPlateCancel_answersOnce.soundly.whenReady.serve h he
  | plateQuery => exact runPlateQuery_answersOnce.soundly.whenReady.serve h he
  | plateList => exact runPlateList_answersOnce.soundly.whenReady.serve h he
  | headSetup => exact runHeadSetup_answersOnce.soundly.serve h he
  | channelClear => exact runChannelClear_answersOnce.soundly.whenReady.serve h he
  | monitorTest => exact runMonitorTest_answersSoundly.whenReady.serve h he
  | drumIndex => exact execDrumIndex_keeps_linkSound h he
  | headReturnRecord => exact execHeadReturnRecord_keeps_linkSound h he
  | monitorTestAbandon => exact execMonitorTestAbandon_keeps_linkSound h he
  | clockLossExpiry => exact execClockLossExpiry_keeps_linkSound h he
  | linkWriteBurstDone => exact linkSound_of_linkView_eq (execLinkWriteBurstDone_linkView he) h
  | receptionTimeout => exact linkSound_of_linkView_eq (execReceptionTimeout_linkView he) h
  | tileWriteBurstDone => exact linkSound_of_linkView_eq (execTileWriteBurstDone_linkView he) h
  | fillBurstDone => exact linkSound_of_linkView_eq (execFillBurstDone_linkView he) h
  | ruReadBurstDone => exact linkSound_of_linkView_eq (execRuReadBurstDone_linkView he) h
  | ruWriteBurstDone => exact linkSound_of_linkView_eq (execRuWriteBurstDone_linkView he) h
  | refreshDue => exact linkSound_of_linkView_eq (execRefreshDue_linkView he) h
  | refreshOperationDone => exact linkSound_of_linkView_eq (execRefreshOperationDone_linkView he) h
  | slotClk => exact linkSound_of_linkView_eq (execSlotClk_linkView he) h
  | fetchArrival => exact linkSound_of_linkView_eq (execFetchArrival_linkView he) h
  | indexOverdue => exact linkSound_of_linkView_eq (execIndexOverdue_linkView he) h
  | indexLost => exact linkSound_of_linkView_eq (execIndexLost_linkView he) h

/-- Settles O55: a step runs one command on the state with the queue's rest, which `linkSound` does not read, and every
command keeps the link sound. -/
theorem stepKeepsTheLinkSound : Obligations.StepKeepsTheLinkSound := by
  intro s t h hstep
  unfold step at hstep
  split at hstep
  · rwa [← Host.Outcome.next.inj hstep]
  · rename_i rest _
    exact exec_keeps_linkSound (s := { s with pending := rest }) h hstep

end Sys2Proof.Machine

/-! Every step keeps the tables at their sizes and the settings in their ranges. -/

namespace Sys2Proof.Machine

/-! ## What the settings' soundness depends on -/

/-- The part of the state that `settingsSound` reads: the sizes of the tables, each set's curve and generation, each
channel's window, and the stored values of HEAD.SETUP and of CONFIGURE. -/
structure SettingsView where
  contexts : Nat
  entries : Nat
  ring : Nat
  sets : List (List Nat × Nat)
  windows : List (Nat × Nat)
  nrev : Nat
  lead : Nat
  half : Nat
  dwellLimit : Nat
  watermark : Nat
  measured : Nat
  part : PartState
  storeMiB : Option Nat
  interval : Option Nat
  timeout : Option Nat
  clockLoss : Option Nat
  watchdog : Nat
  tolerance : Nat

/-- The settings as they stand in a state. -/
def settingsView (s : State) : SettingsView where
  contexts := s.prx.contexts.length
  entries := s.pdir.entries.length
  ring := s.imp.ring.length
  sets := s.sct.sets.map (fun x => (x.curve, x.generation))
  windows := s.hmon.channels.map (fun c => (c.low, c.high))
  nrev := s.imp.nrev
  lead := s.imp.lead
  half := s.imp.half
  dwellLimit := s.imp.dwellLimit
  watermark := s.imp.watermark
  measured := s.hmon.nrev
  part := s.part
  storeMiB := s.psc.storeMiB
  interval := s.psc.refreshInterval
  timeout := s.prx.timeout
  clockLoss := s.hmon.clockLoss
  watchdog := s.lp.watchdogPeriod
  tolerance := s.hmon.tolerance

/-- A stored curve and generation in their ranges (R86, R88). -/
def storedSetSound (x : List Nat × Nat) : Prop :=
  x.1.length = 17 ∧ x.1.head? = some 0 ∧ x.1.Pairwise (· ≤ ·) ∧ (∀ c ∈ x.1, c ≤ 4095) ∧ x.2 ≤ 65535

/-- The tables of the view at their sizes, with every curve, generation and window in its range. -/
structure SettingsView.TablesSound (v : SettingsView) : Prop where
  contexts : v.contexts = 8
  entries : v.entries = 64
  ring : v.ring = 8
  sets : v.sets.length = 8
  windows : v.windows.length = 32
  stored : ∀ x ∈ v.sets, storedSetSound x
  inRange : ∀ w ∈ v.windows, w.1 ≤ w.2 ∧ w.2 ≤ 1023

/-- The values of HEAD.SETUP in their ranges (R145, R146). -/
structure SettingsView.HeadSound (v : SettingsView) : Prop where
  nrev : 1024 ≤ v.nrev
  lead : 1 ≤ v.lead ∧ v.lead ≤ 255
  half : v.half ≤ 1
  dwellLimit : 1 ≤ v.dwellLimit ∧ v.dwellLimit ≤ 15
  watermark : 64 ≤ v.watermark ∧ v.watermark ≤ 1984 ∧ v.watermark % 64 = 0
  measured : 1024 ≤ v.measured

/-- The values of CONFIGURE in their ranges, none of them in UNCONFIGURED (R193). -/
def SettingsView.Configured (v : SettingsView) : Prop :=
  match v.part with
  | .unconfigured =>
    v.storeMiB = none ∧ v.interval = none ∧ v.timeout = none ∧ v.clockLoss = none ∧ v.watchdog = 0
  | .ready =>
    (∃ m, v.storeMiB = some m ∧ m ∈ [64, 128, 256, 512, 1024]) ∧ (∃ n, v.interval = some n ∧ 10 ≤ n ∧ n ≤ 159) ∧
      (∃ n, v.timeout = some n ∧ 1 ≤ n ∧ n ≤ 255) ∧ (∃ n, v.clockLoss = some n ∧ 1 ≤ n ∧ n ≤ 255) ∧
      v.watchdog ≤ 60 ∧ v.tolerance ≤ 255

/-- `settingsSound`, said of the view. -/
structure SettingsView.Sound (v : SettingsView) : Prop where
  tables : v.TablesSound
  head : v.HeadSound
  configured : v.Configured

theorem configurationSound_iff (s : State) : configurationSound s ↔ (settingsView s).Configured := by
  unfold configurationSound SettingsView.Configured settingsView
  cases s.part <;> exact Iff.rfl

theorem settingsSound_iff (s : State) : settingsSound s ↔ (settingsView s).Sound := by
  constructor
  · rintro ⟨contexts, entries, sets, ring, channels, stored, inRange, head, measured, configured⟩
    obtain ⟨nrev, lead, lead', half, dwell, dwell', mark, mark', mark''⟩ := head
    exact ⟨⟨contexts, entries, ring, by simpa [settingsView] using sets, by simpa [settingsView] using channels,
        List.forall_mem_map.2 stored, List.forall_mem_map.2 inRange⟩,
      ⟨nrev, ⟨lead, lead'⟩, half, ⟨dwell, dwell'⟩, ⟨mark, mark', mark''⟩, measured⟩,
      (configurationSound_iff s).1 configured⟩
  · rintro ⟨⟨contexts, entries, ring, sets, channels, stored, inRange⟩, head, configured⟩
    obtain ⟨nrev, ⟨lead, lead'⟩, half, ⟨dwell, dwell'⟩, ⟨mark, mark', mark''⟩, measured⟩ := head
    exact ⟨contexts, entries, by simpa [settingsView] using sets, ring, by simpa [settingsView] using channels,
      fun x hx => stored _ (List.mem_map_of_mem hx), fun c hc => inRange _ (List.mem_map_of_mem hc),
      ⟨nrev, lead, lead', half, dwell, dwell', mark, mark', mark''⟩, measured, (configurationSound_iff s).2 configured⟩

/-- A step that leaves the view alone keeps the settings sound. -/
theorem settingsSound_of_view_eq {s t : State} (hv : settingsView t = settingsView s) (h : settingsSound s) :
    settingsSound t := by
  rw [settingsSound_iff, hv, ← settingsSound_iff]
  exact h

/-! ## Operations that leave the view alone -/

/-- A table rewritten at one place keeps what is unchanged at that place. -/
theorem map_set_of_getD {α β : Type} (f : α → β) {l : List α} {i : Nat} {d x : α} (h : f x = f (l.getD i d)) :
    (l.set i x).map f = l.map f := by
  apply List.ext_getElem?
  intro k
  simp only [List.getElem?_map, List.getElem?_set]
  split
  · rename_i hik
    subst hik
    split
    · rename_i hlt
      simp [h, List.getD_eq_getElem?_getD, hlt]
    · simp_all
  · rfl

/-- A set's record rewritten with its curve and generation kept. -/
theorem settingsView_setScreenSet {t : Nat} {x : ScreenSet} {s : State}
    (h : (x.curve, x.generation) = ((screenSet s t).curve, (screenSet s t).generation)) :
    settingsView (setScreenSet t x s) = settingsView s := by
  have hsets := map_set_of_getD (fun y : ScreenSet => (y.curve, y.generation)) h
  simp only [settingsView, setScreenSet_keeps]
  simp only [setScreenSet, hsets]

/-- A channel rewritten with its window kept. -/
theorem settingsView_setChannel {k : Nat} {c : Channel} {s : State}
    (h : (c.low, c.high) = ((channelAt s k).low, (channelAt s k).high)) :
    settingsView (setChannel k c s) = settingsView s := by
  have hwindows := map_set_of_getD (fun d : Channel => (d.low, d.high)) h
  simp only [settingsView, setChannel_keeps]
  simp only [setChannel, hwindows]

@[simp] theorem settingsView_answer (f : Frame) (code : Byte) (fields : List Byte) (s : State) :
    settingsView (answer f code fields s) = settingsView s := by
  simp [settingsView]

@[simp] theorem settingsView_report (r : Report) (s : State) : settingsView (report r s) = settingsView s := by
  simp [settingsView]

@[simp] theorem settingsView_scheduleTest (s : State) : settingsView (scheduleTest s) = settingsView s := by
  simp [settingsView]

theorem settingsView_judgeFill (f : Fill) (s : State) : settingsView (judgeFill f s) = settingsView s := by
  unfold judgeFill
  dsimp only
  split
  · simp [settingsView]
  · have hended (r : JobResult) (ff : Option FitFault) (u : State) : settingsView (endArmed r ff u) = settingsView u := by
      simp [settingsView]
    rw [hended]
    exact settingsView_setScreenSet (s := { s with sct := { s.sct with fill := none } }) rfl

theorem settingsView_takeFill (f : Fill) (bs : List Byte) (s : State) :
    settingsView (takeFill f bs s) = settingsView s := rfl

theorem settingsView_fillPump (s : State) : settingsView (fillPump s) = settingsView s := by
  simp [settingsView]

theorem settingsView_fillDone (stale : Bool) (bs : List Byte) (s : State) :
    settingsView (fillDone stale bs s) = settingsView s := by
  unfold fillDone
  dsimp only
  split
  · exact settingsView_fillPump s
  · split
    · rfl
    · split
      · rfl
      · split
        · rw [settingsView_judgeFill, settingsView_takeFill]
        · rw [settingsView_fillPump, settingsView_takeFill]

@[simp] theorem validFrame_watchdogPeriod (l : Lp) (f : Frame) : (l.validFrame f).watchdogPeriod = l.watchdogPeriod := by
  simp [validFrame_eq]

theorem settingsView_receiveByte (b : Byte) (s : State) : settingsView (receiveByte b s) = settingsView s := by
  unfold receiveByte acceptFrame
  dsimp only
  (repeat' split) <;> simp [settingsView]

theorem settingsView_judgeReading (r : HeadRecord) (v : Revolution) (job : Nat) (s : State) (k : Nat) :
    settingsView (judgeReading r v job s k) = settingsView s := by
  unfold judgeReading
  dsimp only
  split
  · rfl
  · split
    · split
      · split
        · exact settingsView_setChannel rfl
        · rfl
      · split
        · rw [settingsView_report]
          exact settingsView_setChannel rfl
        · exact settingsView_setChannel rfl
      · rfl
    · rfl

theorem settingsView_judgeRecord (r : HeadRecord) (v : Revolution) (job : Nat) (s : State) :
    settingsView (judgeRecord r v job s) = settingsView s := by
  have hjudged := foldl_keeps settingsView (judgeReading r v job) (settingsView_judgeReading r v job) (List.range 32) s
  have hhanded (u : State) : settingsView ((List.range 32).foldl (handChannel v) u) = settingsView u :=
    foldl_keeps settingsView _ (by simp [settingsView]) _ _
  unfold judgeRecord
  dsimp only
  (repeat' split) <;> simp only [hjudged, hhanded]

theorem settingsView_takeRecord (r : HeadRecord) (s : State) : settingsView (takeRecord r s) = settingsView s := by
  unfold takeRecord
  dsimp only
  split
  · simp [settingsView]
  · rw [settingsView_judgeRecord]
    simp [settingsView]

/-! ## The index (R150) -/

theorem settingsView_beginExpose (s : State) : settingsView (beginExpose s) = settingsView s := by
  unfold beginExpose
  simp [settingsView]

theorem settingsView_decideImaging (j : Job) (s : State) : settingsView (decideImaging j s) = settingsView s := by
  have hend (r : JobResult) : settingsView (decideEnd r s) = settingsView s := by simp [settingsView]
  unfold decideImaging
  dsimp only
  have hbegin (d : Decision) (n : Nat) (live : Bool) : settingsView (beginRevolution d n live s) = settingsView s := by
    simp [settingsView]
  have hring (k : Nat) (r : RingState) : settingsView (setRing k r s) = settingsView s := by simp [settingsView]
  have hdwell : settingsView (decideDwell s) = settingsView s := by simp [settingsView]
  (repeat' split) <;> simp only [hend, hbegin, hdwell, settingsView_beginExpose, hring]

theorem settingsView_decideRevolution (s : State) : settingsView (decideRevolution s) = settingsView s := by
  unfold decideRevolution
  split
  · exact settingsView_decideImaging _ s
  · simp [settingsView]

/-- From an index on, the revolution is measured against the stored Nrev (R146, R172). -/
theorem settingsView_indexEvent (s : State) :
    settingsView (indexEvent s) = { settingsView s with measured := s.imp.nrev } := by
  have habandon (t : State) : settingsView (abandonIfFourth t) = settingsView t := by simp [settingsView]
  rw [indexEvent, habandon, settingsView_decideRevolution]
  simp [settingsView, hmonIndex]

theorem indexEvent_keeps_settingsSound {s : State} (h : settingsSound s) : settingsSound (indexEvent s) := by
  rw [settingsSound_iff] at h ⊢
  rw [settingsView_indexEvent]
  exact ⟨⟨h.tables.contexts, h.tables.entries, h.tables.ring, h.tables.sets, h.tables.windows, h.tables.stored,
    h.tables.inRange⟩, ⟨h.head.nrev, h.head.lead, h.head.half, h.head.dwellLimit, h.head.watermark, h.head.nrev⟩,
    h.configured⟩

/-! ## Commands -/

/-- The meaning of a command that leaves every setting and the size of every table as it was. -/
def LeavesSettings (run : Frame → State → State) : Prop := ∀ f s, settingsView (run f s) = settingsView s

/-- The meaning of a command that keeps the settings sound. -/
def KeepsSettings (run : Frame → State → State) : Prop := ∀ f s, settingsSound s → settingsSound (run f s)

theorem LeavesSettings.keeps {run : Frame → State → State} (hrun : LeavesSettings run) : KeepsSettings run :=
  fun f s => settingsSound_of_view_eq (hrun f s)

/-- In UNCONFIGURED the answer is NOT_READY (R192). -/
theorem KeepsSettings.whenReady {run : Frame → State → State} (hrun : KeepsSettings run) :
    KeepsSettings (whenReady run) := by
  intro f s h
  unfold Machine.whenReady
  split
  · exact settingsSound_of_view_eq (settingsView_answer f _ _ s) h
  · exact hrun f s h

theorem KeepsSettings.serve {p : Frame → Bool} {run : Frame → State → State} (hrun : KeepsSettings run) {s t : State}
    (h : settingsSound s) (he : serve p run s = .next t) : settingsSound t := by
  rcases serve_cases he with rfl | ⟨f, rest, -, -, rfl⟩
  · exact h
  · exact hrun f _ (settingsSound_of_view_eq (s := s) rfl h)

/-- A command that is answered with its result code alone. -/
theorem answer_leavesSettings (code : Byte) : LeavesSettings (fun f s => answer f code [] s) :=
  fun f s => settingsView_answer f code [] s

theorem runStatus_leavesSettings : LeavesSettings runStatus := fun f s => by simp [settingsView]

theorem settingsView_createEntry {x : ParcelHeader} {h : Nat} {s t : State} (hc : createEntry x s = some (h, t)) :
    settingsView t = settingsView s := by
  simp [settingsView, createEntry_keeps hc]

theorem settingsView_closeOlder (older : Option Nat) (s : State) :
    settingsView (closeOlder older s) = settingsView s := by
  simp [settingsView]

theorem runPageOpen_leavesSettings : LeavesSettings runPageOpen := by
  intro f s
  unfold runPageOpen
  dsimp only
  (repeat' split) <;> simp only [settingsView_scheduleTest, settingsView_answer]
  rename_i hcreated
  rw [settingsView_createEntry hcreated, settingsView_closeOlder]

theorem runPageBand_leavesSettings : LeavesSettings runPageBand := fun f s => by simp [settingsView]

theorem runPageClose_leavesSettings : LeavesSettings runPageClose := fun f s => by simp [settingsView]

theorem runPageQuery_leavesSettings : LeavesSettings runPageQuery := fun f s => by simp [settingsView]

theorem runPageDrop_leavesSettings : LeavesSettings runPageDrop := fun f s => by simp [settingsView]

theorem settingsView_tilePump (s : State) : settingsView (tilePump s) = settingsView s := by
  simp [settingsView]

/-- The thresholds of a SCREEN.TILE leave the curve and the generation of their set alone (R90). -/
theorem runScreenTile_leavesSettings : LeavesSettings runScreenTile := by
  intro f s
  unfold runScreenTile
  dsimp only
  (repeat' split) <;> simp only [settingsView_answer, settingsView_tilePump]
  rename_i t start sent _ _ _ _
  have hreceived : settingsView (setScreenSet t (receiveThresholds (screenSet s t) (sent.map clampThreshold)) s) =
      settingsView s := settingsView_setScreenSet rfl
  exact hreceived

theorem runScreenQuery_leavesSettings : LeavesSettings runScreenQuery := fun f s => by simp [settingsView]

theorem runPlateQueue_leavesSettings : LeavesSettings runPlateQueue := fun f s => by simp [settingsView]

theorem runPlateCancel_leavesSettings : LeavesSettings runPlateCancel := fun f s => by simp [settingsView]

theorem runPlateQuery_leavesSettings : LeavesSettings runPlateQuery := fun f s => by simp [settingsView]

theorem runPlateList_leavesSettings : LeavesSettings runPlateList := fun f s => by simp [settingsView]

theorem clearChannel_window (m : Word) (k : Nat) (c : Channel) :
    ((clearChannel m k c).low, (clearChannel m k c).high) = (c.low, c.high) := by
  unfold clearChannel
  split <;> rfl

theorem settingsView_clearChannels (m : Word) (s : State) : settingsView (clearChannels m s) = settingsView s := by
  have hwindows : (s.hmon.channels.mapIdx (clearChannel m)).map (fun c => (c.low, c.high)) =
      s.hmon.channels.map (fun c => (c.low, c.high)) := by
    apply List.ext_getElem? 
    intro k
    cases hk : s.hmon.channels[k]? <;> simp [hk, clearChannel_window]
  simp only [settingsView, clearChannels_keeps]
  simp only [clearChannels, hwindows]

theorem runChannelClear_leavesSettings : LeavesSettings runChannelClear := by
  intro f s
  unfold runChannelClear
  dsimp only
  split <;> simp only [settingsView_answer, settingsView_clearChannels]

theorem runMonitorTest_leavesSettings : LeavesSettings runMonitorTest := fun f s => by simp [settingsView]

/-! ## Commands that store settings -/

/-- A table of sets whose curves and generations are sound keeps the settings sound. -/
theorem SettingsView.Sound.withSets {v : SettingsView} (h : v.Sound) {l : List (List Nat × Nat)} (hlength : l.length = 8)
    (hstored : ∀ x ∈ l, storedSetSound x) : { v with sets := l }.Sound :=
  ⟨⟨h.tables.contexts, h.tables.entries, h.tables.ring, hlength, h.tables.windows, hstored, h.tables.inRange⟩,
    ⟨h.head.nrev, h.head.lead, h.head.half, h.head.dwellLimit, h.head.watermark, h.head.measured⟩, h.configured⟩

/-- The curve of an EMPTY set is 0 in every point (R86). -/
theorem storedSetSound_empty {g : Nat} (hg : g ≤ 65535) :
    storedSetSound ((ScreenSet.empty g).curve, (ScreenSet.empty g).generation) :=
  ⟨rfl, rfl, by simp [ScreenSet.empty], by simp [ScreenSet.empty], hg⟩

theorem storedSetSound_screenSet {s : State} (h : settingsSound s) (t : Nat) :
    storedSetSound ((screenSet s t).curve, (screenSet s t).generation) := by
  obtain ⟨-, -, -, -, -, stored, -⟩ := h
  unfold screenSet
  rw [List.getD_eq_getElem?_getD]
  cases ht : s.sct.sets[t]? with
  | none => exact storedSetSound_empty (by decide)
  | some x => exact stored x (List.mem_of_getElem? ht)

/-- A set's record rewritten with a sound curve and generation. -/
theorem setScreenSet_keeps_settingsSound {s : State} (h : settingsSound s) {t : Nat} {x : ScreenSet}
    (hx : storedSetSound (x.curve, x.generation)) : settingsSound (setScreenSet t x s) := by
  obtain ⟨contexts, entries, sets, ring, channels, stored, rest⟩ := h
  refine ⟨contexts, entries, by simpa using sets, ring, channels, fun y hy => ?_, rest⟩
  rcases List.mem_or_eq_of_mem_set hy with hold | rfl
  · exact stored y hold
  · exact hx

/-- The points behind a stored predecessor do not fall below it, rise, and end at 4095 at most (R88). -/
theorem clampCurveFrom_spec (l : List Nat) : ∀ {prev : Nat}, prev ≤ 4095 →
    (prev :: clampCurveFrom prev l).Pairwise (· ≤ ·) ∧ (∀ c ∈ clampCurveFrom prev l, prev ≤ c ∧ c ≤ 4095) ∧
      (clampCurveFrom prev l).length = l.length := by
  induction l with
  | nil => simp [clampCurveFrom]
  | cons p r ih =>
    intro prev hprev
    set v := if (if 4095 < p then 4095 else p) < prev then prev else (if 4095 < p then 4095 else p) with hv
    have hle : prev ≤ v ∧ v ≤ 4095 := by
      rw [hv]
      (repeat' split) <;> omega
    obtain ⟨hrise, hbounds, hlength⟩ := ih hle.2
    have heq : clampCurveFrom prev (p :: r) = v :: clampCurveFrom v r := rfl
    rw [heq]
    have hall : ∀ c ∈ v :: clampCurveFrom v r, prev ≤ c ∧ c ≤ 4095 := by
      intro c hc
      rcases List.mem_cons.1 hc with rfl | hc
      · exact hle
      · exact ⟨Nat.le_trans hle.1 (hbounds c hc).1, (hbounds c hc).2⟩
    exact ⟨List.pairwise_cons.2 ⟨fun c hc => (hall c hc).1, hrise⟩, hall, congrArg (· + 1) hlength⟩

theorem clampCurve_sound {l : List Nat} {g : Nat} (hl : l.length = 17) (hg : g ≤ 65535) :
    storedSetSound (clampCurve l, g) := by
  cases l with
  | nil => cases hl
  | cons p r =>
    obtain ⟨hrise, hbounds, hlength⟩ := clampCurveFrom_spec r (prev := 0) (by omega)
    refine ⟨?_, rfl, hrise, fun c hc => ?_, hg⟩
    · show (clampCurveFrom 0 r).length + 1 = 17
      rw [hlength]
      exact hl
    · rcases List.mem_cons.1 hc with rfl | hc
      · exact Nat.zero_le _
      · exact (hbounds c hc).2

theorem parseScreenBegin_curve_length {p : List Byte} {x : ScreenShape} (h : parseScreenBegin p = some x) :
    x.curve.length = 17 := by
  unfold parseScreenBegin at h
  split at h
  · obtain rfl := Option.some.inj h
    simp
  · cases h

theorem runScreenBegin_keepsSettings : KeepsSettings runScreenBegin := by
  intro f s h
  have hold := storedSetSound_screenSet h
  unfold runScreenBegin
  split
  · exact settingsSound_of_view_eq (settingsView_answer f _ _ s) h
  · rename_i x hx
    dsimp only
    split
    · exact settingsSound_of_view_eq (settingsView_answer f _ _ s) h
    · split
      · refine settingsSound_of_view_eq ((settingsView_scheduleTest _).trans (settingsView_answer f _ _ _))
          (setScreenSet_keeps_settingsSound h ?_)
        obtain ⟨-, -, -, -, hg⟩ := hold x.setIndex
        exact clampCurve_sound (parseScreenBegin_curve_length hx) hg
      · exact settingsSound_of_view_eq (settingsView_answer f _ _ s) h

theorem nextGeneration_le {g : Nat} (h : g ≤ 65535) : nextGeneration g ≤ 65535 := by
  unfold nextGeneration
  split <;> omega

theorem endedSet_sound {x : ScreenSet} (h : storedSetSound (x.curve, x.generation)) (expected : Half) :
    storedSetSound ((endedSet x expected).curve, (endedSet x expected).generation) := by
  obtain ⟨hlength, hhead, hrise, hbound, hg⟩ := h
  unfold endedSet
  split
  · exact ⟨hlength, hhead, hrise, hbound, nextGeneration_le hg⟩
  · exact ⟨hlength, hhead, hrise, hbound, hg⟩

theorem runScreenEnd_keepsSettings : KeepsSettings runScreenEnd := by
  intro f s h
  have hold := storedSetSound_screenSet h
  unfold runScreenEnd
  split
  · exact settingsSound_of_view_eq (settingsView_answer f _ _ s) h
  · rename_i t expected _
    dsimp only
    split
    · exact settingsSound_of_view_eq (settingsView_answer f _ _ s) h
    · have hset := setScreenSet_keeps_settingsSound h (endedSet_sound (hold t) expected) (t := t)
      refine settingsSound_of_view_eq ?_ hset
      rw [settingsView_scheduleTest, settingsView_answer]
      rfl

theorem clampDwell_bounds (n : Nat) : 1 ≤ clampDwell n ∧ clampDwell n ≤ 15 := by
  unfold clampDwell
  (repeat' split) <;> omega

theorem clampWatermark_bounds (n : Nat) :
    64 ≤ clampWatermark n ∧ clampWatermark n ≤ 1984 ∧ clampWatermark n % 64 = 0 := by
  unfold clampWatermark
  dsimp only
  (repeat' split) <;> omega

/-- Every window of an accepted HEAD.SETUP is in range (R145), and so is the default of a channel without one. -/
theorem HeadSettings.sound_window {x : HeadSettings} (h : x.sound = true) (k : Nat) :
    (x.windows.getD k (0, 0)).1 ≤ (x.windows.getD k (0, 0)).2 ∧ (x.windows.getD k (0, 0)).2 ≤ 1023 := by
  simp only [HeadSettings.sound, Bool.and_eq_true, List.all_eq_true, decide_eq_true_eq] at h
  rw [List.getD_eq_getElem?_getD]
  cases hk : x.windows[k]? with
  | none => decide
  | some w =>
    obtain ⟨-, hw⟩ := h
    obtain ⟨-, hhigh, hle⟩ := hw w (List.mem_of_getElem? hk)
    exact ⟨hle, hhigh⟩

theorem storeHead_keeps_settingsSound {x : HeadSettings} (hx : x.sound = true) {s : State} (h : settingsSound s) :
    settingsSound (storeHead x s) := by
  obtain ⟨contexts, entries, sets, ring, channels, stored, -, -, measured, configured⟩ := h
  have hwindow := HeadSettings.sound_window hx
  simp only [HeadSettings.sound, Bool.and_eq_true, decide_eq_true_eq] at hx
  obtain ⟨⟨hnrev, hlead, hlead', -, hhalf⟩, -⟩ := hx
  refine ⟨contexts, entries, sets, ring, ?_, stored, fun c hc => ?_, ?_, measured, configured⟩
  · simpa [storeHead, storeWindows] using channels
  · obtain ⟨k, hk⟩ := List.getElem?_of_mem hc
    simp only [storeHead, storeWindows, List.getElem?_mapIdx, Option.map_eq_some_iff] at hk
    obtain ⟨d, -, rfl⟩ := hk
    exact hwindow k
  · obtain ⟨hmark, hmark', hmark''⟩ := clampWatermark_bounds x.watermark
    obtain ⟨hdwell, hdwell'⟩ := clampDwell_bounds x.dwellLimit
    exact ⟨hnrev, hlead, hlead', hhalf, hdwell, hdwell', hmark, hmark', hmark''⟩

theorem runHeadSetup_keepsSettings : KeepsSettings runHeadSetup := by
  intro f s h
  unfold runHeadSetup
  split
  · exact settingsSound_of_view_eq (settingsView_answer f _ _ s) h
  · split
    · exact settingsSound_of_view_eq (settingsView_answer f _ _ s) h
    · split
      · exact settingsSound_of_view_eq (settingsView_answer f _ _ _) (storeHead_keeps_settingsSound ‹_› h)
      · exact settingsSound_of_view_eq (settingsView_answer f _ _ s) h

theorem emptySets_keeps_settingsSound {s : State} (h : settingsSound s) : settingsSound (emptySets s) := by
  obtain ⟨contexts, entries, sets, ring, channels, stored, rest⟩ := h
  refine ⟨contexts, entries, by simpa [emptySets] using sets, ring, channels, fun x hx => ?_, rest⟩
  obtain ⟨y, hy, rfl⟩ := List.mem_map.1 hx
  obtain ⟨-, -, -, -, hg⟩ := stored y hy
  exact storedSetSound_empty hg

theorem byteAt_le (p : List Byte) (i : Nat) : byteAt p i ≤ 255 := Nat.le_of_lt_succ (p.getD i 0).isLt

/-- The tuning values of a CONFIGURE are one byte each, and are clamped to their ranges (R193). -/
theorem parseConfigure_clamped {p : List Byte} {x : Settings} (h : parseConfigure p = some x) :
    (1 ≤ x.clamped.reception ∧ x.clamped.reception ≤ 255) ∧ (1 ≤ x.clamped.clockLoss ∧ x.clamped.clockLoss ≤ 255) ∧
      x.clamped.watchdog ≤ 60 ∧ x.clamped.tolerance ≤ 255 := by
  unfold parseConfigure at h
  split at h
  · obtain rfl := Option.some.inj h
    have h4 := byteAt_le p 4
    have h5 := byteAt_le p 5
    have h6 := byteAt_le p 6
    simp only [Settings.clamped]
    refine ⟨?_, ?_, ?_, h5⟩ <;> split <;> omega
  · cases h

theorem applySettings_keeps_settingsSound {x : Settings} (hsize : x.storeMiB ∈ [64, 128, 256, 512, 1024])
    (hinterval : 10 ≤ x.interval ∧ x.interval ≤ 159) (hreception : 1 ≤ x.reception ∧ x.reception ≤ 255)
    (hclock : 1 ≤ x.clockLoss ∧ x.clockLoss ≤ 255) (hwatchdog : x.watchdog ≤ 60) (htolerance : x.tolerance ≤ 255)
    {s : State} (h : settingsSound s) : settingsSound (applySettings x s) := by
  have hstore : (applySettings x s).psc.storeMiB = some x.storeMiB := by
    unfold applySettings Psc.configure
    dsimp only
    split
    · rfl
    · rename_i hbuild
      simp only [Bool.or_eq_true, bne_iff_ne, ne_eq, not_or, Decidable.not_not] at hbuild
      exact hbuild.2
  have hconfigured : configurationSound (applySettings x s) :=
    ⟨⟨_, hstore, hsize⟩, ⟨_, rfl, hinterval⟩, ⟨_, rfl, hreception⟩, ⟨_, rfl, hclock⟩, hwatchdog, htolerance⟩
  have hsets : settingsSound (if (s.part == .unconfigured || s.psc.storeMiB != some x.storeMiB) = true
      then emptySets s else s) := by
    split
    · exact emptySets_keeps_settingsSound h
    · exact h
  obtain ⟨contexts, entries, sets, ring, channels, stored, inRange, head, measured, -⟩ := hsets
  exact ⟨contexts, entries, sets, ring, channels, stored, inRange, head, measured, hconfigured⟩

theorem runConfigure_keepsSettings : KeepsSettings runConfigure := by
  intro f s h
  unfold runConfigure
  split
  · exact settingsSound_of_view_eq (settingsView_answer f _ _ s) h
  · rename_i x hx
    split
    · exact settingsSound_of_view_eq (settingsView_answer f _ _ s) h
    · split
      · rename_i hsound
        obtain ⟨hreception, hclock, hwatchdog, htolerance⟩ := parseConfigure_clamped hx
        simp only [Settings.sound, Bool.and_eq_true, List.contains_iff_mem, decide_eq_true_eq] at hsound
        obtain ⟨hsize, hinterval⟩ := hsound
        exact settingsSound_of_view_eq (settingsView_answer f _ _ _)
          (applySettings_keeps_settingsSound (x := x.clamped) hsize hinterval hreception hclock hwatchdog htolerance h)
      · exact settingsSound_of_view_eq (settingsView_answer f _ _ s) h

/-- RESTART gives PSC its pool anew and keeps its store size (R74, R85). -/
theorem Psc.restart_storeMiB (p : Psc) : p.restart.storeMiB = p.storeMiB := by
  unfold Psc.restart
  cases hp : p.storeMiB <;> simp [Psc.buildPool]

theorem Psc.restart_refreshInterval (p : Psc) : p.restart.refreshInterval = p.refreshInterval := by
  unfold Psc.restart
  cases p.storeMiB <;> rfl

theorem restart_sound {x : ScreenSet} (h : storedSetSound (x.curve, x.generation)) :
    storedSetSound (x.restart.curve, x.restart.generation) := by
  unfold ScreenSet.restart
  split
  · obtain ⟨-, -, -, -, hg⟩ := h
    exact storedSetSound_empty hg
  · exact h

/-- The view after RESTART: the directory anew at its 64 entries, and the sets in LOADING emptied (R197). -/
theorem settingsView_restartPart (s : State) : settingsView (restartPart s) = { settingsView s with
    entries := 64
    sets := s.sct.sets.map (fun x => (x.restart.curve, x.restart.generation)) } := by
  unfold restartPart
  dsimp only
  split <;>
    simp [settingsView, Lp.restart, Hmon.restart, Psc.restart_storeMiB, Psc.restart_refreshInterval, Pdir.reset,
      Function.comp_def]

theorem restartPart_keeps_settingsSound {s : State} (h : settingsSound s) : settingsSound (restartPart s) := by
  have hstored : ∀ x ∈ s.sct.sets.map (fun x => (x.restart.curve, x.restart.generation)), storedSetSound x := by
    obtain ⟨-, -, -, -, -, stored, -⟩ := h
    exact List.forall_mem_map.2 fun x hx => restart_sound (stored x hx)
  rw [settingsSound_iff, settingsView_restartPart, ← ((settingsSound_iff s).1 h).tables.entries]
  have hsound := (settingsSound_iff s).1 h
  exact hsound.withSets (by simpa [settingsView] using hsound.tables.sets) hstored

theorem runRestart_keepsSettings : KeepsSettings runRestart := by
  intro f s h
  unfold runRestart
  (repeat' split)
  · exact settingsSound_of_view_eq (settingsView_answer f _ _ s) h
  · exact settingsSound_of_view_eq (settingsView_answer f _ _ _) (restartPart_keeps_settingsSound h)
  · exact settingsSound_of_view_eq (settingsView_answer f _ _ s) h

/-! ## Events -/

/-- A completion leaves the view alone when its client's handling does (R77). -/
theorem settingsView_completion {client : State → State} (hclient : ∀ s, settingsView (client s) = settingsView s)
    (o : EndOrder) (s : State) : settingsView (completion o client s) = settingsView s := by
  have hend (t : State) : settingsView (endOperation t) = settingsView t := by simp [settingsView]
  cases o with
  | endFirst => exact (hclient _).trans (hend s)
  | askFirst => exact (hend _).trans (hclient _)

theorem finishWrite_settingsView {o : EndOrder} {addr : Nat} {bs : List Byte} {client : State → State}
    (hclient : ∀ s, settingsView (client s) = settingsView s) {s t : State}
    (he : finishWrite o addr bs client s = .next t) : settingsView t = settingsView s := by
  obtain rfl := Host.Outcome.next.inj he
  rw [settingsView_completion hclient]
  rfl

theorem finishRead_settingsView {o : EndOrder} {addr len : Nat} {client : List Byte → State → State}
    (hclient : ∀ bs s, settingsView (client bs s) = settingsView s) {s t : State}
    (he : finishRead o addr len client s = .next t) : settingsView t = settingsView s := by
  obtain rfl := Host.Outcome.next.inj he
  exact settingsView_completion (hclient _) o s

theorem settingsView_slotEvent (s : State) : settingsView (slotEvent s) = settingsView s := by
  simp [settingsView]

theorem execLinkWriteBurstDone_settingsView {o : EndOrder} {s t : State} (he : execLinkWriteBurstDone o s = .next t) :
    settingsView t = settingsView s := by
  unfold execLinkWriteBurstDone at he
  split at he
  · exact finishWrite_settingsView (by simp [settingsView]) he
  · rw [Host.Outcome.next.inj he]

theorem execTileWriteBurstDone_settingsView {o : EndOrder} {s t : State} (he : execTileWriteBurstDone o s = .next t) :
    settingsView t = settingsView s := by
  unfold execTileWriteBurstDone at he
  split at he
  · exact finishWrite_settingsView (by simp [settingsView]) he
  · rw [Host.Outcome.next.inj he]

theorem execRuWriteBurstDone_settingsView {o : EndOrder} {s t : State} (he : execRuWriteBurstDone o s = .next t) :
    settingsView t = settingsView s := by
  unfold execRuWriteBurstDone at he
  split at he
  · exact finishWrite_settingsView (by simp [settingsView]) he
  · rw [Host.Outcome.next.inj he]

theorem execFillBurstDone_settingsView {o : EndOrder} {s t : State} (he : execFillBurstDone o s = .next t) :
    settingsView t = settingsView s := by
  unfold execFillBurstDone at he
  split at he
  · exact finishRead_settingsView (settingsView_fillDone _) he
  · rw [Host.Outcome.next.inj he]

theorem execRuReadBurstDone_settingsView {o : EndOrder} {s t : State} (he : execRuReadBurstDone o s = .next t) :
    settingsView t = settingsView s := by
  unfold execRuReadBurstDone at he
  split at he
  · exact finishRead_settingsView (by simp [settingsView]) he
  · rw [Host.Outcome.next.inj he]

theorem execFetchArrival_settingsView {o : EndOrder} {s t : State} (he : execFetchArrival o s = .next t) :
    settingsView t = settingsView s := by
  unfold execFetchArrival at he
  split at he
  · exact finishRead_settingsView (by simp [settingsView]) he
  · rw [Host.Outcome.next.inj he]

theorem execRefreshDue_settingsView {s t : State} (he : execRefreshDue s = .next t) :
    settingsView t = settingsView s := by
  unfold execRefreshDue at he
  (repeat' split at he) <;> obtain rfl := Host.Outcome.next.inj he <;> simp [settingsView]

theorem execRefreshOperationDone_settingsView {s t : State} (he : execRefreshOperationDone s = .next t) :
    settingsView t = settingsView s := by
  unfold execRefreshOperationDone at he
  split at he <;> obtain rfl := Host.Outcome.next.inj he <;> simp [settingsView]

theorem execReceptionTimeout_settingsView {ctx : Nat} {s t : State} (he : execReceptionTimeout ctx s = .next t) :
    settingsView t = settingsView s := by
  unfold execReceptionTimeout at he
  (repeat' split at he) <;> obtain rfl := Host.Outcome.next.inj he <;> simp [settingsView]

theorem execFrameTimerExpiry_settingsView {s t : State} (he : execFrameTimerExpiry s = .next t) :
    settingsView t = settingsView s := by
  unfold execFrameTimerExpiry at he
  (repeat' split at he) <;> obtain rfl := Host.Outcome.next.inj he <;> rfl

theorem execWatchdogExpiry_settingsView {s t : State} (he : execWatchdogExpiry s = .next t) :
    settingsView t = settingsView s := by
  unfold execWatchdogExpiry at he
  split at he <;> obtain rfl := Host.Outcome.next.inj he <;> rfl

theorem execBeginTransmission_settingsView {s t : State} (he : execBeginTransmission s = .next t) :
    settingsView t = settingsView s := by
  unfold execBeginTransmission at he
  (repeat' split at he) <;> obtain rfl := Host.Outcome.next.inj he <;> rfl

theorem execFrameSent_settingsView {s t : State} (he : execFrameSent s = .next t) :
    settingsView t = settingsView s := by
  unfold execFrameSent at he
  split at he <;> obtain rfl := Host.Outcome.next.inj he <;> rfl

theorem execFrameReceived_settingsView {b : Byte} {s t : State} (he : execFrameReceived b s = .next t) :
    settingsView t = settingsView s := by
  unfold execFrameReceived at he
  split at he <;> obtain rfl := Host.Outcome.next.inj he
  · rfl
  · exact settingsView_receiveByte b s

theorem execByteReceived_settingsView {b : Byte} {s t : State} (he : execByteReceived b s = .next t) :
    settingsView t = settingsView s := by
  unfold execByteReceived at he
  split at he <;> obtain rfl := Host.Outcome.next.inj he
  · rfl
  · exact settingsView_receiveByte b s

theorem execSlotClk_settingsView {s t : State} (he : execSlotClk s = .next t) : settingsView t = settingsView s := by
  unfold execSlotClk at he
  split at he <;> obtain rfl := Host.Outcome.next.inj he
  · rfl
  · exact settingsView_slotEvent s

theorem execIndexOverdue_settingsView {s t : State} (he : execIndexOverdue s = .next t) :
    settingsView t = settingsView s := by
  unfold execIndexOverdue at he
  split at he <;> obtain rfl := Host.Outcome.next.inj he
  · exact settingsView_slotEvent s
  · rfl

theorem execIndexLost_settingsView {s t : State} (he : execIndexLost s = .next t) :
    settingsView t = settingsView s := by
  unfold execIndexLost at he
  split at he <;> obtain rfl := Host.Outcome.next.inj he
  · exact settingsView_slotEvent s
  · rfl

theorem execClockLossExpiry_settingsView {s t : State} (he : execClockLossExpiry s = .next t) :
    settingsView t = settingsView s := by
  unfold execClockLossExpiry at he
  split at he <;> obtain rfl := Host.Outcome.next.inj he <;> simp [settingsView]

theorem execHeadReturnRecord_settingsView {r : HeadRecord} {s t : State} (he : execHeadReturnRecord r s = .next t) :
    settingsView t = settingsView s := by
  unfold execHeadReturnRecord at he
  split at he <;> obtain rfl := Host.Outcome.next.inj he
  · rfl
  · exact settingsView_takeRecord r s

theorem execDrumIndex_keeps_settingsSound {s t : State} (h : settingsSound s) (he : execDrumIndex s = .next t) :
    settingsSound t := by
  unfold execDrumIndex at he
  split at he <;> obtain rfl := Host.Outcome.next.inj he
  · exact h
  · exact indexEvent_keeps_settingsSound h

theorem execMonitorTestAbandon_keeps_settingsSound {s t : State} (h : settingsSound s)
    (he : execMonitorTestAbandon s = .next t) : settingsSound t := by
  unfold execMonitorTestAbandon at he
  split at he <;> obtain rfl := Host.Outcome.next.inj he
  · exact indexEvent_keeps_settingsSound h
  · exact h

/-- The part held in reset has the settings of the reset state (R196). -/
theorem execHardwareReset_keeps_settingsSound {s t : State} (he : execHardwareReset s = .next t) :
    settingsSound t := by
  obtain rfl := Host.Outcome.next.inj he
  exact settingsSound_of_view_eq (s := State.reset) rfl settingsSound_reset

/-! ## Every command -/

theorem exec_keeps_settingsSound {c : Instr} {s t : State} (h : settingsSound s) (he : exec c s = .next t) :
    settingsSound t := by
  cases c with
  | hardwareReset => exact execHardwareReset_keeps_settingsSound he
  | drumIndex => exact execDrumIndex_keeps_settingsSound h he
  | monitorTestAbandon => exact execMonitorTestAbandon_keeps_settingsSound h he
  | tagZero => exact (answer_leavesSettings _).keeps.serve h he
  | unknownKind => exact (answer_leavesSettings _).keeps.serve h he
  | status => exact runStatus_leavesSettings.keeps.serve h he
  | configure => exact runConfigure_keepsSettings.serve h he
  | restart => exact runRestart_keepsSettings.serve h he
  | pageOpen => exact runPageOpen_leavesSettings.keeps.whenReady.serve h he
  | pageBand => exact runPageBand_leavesSettings.keeps.whenReady.serve h he
  | pageClose => exact runPageClose_leavesSettings.keeps.whenReady.serve h he
  | pageQuery => exact runPageQuery_leavesSettings.keeps.whenReady.serve h he
  | pageDrop => exact runPageDrop_leavesSettings.keeps.whenReady.serve h he
  | screenBegin => exact runScreenBegin_keepsSettings.whenReady.serve h he
  | screenTile => exact runScreenTile_leavesSettings.keeps.whenReady.serve h he
  | screenEnd => exact runScreenEnd_keepsSettings.whenReady.serve h he
  | screenQuery => exact runScreenQuery_leavesSettings.keeps.whenReady.serve h he
  | plateQueue => exact runPlateQueue_leavesSettings.keeps.whenReady.serve h he
  | plateCancel => exact runPlateCancel_leavesSettings.keeps.whenReady.serve h he
  | plateQuery => exact runPlateQuery_leavesSettings.keeps.whenReady.serve h he
  | plateList => exact runPlateList_leavesSettings.keeps.whenReady.serve h he
  | headSetup => exact runHeadSetup_keepsSettings.serve h he
  | channelClear => exact runChannelClear_leavesSettings.keeps.whenReady.serve h he
  | monitorTest => exact runMonitorTest_leavesSettings.keeps.whenReady.serve h he
  | resetRelease => rwa [← Host.Outcome.next.inj he]
  | frameReceived => exact settingsSound_of_view_eq (execFrameReceived_settingsView he) h
  | byteReceived => exact settingsSound_of_view_eq (execByteReceived_settingsView he) h
  | frameTimerExpiry => exact settingsSound_of_view_eq (execFrameTimerExpiry_settingsView he) h
  | watchdogExpiry => exact settingsSound_of_view_eq (execWatchdogExpiry_settingsView he) h
  | beginTransmission => exact settingsSound_of_view_eq (execBeginTransmission_settingsView he) h
  | frameSent => exact settingsSound_of_view_eq (execFrameSent_settingsView he) h
  | linkWriteBurstDone => exact settingsSound_of_view_eq (execLinkWriteBurstDone_settingsView he) h
  | receptionTimeout => exact settingsSound_of_view_eq (execReceptionTimeout_settingsView he) h
  | tileWriteBurstDone => exact settingsSound_of_view_eq (execTileWriteBurstDone_settingsView he) h
  | fillBurstDone => exact settingsSound_of_view_eq (execFillBurstDone_settingsView he) h
  | ruReadBurstDone => exact settingsSound_of_view_eq (execRuReadBurstDone_settingsView he) h
  | ruWriteBurstDone => exact settingsSound_of_view_eq (execRuWriteBurstDone_settingsView he) h
  | refreshDue => exact settingsSound_of_view_eq (execRefreshDue_settingsView he) h
  | refreshOperationDone => exact settingsSound_of_view_eq (execRefreshOperationDone_settingsView he) h
  | slotClk => exact settingsSound_of_view_eq (execSlotClk_settingsView he) h
  | fetchArrival => exact settingsSound_of_view_eq (execFetchArrival_settingsView he) h
  | indexOverdue => exact settingsSound_of_view_eq (execIndexOverdue_settingsView he) h
  | indexLost => exact settingsSound_of_view_eq (execIndexLost_settingsView he) h
  | clockLossExpiry => exact settingsSound_of_view_eq (execClockLossExpiry_settingsView he) h
  | headReturnRecord => exact settingsSound_of_view_eq (execHeadReturnRecord_settingsView he) h

/-- Settles O59: a step runs one command on the state with the queue's rest, which `settingsSound` does not read, and
every command keeps the settings in range. -/
theorem stepKeepsTheSettingsInRange : Obligations.StepKeepsTheSettingsInRange := by
  intro s t h hstep
  unfold step at hstep
  split at hstep
  · rwa [← Host.Outcome.next.inj hstep]
  · rename_i rest _
    exact exec_keeps_settingsSound (s := { s with pending := rest }) h hstep

end Sys2Proof.Machine

/-! The payloads of the commands with many fields (R21, R27, R35, R60, R63, R87, R124, R145): each is read as it is
laid out. -/

namespace Sys2Proof.Machine

/-! ## A payload split at its fields -/

@[simp] theorem u8_length (n : Nat) : (u8 n).length = 1 := rfl

@[simp] theorem u16_length (n : Nat) : (u16 n).length = 2 := rfl

@[simp] theorem u32_length (n : Nat) : (u32 n).length = 4 := rfl

@[simp] theorem flagByte_length (b : Bool) : (flagByte b).length = 1 := rfl

theorem byteAt_lt (p : List Byte) (i : Nat) : byteAt p i < 256 := (p.getD i 0).isLt

theorem halfAt_lt (p : List Byte) (i : Nat) : halfAt p i < 65536 := by
  have h0 := byteAt_lt p i
  have h1 := byteAt_lt p (i + 1)
  unfold halfAt
  omega

theorem wordAt_lt (p : List Byte) (i : Nat) : wordAt p i < 4294967296 := by
  have h0 := halfAt_lt p i
  have h2 := halfAt_lt p (i + 2)
  unfold wordAt
  omega

/-- The bytes of a payload from an offset on: the byte field there, and those behind it. -/
theorem drop_eq_u8 {p : List Byte} {i : Nat} (h : i < p.length) : p.drop i = u8 (byteAt p i) ++ p.drop (i + 1) := by
  rw [List.drop_eq_getElem_cons h]
  simp [u8, byteAt, List.getD_eq_getElem?_getD, h]

theorem u16_halfAt (p : List Byte) (i : Nat) : u16 (halfAt p i) = u8 (byteAt p i) ++ u8 (byteAt p (i + 1)) := by
  have h0 := byteAt_lt p i
  have h1 := byteAt_lt p (i + 1)
  simp only [u16, u8, halfAt, List.singleton_append, List.cons.injEq, and_true]
  exact ⟨BitVec.eq_of_toNat_eq (by simp only [BitVec.toNat_ofNat]; omega),
    BitVec.eq_of_toNat_eq (by simp only [BitVec.toNat_ofNat]; omega)⟩

theorem u32_wordAt (p : List Byte) (i : Nat) : u32 (wordAt p i) = u16 (halfAt p i) ++ u16 (halfAt p (i + 2)) := by
  have h0 := halfAt_lt p i
  have h2 := halfAt_lt p (i + 2)
  simp only [u32, u16, wordAt, List.cons_append, List.nil_append, List.cons.injEq, and_true]
  refine ⟨?_, ?_, ?_, ?_⟩ <;> exact BitVec.eq_of_toNat_eq (by simp only [BitVec.toNat_ofNat]; omega)

/-- From an offset on, a payload is its two-byte field there and the bytes behind it. -/
theorem drop_eq_u16 {p : List Byte} {i : Nat} (h : i + 1 < p.length) :
    p.drop i = u16 (halfAt p i) ++ p.drop (i + 2) := by
  rw [u16_halfAt, List.append_assoc, ← drop_eq_u8 h, ← drop_eq_u8 (Nat.lt_of_succ_lt h)]

theorem drop_eq_u32 {p : List Byte} {i : Nat} (h : i + 3 < p.length) :
    p.drop i = u32 (wordAt p i) ++ p.drop (i + 4) := by
  rw [u32_wordAt, List.append_assoc, ← drop_eq_u16 (i := i + 2) h, ← drop_eq_u16 (by omega)]

/-- From an offset on, a payload is a run of records of `k` bytes each and the bytes behind them. -/
theorem drop_eq_records {p : List Byte} {k : Nat} {enc : Nat → List Byte} (a n : Nat)
    (h : ∀ i, i < n → p.drop (a + k * i) = enc (a + k * i) ++ p.drop (a + k * (i + 1))) :
    p.drop a = (List.range n).flatMap (fun i => enc (a + k * i)) ++ p.drop (a + k * n) := by
  induction n with
  | zero => simp
  | succ n ih =>
    rw [ih fun i hi => h i (by omega), h n (by omega), List.range_succ, List.flatMap_append, List.flatMap_singleton,
      List.append_assoc]

/-! ## The fields of a layout read back -/

@[simp] theorem byteAt_cons_zero (b : Byte) (p : List Byte) : byteAt (b :: p) 0 = b.toNat := rfl

@[simp] theorem byteAt_cons_succ (b : Byte) (p : List Byte) (i : Nat) : byteAt (b :: p) (i + 1) = byteAt p i := rfl

theorem wordAt_append_right (p q : List Byte) (i : Nat) : wordAt (p ++ q) (p.length + i) = wordAt q i := by
  simp only [wordAt, Nat.add_assoc, halfAt_append_right]

theorem halfAt_u16_append {n : Nat} (hn : n < 65536) (q : List Byte) : halfAt (u16 n ++ q) 0 = n :=
  (halfAt_append_left (by simp)).trans (halfAt_u16 hn)

theorem wordAt_u32_append {n : Nat} (hn : n < 4294967296) (q : List Byte) : wordAt (u32 n ++ q) 0 = n := by
  simp [wordAt, halfAt, u32]
  omega

theorem byteAt_u8_append {n : Nat} (hn : n < 256) (q : List Byte) : byteAt (u8 n ++ q) 0 = n := by
  simp [u8, hn]

/-- The record at place `i` of a run of records of `k` bytes each stands at `k * i`. -/
theorem drop_flatMap {α : Type} {enc : α → List Byte} {k : Nat} (hk : ∀ x, (enc x).length = k) (l : List α) :
    ∀ {i : Nat} {x : α}, l[i]? = some x → ∃ q, (l.flatMap enc).drop (k * i) = enc x ++ q := by
  induction l with
  | nil => simp
  | cons y r ih =>
    intro i x hx
    cases i with
    | zero =>
      obtain rfl : y = x := by simpa using hx
      exact ⟨r.flatMap enc, by simp⟩
    | succ i =>
      obtain ⟨q, hq⟩ := ih (i := i) (by simpa using hx)
      refine ⟨q, ?_⟩
      rw [List.flatMap_cons, Nat.mul_succ, Nat.add_comm, ← List.drop_drop, List.drop_left' (hk y), hq]

theorem length_flatMap_const {α : Type} {enc : α → List Byte} {k : Nat} (hk : ∀ x, (enc x).length = k) (l : List α) :
    (l.flatMap enc).length = k * l.length := by
  simp [List.length_flatMap, hk, Nat.mul_comm]

/-- A table read record by record is the table laid out. -/
theorem map_range_eq {α : Type} {l : List α} {n : Nat} {read : Nat → α} (hn : n = l.length)
    (h : ∀ i x, l[i]? = some x → read i = x) : (List.range n).map read = l := by
  subst hn
  apply List.ext_getElem
  · simp
  · intro i h1 h2
    simpa using h i l[i] (by simp)

theorem byteAt_drop (p : List Byte) (i j : Nat) : byteAt (p.drop i) j = byteAt p (i + j) := by
  simp [byteAt, List.getD_eq_getElem?_getD]

/-- Byte `j` of the record at place `i` of a table behind `a` other bytes. -/
theorem byteAt_record {α : Type} {enc : α → List Byte} {k : Nat} (hk : ∀ x, (enc x).length = k) {pre : List Byte}
    {l : List α} {a i j m : Nat} {x : α} (hx : l[i]? = some x) (ha : pre.length = a) (hm : m = a + k * i + j)
    (hj : j < k) : byteAt (pre ++ l.flatMap enc) m = byteAt (enc x) j := by
  obtain ⟨q, hq⟩ := drop_flatMap hk l hx
  subst ha
  rw [hm, Nat.add_assoc, byteAt_append_right, ← byteAt_drop, hq, byteAt_append_left (by rw [hk]; exact hj)]

theorem halfAt_record {α : Type} {enc : α → List Byte} {k : Nat} (hk : ∀ x, (enc x).length = k) {pre : List Byte}
    {l : List α} {a i j m : Nat} {x : α} (hx : l[i]? = some x) (ha : pre.length = a) (hm : m = a + k * i + j)
    (hj : j + 1 < k) : halfAt (pre ++ l.flatMap enc) m = halfAt (enc x) j := by
  rw [halfAt, byteAt_record hk hx ha hm (by omega), byteAt_record (j := j + 1) hk hx ha (by omega) hj, halfAt]

theorem wordAt_record {α : Type} {enc : α → List Byte} {k : Nat} (hk : ∀ x, (enc x).length = k) {pre : List Byte}
    {l : List α} {a i j m : Nat} {x : α} (hx : l[i]? = some x) (ha : pre.length = a) (hm : m = a + k * i + j)
    (hj : j + 3 < k) : wordAt (pre ++ l.flatMap enc) m = wordAt (enc x) j := by
  rw [wordAt, halfAt_record hk hx ha hm (by omega), halfAt_record (j := j + 2) hk hx ha (by omega) hj, wordAt]

/-! ## Each payload -/

theorem parseBand_iff (p : List Byte) (x : ChunkOperands) : parseBand p = some x ↔
      x.handle ≤ 63 ∧ x.band < 65536 ∧ x.offset < 4294967296 ∧ 1 ≤ x.chunk.length ∧ x.chunk.length ≤ 4080 ∧
      p = u8 x.handle ++ u16 x.band ++ u32 x.offset ++ flagByte x.last ++ x.chunk := by
  unfold parseBand
  constructor
  · intro h
    split at h
    · rename_i hp
      obtain ⟨hmin, hmax, hhandle, hflag⟩ := hp
      obtain rfl := Option.some.inj h
      have hlast : flagByte (byteAt p 7 == 1) = u8 (byteAt p 7) := by
        obtain h7 | h7 : byteAt p 7 = 0 ∨ byteAt p 7 = 1 := by omega
        · rw [h7]; rfl
        · rw [h7]; rfl
      refine ⟨hhandle, halfAt_lt p 1, wordAt_lt p 3, by simp; omega, by simp; omega, ?_⟩
      calc p = p.drop 0 := rfl
        _ = u8 (byteAt p 0) ++ (u16 (halfAt p 1) ++ (u32 (wordAt p 3) ++ (u8 (byteAt p 7) ++ p.drop 8))) := by
          rw [← drop_eq_u8 (by omega), ← drop_eq_u32 (by omega), ← drop_eq_u16 (by omega), ← drop_eq_u8 (by omega)]
        _ = _ := by simp only [hlast, List.append_assoc]
    · cases h
  · rintro ⟨hhandle, hband, hoffset, hmin, hmax, rfl⟩
    obtain ⟨handle, band, offset, last, chunk⟩ := x
    simp only at *
    rw [if_pos]
    · simp only [u8, u16, u32, flagByte]
      cases last <;> simp [halfAt, wordAt] <;> omega
    · simp only [u8, u16, u32, flagByte]
      cases last <;> simp <;> omega

theorem parseClose_iff (p : List Byte) (h : Nat) : parseClose p = some h ↔ h ≤ 63 ∧ p = u8 h := by
  unfold parseClose
  constructor
  · intro hp
    split at hp
    · rename_i hlength
      obtain ⟨hlength, hhandle⟩ := hlength
      obtain rfl := Option.some.inj hp
      refine ⟨hhandle, ?_⟩
      calc p = p.drop 0 := rfl
        _ = u8 (byteAt p 0) ++ p.drop 1 := drop_eq_u8 (by omega)
        _ = _ := by rw [List.drop_of_length_le (by omega), List.append_nil]
    · cases hp
  · rintro ⟨hh, rfl⟩
    exact parseClose_u8 hh

theorem parsePageQuery_iff (p : List Byte) (h first : Nat) :
    parsePageQuery p = some (h, first) ↔ h ≤ 63 ∧ first < 65536 ∧ p = u8 h ++ u16 first := by
  unfold parsePageQuery
  constructor
  · intro hp
    split at hp
    · rename_i hlength
      obtain ⟨hlength, hhandle⟩ := hlength
      obtain ⟨rfl, rfl⟩ := Prod.mk.inj (Option.some.inj hp)
      refine ⟨hhandle, halfAt_lt p 1, ?_⟩
      calc p = p.drop 0 := rfl
        _ = u8 (byteAt p 0) ++ (u16 (halfAt p 1) ++ p.drop 3) := by
          rw [← drop_eq_u16 (by omega), ← drop_eq_u8 (by omega)]
        _ = _ := by rw [List.drop_of_length_le (by omega), List.append_nil]
    · cases hp
  · rintro ⟨hh, hfirst, rfl⟩
    rw [if_pos]
    · simp [u8, u16, halfAt]
      omega
    · simp [u8]
      omega

theorem parseDrop_iff (p : List Byte) (h : Nat) (k : PageKey) (v : Nat) : parseDrop p = some (h, k, v) ↔
      h ≤ 63 ∧ k.edition < 256 ∧ k.section_ < 256 ∧ k.page < 256 ∧ k.separation < 256 ∧ v < 65536 ∧
      p = u8 h ++ u8 k.edition ++ u8 k.section_ ++ u8 k.page ++ u8 k.separation ++ u16 v := by
  unfold parseDrop
  constructor
  · intro hp
    split at hp
    · rename_i hlength
      obtain ⟨hlength, hhandle⟩ := hlength
      simp only [Option.some.injEq, Prod.mk.injEq] at hp
      obtain ⟨rfl, rfl, rfl⟩ := hp
      refine ⟨hhandle, byteAt_lt p 1, byteAt_lt p 2, byteAt_lt p 3, byteAt_lt p 4, halfAt_lt p 5, ?_⟩
      calc p = p.drop 0 := rfl
        _ = u8 (byteAt p 0) ++ (u8 (byteAt p 1) ++ (u8 (byteAt p 2) ++ (u8 (byteAt p 3) ++ (u8 (byteAt p 4) ++
            (u16 (halfAt p 5) ++ p.drop 7))))) := by
          rw [← drop_eq_u16 (by omega), ← drop_eq_u8 (by omega), ← drop_eq_u8 (by omega), ← drop_eq_u8 (by omega),
            ← drop_eq_u8 (by omega), ← drop_eq_u8 (by omega)]
        _ = _ := by simp only [List.drop_of_length_le (show p.length ≤ 7 by omega), keyAt, List.append_assoc,
            List.append_nil]
    · cases hp
  · rintro ⟨hh, hedition, hsection, hpage, hseparation, hv, rfl⟩
    obtain ⟨edition, section_, page, separation⟩ := k
    simp only at *
    rw [if_pos]
    · simp [u8, u16, halfAt, keyAt]
      omega
    · simp [u8]
      omega

theorem parseScreenBegin_iff (p : List Byte) (x : ScreenShape) : parseScreenBegin p = some x ↔
      x.setIndex ≤ 7 ∧ x.width < 65536 ∧ x.height < 65536 ∧ x.shift < 65536 ∧ x.minDot < 65536 ∧ x.maxDot < 65536 ∧
      x.curve.length = 17 ∧ (∀ c ∈ x.curve, c < 65536) ∧
      p = u8 x.setIndex ++ u16 x.width ++ u16 x.height ++ u16 x.shift ++ u16 x.minDot ++ u16 x.maxDot ++
        x.curve.flatMap u16 := by
  unfold parseScreenBegin
  constructor
  · intro h
    split at h
    · rename_i hp
      obtain ⟨hlength, hindex⟩ := hp
      obtain rfl := Option.some.inj h
      refine ⟨hindex, halfAt_lt p 1, halfAt_lt p 3, halfAt_lt p 5, halfAt_lt p 7, halfAt_lt p 9, by simp,
        List.forall_mem_map.2 fun i _ => halfAt_lt p _, ?_⟩
      have hcurve : p.drop 11 = (List.range 17).flatMap (fun i => u16 (halfAt p (11 + 2 * i))) ++ p.drop 45 :=
        drop_eq_records (enc := fun i => u16 (halfAt p i)) 11 17 fun i hi => drop_eq_u16 (by omega)
      calc p = p.drop 0 := rfl
        _ = u8 (byteAt p 0) ++ (u16 (halfAt p 1) ++ (u16 (halfAt p 3) ++ (u16 (halfAt p 5) ++ (u16 (halfAt p 7) ++
            (u16 (halfAt p 9) ++ p.drop 11))))) := by
          rw [← drop_eq_u16 (by omega), ← drop_eq_u16 (by omega), ← drop_eq_u16 (by omega), ← drop_eq_u16 (by omega),
            ← drop_eq_u16 (by omega), ← drop_eq_u8 (by omega)]
        _ = _ := by simp only [hcurve, List.drop_of_length_le (show p.length ≤ 45 by omega), List.append_assoc,
            List.append_nil, List.flatMap_map]
    · cases h
  · rintro ⟨hindex, hwidth, hheight, hshift, hmin, hmax, hlength, hcurve, rfl⟩
    obtain ⟨index, width, height, shift, minDot, maxDot, curve⟩ := x
    simp only at *
    rw [if_pos]
    · rw [Option.some_inj, ScreenShape.mk.injEq]
      refine ⟨?_, ?_, ?_, ?_, ?_, ?_, map_range_eq hlength.symm fun i c hc =>
        (halfAt_record u16_length hc rfl rfl (by omega)).trans (halfAt_u16 (hcurve c (List.mem_of_getElem? hc)))⟩
      all_goals simp [u8, u16, halfAt]
      all_goals omega
    · simp [u8, length_flatMap_const u16_length, hlength]
      omega

/-- The bytes of a band descriptor: declared length and check word (R21). -/
theorem descriptor_length (d : Nat × Half) : (u32 d.1 ++ u16 d.2.toNat).length = 6 := rfl

theorem parseOpen_iff (p : List Byte) (x : ParcelHeader) : parseOpen p = some x ↔
      x.key.edition < 256 ∧ x.key.section_ ≤ 31 ∧ 1 ≤ x.key.page ∧ x.key.page < 256 ∧ x.key.separation ≤ 3 ∧
      x.version ≤ 65534 ∧ (∀ v, x.supersedes = some v → v < x.version) ∧ 64 ≤ x.width ∧ x.width ≤ 16384 ∧
      1 ≤ x.descriptors.length ∧ x.descriptors.length ≤ 384 ∧ (∀ d ∈ x.descriptors, 1 ≤ d.1 ∧ d.1 ≤ 1048576) ∧
      p = [0x4B, 0x44, 0xB4, 0xBB] ++ u8 x.key.edition ++ u8 x.key.section_ ++ u8 x.key.page ++
        u8 x.key.separation ++ u16 x.version ++ u16 (x.supersedes.getD 65535) ++ u16 x.width ++
        u16 x.descriptors.length ++ x.descriptors.flatMap (fun d => u32 d.1 ++ u16 d.2.toNat) := by
  unfold parseOpen
  constructor
  · intro h
    simp only at h
    split at h
    · rename_i hp
      obtain ⟨hmin, hsign, hsection, hpage, hseparation, hversion, hsup, hwidth, hwidth', hn, hn', hlength, hd⟩ := hp
      obtain rfl := Option.some.inj h
      have hsup' : (if halfAt p 10 = 65535 then none else some (halfAt p 10)).getD 65535 = halfAt p 10 := by
        split <;> simp [*]
      have htable : p.drop 16 = (descriptorsAt p (halfAt p 14)).flatMap (fun d => u32 d.1 ++ u16 d.2.toNat) := by
        have := drop_eq_records (p := p) (k := 6) (enc := fun i => u32 (wordAt p i) ++ u16 (halfAt p (i + 4))) 16
          (halfAt p 14) fun i hi => by
            rw [List.append_assoc, show 16 + 6 * (i + 1) = 16 + 6 * i + 4 + 2 by omega, ← drop_eq_u16 (by omega),
              ← drop_eq_u32 (by omega)]
        rw [this, List.drop_of_length_le (by omega), List.append_nil, descriptorsAt, List.flatMap_map]
        refine List.flatMap_congr fun i _ => ?_
        have hcheck := halfAt_lt p (16 + 6 * i + 4)
        rw [show 20 + 6 * i = 16 + 6 * i + 4 by omega, BitVec.toNat_ofNat, Nat.mod_eq_of_lt hcheck]
      refine ⟨byteAt_lt p 4, hsection, hpage, byteAt_lt p 6, hseparation, hversion, ?_, hwidth, hwidth',
        by simpa [descriptorsAt] using hn, by simpa [descriptorsAt] using hn', by simpa using hd, ?_⟩
      · intro v hv
        simp only at hv ⊢
        split at hv
        · cases hv
        · obtain rfl := Option.some.inj hv
          omega
      · calc p = p.take 4 ++ p.drop 4 := (List.take_append_drop 4 p).symm
          _ = [0x4B, 0x44, 0xB4, 0xBB] ++ (u8 (byteAt p 4) ++ (u8 (byteAt p 5) ++ (u8 (byteAt p 6) ++
              (u8 (byteAt p 7) ++ (u16 (halfAt p 8) ++ (u16 (halfAt p 10) ++ (u16 (halfAt p 12) ++
              (u16 (halfAt p 14) ++ p.drop 16)))))))) := by
            rw [← drop_eq_u16 (by omega), ← drop_eq_u16 (by omega), ← drop_eq_u16 (by omega), ← drop_eq_u16 (by omega),
              ← drop_eq_u8 (by omega), ← drop_eq_u8 (by omega), ← drop_eq_u8 (by omega), ← drop_eq_u8 (by omega), hsign]
          _ = _ := by
            simp only [hsup', htable, keyAt, List.append_assoc]
            simp only [descriptorsAt, List.length_map, List.length_range]
    · cases h
  · rintro ⟨hedition, hsection, hpage, hpage', hseparation, hversion, hsup, hwidth, hwidth', hn, hn', hd, rfl⟩
    obtain ⟨⟨edition, section_, page, separation⟩, version, supersedes, width, descriptors⟩ := x
    simp only at *
    set p := [0x4B, 0x44, 0xB4, 0xBB] ++ u8 edition ++ u8 section_ ++ u8 page ++ u8 separation ++ u16 version ++
      u16 (supersedes.getD 65535) ++ u16 width ++ u16 descriptors.length with hp
    set q := descriptors.flatMap (fun d => u32 d.1 ++ u16 d.2.toNat) with hq
    have hsup' : supersedes.getD 65535 ≤ 65535 ∧ (supersedes.getD 65535 = 65535 ∨ supersedes.getD 65535 < version) ∧
        (if supersedes.getD 65535 = 65535 then none else some (supersedes.getD 65535)) = supersedes := by
      cases supersedes with
      | none => simp
      | some v =>
        have := hsup v rfl
        simp only [Option.getD_some]
        rw [if_neg (by omega)]
        exact ⟨by omega, .inr this, rfl⟩
    obtain ⟨hsupmax, hsupcase, hsupback⟩ := hsup'
    have hsupAt : halfAt (p ++ q) 10 = supersedes.getD 65535 := by
      simp [hp, u8, u16, halfAt]
      omega
    have hversionAt : halfAt (p ++ q) 8 = version := by
      simp [hp, u8, u16, halfAt]
      omega
    have hcount : halfAt (p ++ q) 14 = descriptors.length := by
      simp [hp, u8, u16, halfAt]
      omega
    have hwidthAt : halfAt (p ++ q) 12 = width := by
      simp [hp, u8, u16, halfAt]
      omega
    have hkey : keyAt (p ++ q) 4 = ⟨edition, section_, page, separation⟩ := by
      simp [hp, keyAt, u8]
      omega
    have htable : descriptorsAt (p ++ q) descriptors.length = descriptors := by
      refine map_range_eq rfl fun i d hi => ?_
      have hd' := hd d (List.mem_of_getElem? hi)
      have hlen := wordAt_record descriptor_length (pre := p) (m := 16 + 6 * i) (j := 0) hi rfl rfl (by omega)
      have hcheck := halfAt_record descriptor_length (pre := p) (m := 20 + 6 * i) (j := 4) hi rfl
        (by simp [hp]; omega) (by omega)
      rw [hlen, hcheck, wordAt_u32_append (by omega)]
      have : halfAt (u32 d.1 ++ u16 d.2.toNat) 4 = d.2.toNat :=
        (halfAt_append_right (u32 d.1) _ 0).trans (halfAt_u16 d.2.isLt)
      rw [this, BitVec.ofNat_toNat, BitVec.setWidth_eq]
    rw [hcount, hversionAt, hsupAt, hwidthAt, hkey, htable, hsupback, if_pos]
    refine ⟨?_, ?_, ?_, ?_, ?_, hversion, hsupcase, hwidth, hwidth', hn, hn', ?_, by simpa using hd⟩
    · simp [hp]; omega
    · simp [hp]
    · simp [hp, u8]; omega
    · simp [hp, u8]; omega
    · simp [hp, u8]; omega
    · simp [hp, hq, length_flatMap_const descriptor_length]; omega

/-! ## PLATE.QUEUE (R124) -/

/-- A page slot as PLATE.QUEUE lays it out: its key and x0 (R124). -/
def slotBytes (t : JobSlot) : List Byte :=
  u8 t.key.edition ++ u8 t.key.section_ ++ u8 t.key.page ++ u8 t.key.separation ++ u16 t.x0

theorem slotBytes_length (t : JobSlot) : (slotBytes t).length = 6 := rfl

theorem slotBytes_jobSlotAt (p : List Byte) (i : Nat) (h : i + 5 < p.length) :
    p.drop i = slotBytes (jobSlotAt p i) ++ p.drop (i + 6) := by
  simp only [slotBytes, jobSlotAt, keyAt, List.append_assoc]
  rw [← drop_eq_u16 (by omega), ← drop_eq_u8 (by omega), ← drop_eq_u8 (by omega), ← drop_eq_u8 (by omega),
    ← drop_eq_u8 (by omega)]

/-- The slot at an offset depends on its six bytes alone. -/
theorem jobSlotAt_record {pre : List Byte} {l : List JobSlot} {a i : Nat} {t : JobSlot} (ht : l[i]? = some t)
    (ha : pre.length = a) (hkey : t.key.edition < 256 ∧ t.key.section_ < 256 ∧ t.key.page < 256 ∧ t.key.separation < 256)
    (hx0 : t.x0 < 65536) (hbound : t.bound = none) : jobSlotAt (pre ++ l.flatMap slotBytes) (a + 6 * i) = t := by
  have hbyte (j : Nat) (hj : j < 6) : byteAt (pre ++ l.flatMap slotBytes) (a + 6 * i + j) = byteAt (slotBytes t) j :=
    byteAt_record slotBytes_length ht ha rfl hj
  have hhalf : halfAt (pre ++ l.flatMap slotBytes) (a + 6 * i + 4) = halfAt (slotBytes t) 4 :=
    halfAt_record slotBytes_length ht ha rfl (by omega)
  obtain ⟨⟨edition, section_, page, separation⟩, x0, bound⟩ := t
  simp only at *
  subst hbound
  rw [jobSlotAt, keyAt, hhalf, hbyte 1 (by omega), hbyte 2 (by omega), hbyte 3 (by omega), ← Nat.add_zero (a + 6 * i),
    hbyte 0 (by omega)]
  simp [slotBytes, u8, u16, halfAt]
  omega

theorem x0sDiffer_iff {l : List JobSlot} (hl : l.length = 1 ∨ l.length = 2) :
    x0sDiffer l = true ↔ (l.map JobSlot.x0).Nodup := by
  match l, hl with
  | [t], _ => simp [x0sDiffer]
  | [t, u], _ => simp [x0sDiffer]

/-- A slot read from a payload passes its own checks exactly when its fields are in their ranges (R124). -/
theorem jobSlotSound_iff (separation : Nat) (t : JobSlot) : jobSlotSound separation t = true ↔
    t.key.section_ ≤ 31 ∧ 1 ≤ t.key.page ∧ t.key.separation = separation ∧ t.x0 ≤ 32767 := decide_eq_true_iff

theorem parseQueue_iff (p : List Byte) (j : Job) : parseQueue p = some j ↔
      1 ≤ j.id ∧ j.id ≤ 65535 ∧ j.separation ≤ 3 ∧ j.setIndex ≤ 7 ∧ j.top % 64 = 0 ∧ j.top ≤ 32704 ∧
      1 ≤ j.bp ∧ j.bp ≤ 512 ∧ 64 ≤ j.wp ∧ j.wp ≤ 32768 ∧ (j.slots.length = 1 ∨ j.slots.length = 2) ∧
      (∀ t ∈ j.slots, t.bound = none ∧ t.key.edition < 256 ∧ t.key.section_ ≤ 31 ∧ 1 ≤ t.key.page ∧
        t.key.page < 256 ∧ t.key.separation = j.separation ∧ t.x0 ≤ 32767) ∧
      (j.slots.map JobSlot.x0).Nodup ∧
      (j.state = .queued ∧ j.generation = 0 ∧ j.cancelRequested = false ∧ j.result = none ∧ j.fit = none ∧
        j.verdict = none ∧ j.defects = 0) ∧
      p = u16 j.id ++ u8 j.separation ++ u8 j.setIndex ++ u8 (if j.policy = .hold then 0 else 1) ++ u16 j.top ++
        u16 j.bp ++ u16 j.wp ++ u8 j.slots.length ++ j.slots.flatMap slotBytes := by
  unfold parseQueue
  constructor
  · intro h
    simp only at h
    split at h
    · rename_i hp
      obtain ⟨hmin, hk, hlength, hid, hsep, hset, hpolicy, htop, htop', hbp, hbp', hwp, hwp', hslots, hx0⟩ := hp
      obtain rfl := Option.some.inj h
      simp only [List.length_map, List.length_range]
      have hslot : ∀ t ∈ (List.range (byteAt p 11)).map (fun i => jobSlotAt p (12 + 6 * i)), t.bound = none ∧
          t.key.edition < 256 ∧ t.key.section_ ≤ 31 ∧ 1 ≤ t.key.page ∧ t.key.page < 256 ∧
          t.key.separation = byteAt p 2 ∧ t.x0 ≤ 32767 := by
        intro t ht
        obtain ⟨hsection, hpage, hseparation, hx⟩ := (jobSlotSound_iff _ t).1 (List.all_eq_true.1 hslots t ht)
        obtain ⟨i, -, rfl⟩ := List.mem_map.1 ht
        exact ⟨rfl, byteAt_lt p _, hsection, hpage, byteAt_lt p _, hseparation, hx⟩
      have htable : p.drop 12 =
          ((List.range (byteAt p 11)).map (fun i => jobSlotAt p (12 + 6 * i))).flatMap slotBytes := by
        rw [drop_eq_records (k := 6) (enc := fun i => slotBytes (jobSlotAt p i)) 12 (byteAt p 11) fun i hi =>
          slotBytes_jobSlotAt p _ (by omega), List.drop_of_length_le (by omega), List.append_nil, List.flatMap_map]
      have hpol : u8 (if (if byteAt p 4 = 0 then Policy.hold else Policy.run) = .hold then 0 else 1) = u8 (byteAt p 4) := by
        obtain h0 | h1 : byteAt p 4 = 0 ∨ byteAt p 4 = 1 := by omega
        · rw [h0]; rfl
        · rw [h1]; rfl
      refine ⟨hid, by have := halfAt_lt p 0; omega, hsep, hset, htop, htop', hbp, hbp', hwp, hwp', hk, hslot,
        (x0sDiffer_iff (by simpa using hk)).1 hx0, by simp, ?_⟩
      calc p = p.drop 0 := rfl
        _ = u16 (halfAt p 0) ++ (u8 (byteAt p 2) ++ (u8 (byteAt p 3) ++ (u8 (byteAt p 4) ++ (u16 (halfAt p 5) ++
            (u16 (halfAt p 7) ++ (u16 (halfAt p 9) ++ (u8 (byteAt p 11) ++ p.drop 12))))))) := by
          rw [← drop_eq_u8 (by omega), ← drop_eq_u16 (by omega), ← drop_eq_u16 (by omega), ← drop_eq_u16 (by omega),
            ← drop_eq_u8 (by omega), ← drop_eq_u8 (by omega), ← drop_eq_u8 (by omega), ← drop_eq_u16 (by omega)]
        _ = _ := by simp only [hpol, htable, List.append_assoc]
    · cases h
  · rintro ⟨hid, hid', hsep, hset, htop, htop', hbp, hbp', hwp, hwp', hk, hslots, hx0, hqueued, rfl⟩
    obtain ⟨id, separation, setIndex, policy, top, bp, wp, slots, state, generation, cancelRequested, result, fit, verdict,
      defects⟩ := j
    simp only at *
    obtain ⟨rfl, rfl, rfl, rfl, rfl, rfl, rfl⟩ := hqueued
    set head := u16 id ++ u8 separation ++ u8 setIndex ++ u8 (if policy = .hold then 0 else 1) ++ u16 top ++ u16 bp ++
      u16 wp ++ u8 slots.length with hhead
    have hpolicy : (if policy = .hold then 0 else 1) ≤ 1 := by split <;> omega
    have hpolicy' : (if (if policy = .hold then 0 else 1) = 0 then Policy.hold else Policy.run) = policy := by
      cases policy <;> rfl
    have hidAt : halfAt (head ++ slots.flatMap slotBytes) 0 = id := by
      simp [hhead, u8, u16, halfAt]; omega
    have hsepAt : byteAt (head ++ slots.flatMap slotBytes) 2 = separation := by
      simp [hhead, u8, u16]; omega
    have hsetAt : byteAt (head ++ slots.flatMap slotBytes) 3 = setIndex := by
      simp [hhead, u8, u16]; omega
    have hpolicyAt : byteAt (head ++ slots.flatMap slotBytes) 4 = if policy = .hold then 0 else 1 := by
      simp [hhead, u8, u16]; omega
    have htopAt : halfAt (head ++ slots.flatMap slotBytes) 5 = top := by
      simp [hhead, u8, u16, halfAt]; omega
    have hbpAt : halfAt (head ++ slots.flatMap slotBytes) 7 = bp := by
      simp [hhead, u8, u16, halfAt]; omega
    have hwpAt : halfAt (head ++ slots.flatMap slotBytes) 9 = wp := by
      simp [hhead, u8, u16, halfAt]; omega
    have hcount : byteAt (head ++ slots.flatMap slotBytes) 11 = slots.length := by
      simp [hhead, u8, u16]; omega
    have htable : (List.range slots.length).map (fun i => jobSlotAt (head ++ slots.flatMap slotBytes) (12 + 6 * i)) =
        slots := map_range_eq rfl fun i t ht => by
      obtain ⟨hbound, hedition, hsection, -, hpage, hseparation, hx⟩ := hslots t (List.mem_of_getElem? ht)
      exact jobSlotAt_record ht rfl ⟨hedition, by omega, hpage, by omega⟩ (by omega) hbound
    rw [hidAt, hsepAt, hsetAt, hpolicyAt, htopAt, hbpAt, hwpAt, hcount, htable, hpolicy', if_pos]
    refine ⟨?_, hk, ?_, hid, hsep, hset, hpolicy, htop, htop', hbp, hbp', hwp, hwp', ?_, (x0sDiffer_iff hk).2 hx0⟩
    · simp [hhead]; omega
    · simp [hhead, length_flatMap_const slotBytes_length]; omega
    · rw [List.all_eq_true]
      intro t ht
      obtain ⟨-, -, hsection, hpage, -, hseparation, hx⟩ := hslots t ht
      exact (jobSlotSound_iff _ t).2 ⟨hsection, hpage, hseparation, hx⟩

/-! ## HEAD.SETUP (R145) -/

theorem window_length (w : Nat × Nat) : (u16 w.1 ++ u16 w.2).length = 4 := rfl

theorem parseHeadSetup_iff (p : List Byte) (x : HeadSettings) : parseHeadSetup p = some x ↔
      x.nrev < 65536 ∧ x.lead < 256 ∧ x.swath < 256 ∧ x.half < 256 ∧ x.dwellLimit < 256 ∧ x.watermark < 65536 ∧
      x.windows.length = 32 ∧ (∀ w ∈ x.windows, w.1 < 65536 ∧ w.2 < 65536) ∧
      p = u16 x.nrev ++ u8 x.lead ++ u8 x.swath ++ u8 x.half ++ u8 x.dwellLimit ++ u16 x.watermark ++
        u32 x.enables.toNat ++ x.windows.flatMap (fun w => u16 w.1 ++ u16 w.2) := by
  unfold parseHeadSetup
  constructor
  · intro h
    split at h
    · rename_i hlength
      obtain rfl := Option.some.inj h
      refine ⟨halfAt_lt p 0, byteAt_lt p 2, byteAt_lt p 3, byteAt_lt p 4, byteAt_lt p 5, halfAt_lt p 6, by simp,
        List.forall_mem_map.2 fun k _ => ⟨halfAt_lt p _, halfAt_lt p _⟩, ?_⟩
      have htable : p.drop 12 = (List.range 32).flatMap
          (fun k => u16 (halfAt p (12 + 4 * k)) ++ u16 (halfAt p (14 + 4 * k))) := by
        rw [drop_eq_records (k := 4) (enc := fun i => u16 (halfAt p i) ++ u16 (halfAt p (i + 2))) 12 32 fun i hi => by
            rw [List.append_assoc, show 12 + 4 * (i + 1) = 12 + 4 * i + 2 + 2 by omega, ← drop_eq_u16 (by omega),
              ← drop_eq_u16 (by omega)],
          List.drop_of_length_le (by omega), List.append_nil]
        exact List.flatMap_congr fun i _ => by rw [show 14 + 4 * i = 12 + 4 * i + 2 by omega]
      calc p = p.drop 0 := rfl
        _ = u16 (halfAt p 0) ++ (u8 (byteAt p 2) ++ (u8 (byteAt p 3) ++ (u8 (byteAt p 4) ++ (u8 (byteAt p 5) ++
            (u16 (halfAt p 6) ++ (u32 (wordAt p 8) ++ p.drop 12)))))) := by
          rw [← drop_eq_u32 (by omega), ← drop_eq_u16 (by omega), ← drop_eq_u8 (by omega), ← drop_eq_u8 (by omega),
            ← drop_eq_u8 (by omega), ← drop_eq_u8 (by omega), ← drop_eq_u16 (by omega)]
        _ = _ := by simp only [htable, BitVec.toNat_ofNat, Nat.mod_eq_of_lt (wordAt_lt p 8), List.append_assoc,
            List.flatMap_map, Nat.reducePow]
    · cases h
  · rintro ⟨hnrev, hlead, hswath, hhalf, hdwell, hmark, hcount, hwindows, rfl⟩
    obtain ⟨nrev, lead, swath, half, dwellLimit, watermark, enables, windows⟩ := x
    simp only at *
    have henables := enables.isLt
    rw [if_pos]
    · rw [Option.some_inj, HeadSettings.mk.injEq]
      refine ⟨?_, ?_, ?_, ?_, ?_, ?_, ?_, map_range_eq hcount.symm fun k w hw => ?_⟩
      case refine_7 =>
        apply BitVec.eq_of_toNat_eq
        simp [u8, u16, u32, wordAt, halfAt]
        omega
      case refine_8 =>
        obtain ⟨hlow, hhigh⟩ := hwindows w (List.mem_of_getElem? hw)
        refine Prod.ext ((halfAt_record window_length hw rfl rfl (by omega)).trans (halfAt_u16_append hlow _)) ?_
        exact (halfAt_record window_length (j := 2) hw rfl (by simp; omega) (by omega)).trans
          ((halfAt_append_right (u16 w.1) _ 0).trans (halfAt_u16 hhigh))
      all_goals simp [u8, u16, halfAt]
      all_goals omega
    · simp [length_flatMap_const window_length, hcount]

/-- Settles O11, parser by parser. -/
theorem payloadsAreReadAsLaidOut : Obligations.PayloadsAreReadAsLaidOut := fun p =>
  ⟨parseOpen_iff p, parseBand_iff p, parseClose_iff p, parsePageQuery_iff p, parseDrop_iff p, parseScreenBegin_iff p,
    parseQueue_iff p, parseHeadSetup_iff p⟩

end Sys2Proof.Machine

/-! The band coding byte by byte, and the raster unit's reading of a band against the receiver's check (R30 to R33,
R107 to R109). -/

namespace Sys2Proof.Machine

/-! ## The coding byte by byte -/

theorem scanByte_code {width line px : Nat} {black : Bool} {b : Byte} (hlow : 240 ≤ b.toNat) (hhigh : b.toNat ≤ 254) :
    scanByte width (.lineArt line px black none) b = (.lineArt line px black (some b.toNat), .none) := by
  simp only [scanByte]
  rw [if_neg (by omega), if_pos hlow]

theorem scanByte_endCode {width line px : Nat} {black : Bool} {b : Byte} (hb : b.toNat = 255) :
    scanByte width (.lineArt line px black none) b =
      (if line = 63 then .count else .lineArt (line + 1) 0 false none, .none) := by
  simp only [scanByte]
  rw [if_pos hb]

/-- A run code, or the byte behind a long run's code, gives a run (R31). -/
theorem scanByte_run {width line px : Nat} {black : Bool} {b : Byte} {code : Option Nat}
    (h : (code = none ∧ b.toNat < 240) ∨ ∃ c, code = some c) :
    scanByte width (.lineArt line px black code) b =
      scanRun width line px black (code.elim b.toNat fun c => 240 + (c - 240) * 256 + b.toNat) := by
  rcases h with ⟨rfl, hb⟩ | ⟨c, rfl⟩
  · simp only [scanByte, Option.elim]
    rw [if_neg (by omega), if_neg (by omega)]
  · rfl

theorem scanByte_count (width : Nat) (b : Byte) :
    scanByte width .count b = (if 16 < b.toNat then .fault .windowCount else scanSlices b.toNat, .none) := rfl

/-- A field byte that completes no field, or a sound one, joins the bytes read (R32). -/
theorem scanByte_fields {width left : Nat} {got : List Byte} {b : Byte} (h : sliceFieldsSound (got ++ [b]) = true)
    (hlength : (got ++ [b]).length ≠ 7) : scanByte width (.fields left got) b = (.fields left (got ++ [b]), .none) := by
  simp only [scanByte, h, Bool.not_true, Bool.false_eq_true, if_false]
  rw [if_neg hlength]

theorem scanByte_fields_unsound {width left : Nat} {got : List Byte} {b : Byte}
    (h : sliceFieldsSound (got ++ [b]) = false) :
    scanByte width (.fields left got) b = (.fault .windowBounds, .none) := by
  simp [scanByte, h]

theorem scanByte_lastField {width left : Nat} {got : List Byte} {b : Byte} (h : sliceFieldsSound (got ++ [b]) = true)
    (hlength : (got ++ [b]).length = 7) : scanByte width (.fields left got) b =
      (.samples left (sliceOf (got ++ [b])) 0, .slice (sliceOf (got ++ [b]))) := by
  simp only [scanByte, h, Bool.not_true, Bool.false_eq_true, if_false]
  rw [if_pos hlength]

theorem scanByte_samples (width left i : Nat) (sl : Slice) (b : Byte) : scanByte width (.samples left sl i) b =
    (if i + 1 < sl.w * sl.rows then .samples left sl (i + 1) else scanSlices (left - 1),
      .sample sl (i / sl.w) (i % sl.w) b) := rfl

/-! ## The check over a run of bytes -/

theorem scanChunk_cons (width : Nat) (sc : Scan) (b : Byte) (bs : List Byte) :
    scanChunk width sc (b :: bs) = scanChunk width (scanByte width sc b).1 bs := rfl

/-- A fault stays as found (R33). -/
theorem scanChunk_fault (width : Nat) (cause : DamageCause) (bs : List Byte) :
    scanChunk width (.fault cause) bs = .fault cause := by
  induction bs with
  | nil => rfl
  | cons b bs ih => exact ih

/-- Behind the correct end every further byte is TRAILING (R33). -/
theorem scanChunk_done (width : Nat) (b : Byte) (bs : List Byte) :
    scanChunk width .done (b :: bs) = .fault .trailing := scanChunk_fault width .trailing bs

theorem scanSlices_not_fault (n : Nat) (cause : DamageCause) : scanSlices n ≠ .fault cause := by
  cases n <;> simp [scanSlices]

/-- TRAILING is found behind the correct end alone. -/
theorem scanByte_not_trailing {width : Nat} {sc : Scan} {b : Byte} (hdone : sc ≠ .done)
    (hfault : ∀ cause, sc ≠ .fault cause) : (scanByte width sc b).1 ≠ .fault .trailing := by
  have hrun (line px : Nat) (black : Bool) (n : Nat) : (scanRun width line px black n).1 ≠ .fault .trailing := by
    unfold scanRun
    split <;> simp
  cases sc with
  | done => exact absurd rfl hdone
  | fault cause => exact absurd rfl (hfault cause)
  | lineArt line px black code =>
    cases code with
    | some c => exact hrun _ _ _ _
    | none =>
      simp only [scanByte]
      (repeat' split) <;> simp [hrun]
  | count =>
    rw [scanByte_count]
    dsimp only
    split
    · simp
    · exact scanSlices_not_fault _ _
  | fields left got =>
    simp only [scanByte]
    (repeat' split) <;> simp
  | samples left sl i =>
    rw [scanByte_samples]
    dsimp only
    split
    · simp
    · exact scanSlices_not_fault _ _

/-! ## RU's reading (R107) -/

section
variable (t : ScreenSet) (cache : List Nat) (top : Nat)

theorem decodeBytes_done {bs : List Byte} {ru : Ru} {c : DecodeContext} (h : c.scan = .done) :
    decodeBytes t cache top bs ru c = (ru, c, none) := by
  cases bs with
  | nil => rfl
  | cons b bs => simp only [decodeBytes, h]

theorem decodeBytes_fault {b : Byte} {bs : List Byte} {ru : Ru} {c : DecodeContext} {cause : DamageCause}
    (hdone : c.scan ≠ .done) (h : (scanByte c.slot.width c.scan b).1 = .fault cause) :
    decodeBytes t cache top (b :: bs) ru c = (ru, { c with read := c.read + 1 }, some cause) := by
  rw [decodeBytes]
  split
  · exact absurd ‹_› hdone
  · split
    · rename_i hs
      rw [hs] at h
      obtain rfl := Scan.fault.inj h
      rfl
    · rename_i sc' ev hnot hs
      rw [hs] at h
      subst h
      exact (hnot cause rfl).elim

theorem decodeBytes_step {b : Byte} {bs : List Byte} {ru : Ru} {c : DecodeContext} (hdone : c.scan ≠ .done)
    (h : ∀ cause, (scanByte c.slot.width c.scan b).1 ≠ .fault cause) :
    decodeBytes t cache top (b :: bs) ru c =
      decodeBytes t cache top bs (applyEvent t cache c.slot top (scanByte c.slot.width c.scan b).2 ru)
        { c with scan := (scanByte c.slot.width c.scan b).1, read := c.read + 1 } := by
  rw [decodeBytes]
  split
  · exact absurd ‹_› hdone
  · split
    · rename_i hs
      exact absurd (congrArg Prod.fst hs) (h _)
    · rename_i hs
      rw [hs]

/-- Where the check finds no fault, RU reads every byte and stands where the check stands. -/
theorem decodeBytes_of_check_goes_on (bs : List Byte) : ∀ (ru : Ru) (c : DecodeContext),
    (∀ cause, scanChunk c.slot.width c.scan bs ≠ .fault cause) →
    (decodeBytes t cache top bs ru c).2.2 = none ∧
      (decodeBytes t cache top bs ru c).2.1 =
        { c with scan := scanChunk c.slot.width c.scan bs, read := c.read + bs.length } := by
  induction bs with
  | nil => exact fun ru c _ => ⟨rfl, rfl⟩
  | cons b bs ih =>
    intro ru c h
    have hdone : c.scan ≠ .done := fun hd => h .trailing (by rw [hd, scanChunk_done])
    have hstep : ∀ cause, (scanByte c.slot.width c.scan b).1 ≠ .fault cause := fun cause hf =>
      h cause (by rw [scanChunk_cons, hf, scanChunk_fault])
    rw [decodeBytes_step t cache top hdone hstep]
    obtain ⟨hnone, hcontext⟩ := ih (applyEvent t cache c.slot top (scanByte c.slot.width c.scan b).2 ru)
      { c with scan := (scanByte c.slot.width c.scan b).1, read := c.read + 1 } h
    refine ⟨hnone, hcontext.trans ?_⟩
    simp only [List.length_cons, DecodeContext.mk.injEq, true_and]
    exact ⟨by omega, rfl⟩

/-- Where the check stops at a fault, RU finds the same one, but for TRAILING, before which it stops at the correct
end. -/
theorem decodeBytes_of_check_stops (bs : List Byte) : ∀ (ru : Ru) (c : DecodeContext) (cause : DamageCause),
    (∀ old, c.scan ≠ .fault old) → scanChunk c.slot.width c.scan bs = .fault cause →
    (cause ≠ .trailing → (decodeBytes t cache top bs ru c).2.2 = some cause) ∧
      (cause = .trailing → (decodeBytes t cache top bs ru c).2.2 = none ∧
        (decodeBytes t cache top bs ru c).2.1.scan = .done ∧
        (decodeBytes t cache top bs ru c).2.1.read < c.read + bs.length) := by
  induction bs with
  | nil => exact fun ru c cause hold h => absurd h (hold cause)
  | cons b bs ih =>
    intro ru c cause hold h
    by_cases hdone : c.scan = .done
    · rw [hdone, scanChunk_done] at h
      obtain rfl := Scan.fault.inj h
      rw [decodeBytes_done t cache top hdone]
      exact ⟨fun hne => absurd rfl hne, fun _ => ⟨rfl, hdone, by simp⟩⟩
    · rw [scanChunk_cons] at h
      by_cases hfault : ∃ found, (scanByte c.slot.width c.scan b).1 = .fault found
      · obtain ⟨found, hfound⟩ := hfault
        rw [hfound, scanChunk_fault] at h
        obtain rfl := Scan.fault.inj h
        rw [decodeBytes_fault t cache top hdone hfound]
        refine ⟨fun _ => rfl, ?_⟩
        rintro rfl
        exact absurd hfound (scanByte_not_trailing hdone hold)
      · rw [not_exists] at hfault
        rw [decodeBytes_step t cache top hdone hfault]
        obtain ⟨hother, htrailing⟩ := ih (applyEvent t cache c.slot top (scanByte c.slot.width c.scan b).2 ru)
          { c with scan := (scanByte c.slot.width c.scan b).1, read := c.read + 1 } cause hfault h
        refine ⟨hother, fun hc => ?_⟩
        obtain ⟨hnone, hend, hread⟩ := htrailing hc
        refine ⟨hnone, hend, ?_⟩
        simp only [List.length_cons] at hread ⊢
        omega

end

/-- Settles O30: the coding byte by byte, the check as its iteration, and RU's reading by induction on the bytes. -/
theorem rasterUnitReadsAsTheReceiverChecks : Obligations.RasterUnitReadsAsTheReceiverChecks := by
  refine ⟨fun width line px n black b code => ?_, fun width left b x0 x1 y z w0 w1 => ?_,
    fun width sc b bs => ⟨rfl, rfl, ?_⟩, fun t cache top bs ru c =>
    ⟨decodeBytes_of_check_goes_on t cache top bs ru c, decodeBytes_of_check_stops t cache top bs ru c⟩⟩
  · intro run
    have hrun : run = code.elim b.toNat fun c => 240 + (c - 240) * 256 + b.toNat := by cases code <;> rfl
    refine ⟨fun hcode => ?_, scanByte_code, fun hb hline => ?_, fun hb hline => ?_, fun hb => ?_, fun hb => ?_,
      fun hb hn => ?_, rfl, fun _ => rfl⟩
    · have hcode' : (code = none ∧ b.toNat < 240) ∨ ∃ c, code = some c :=
        hcode.imp_right fun ⟨c, hc, _⟩ => ⟨c, hc⟩
      rw [scanByte_run hcode', ← hrun]
      unfold scanRun
      exact ⟨fun hfits => if_neg (by omega), fun hover => if_pos hover⟩
    · rw [scanByte_endCode hb, if_neg (by omega)]
    · rw [scanByte_endCode hb, if_pos hline]
    · rw [scanByte_count, if_pos hb]
    · rw [scanByte_count, hb]
      rfl
    · rw [scanByte_count, hb, if_neg (by omega)]
      rfl
  · intro w slice
    refine ⟨fun got hgot => ?_, fun hz => ?_, fun hz => ?_, fun hw hw' => ?_, fun hw => ?_, fun hr hr' hy => ?_,
      fun hr => ?_, fun sl i => ⟨fun hi => ?_, fun hi => ?_, fun hi => ?_⟩⟩
    · rcases hgot with rfl | rfl | rfl | rfl <;> exact scanByte_fields rfl (by simp)
    · exact scanByte_fields (by simpa [sliceFieldsSound, or_assoc] using hz) (by simp)
    · exact scanByte_fields_unsound (by simpa [sliceFieldsSound, and_assoc] using hz)
    · exact scanByte_fields (decide_eq_true ⟨hw, hw'⟩) (by simp)
    · have hw' : ¬(1 ≤ w0.toNat + 256 * b.toNat ∧ w0.toNat + 256 * b.toNat ≤ 4096) := by omega
      exact scanByte_fields_unsound (decide_eq_false hw')
    · exact scanByte_lastField (decide_eq_true ⟨hr, hr', hy⟩) rfl
    · have hr' : ¬(1 ≤ b.toNat ∧ b.toNat ≤ 64 ∧ y.toNat + b.toNat * z.toNat ≤ 64) := by omega
      exact scanByte_fields_unsound (decide_eq_false hr')
    · rw [scanByte_samples, if_pos hi]
    · rw [scanByte_samples, if_neg (by omega)]
      rfl
    · rw [scanByte_samples, if_neg (by omega)]
      rfl
  · cases sc <;> rfl

end Sys2Proof.Machine

/-! What emptying the chunk buffer, ending a repair, releasing, retiring, binding and unbinding do to an entry (chapter
3), whatever the chunk buffer holds. -/

namespace Sys2Proof.Machine

/-! ## The chunk buffer (R46) -/

theorem emptyChunkOf_own {h : Nat} {s : State} {k : Chunk} (hk : s.prx.chunk = some k) (hh : k.handle = h) :
    emptyChunkOf h s = { s with psc := s.psc.dropped .prxWrite, prx := { s.prx with chunk := none } } := by
  simp [emptyChunkOf, hk, hh, dropRequests, Psc.dropped]

/-- A chunk left in the chunk buffer is another entry's. -/
theorem emptyChunkOf_leaves {h : Nat} {s : State} :
    ∀ c, (emptyChunkOf h s).prx.chunk = some c → s.prx.chunk = some c ∧ c.handle ≠ h := by
  intro c hc
  by_cases hown : ∃ k, s.prx.chunk = some k ∧ k.handle = h
  · obtain ⟨k, hk, hh⟩ := hown
    rw [emptyChunkOf_own hk hh] at hc
    cases hc
  · have hother : ∀ k, s.prx.chunk = some k → k.handle ≠ h := fun k hk hh => hown ⟨k, hk, hh⟩
    rw [emptyChunkOf_other hother] at hc
    exact ⟨hc, hother c hc⟩

theorem emptyChunkOf_emptyChunkOf (h : Nat) (s : State) : emptyChunkOf h (emptyChunkOf h s) = emptyChunkOf h s :=
  emptyChunkOf_other fun c hc => (emptyChunkOf_leaves c hc).2

/-- The chunk buffer's emptying leaves the directory's tables alone. -/
theorem entry_emptyChunkOf (h g : Nat) (s : State) : entry (emptyChunkOf h s) g = entry s g := by simp [entry]

theorem freedContexts_emptyChunkOf (h : Nat) (s : State) : freedContexts (emptyChunkOf h s) h = freedContexts s h := by
  simp [freedContexts, contextOf]

theorem freedContexts_some {s : State} {h i : Nat} (hi : contextOf s h = some i) :
    freedContexts s h = s.prx.contexts.set i none := by simp [freedContexts, hi]

/-! ## The end of a repair and the release (R44, R59) -/

theorem endRepair_emptyChunkOf (h : Nat) (note : Option PageEvent) (s : State) :
    endRepair h note (emptyChunkOf h s) = endRepair h note s := by
  unfold endRepair
  rw [emptyChunkOf_emptyChunkOf]

theorem releaseEntry_emptyChunkOf (h : Nat) (cause : ReleaseCause) (s : State) :
    releaseEntry h cause (emptyChunkOf h s) = releaseEntry h cause s := by
  unfold releaseEntry
  rw [emptyChunkOf_emptyChunkOf, entry_emptyChunkOf]

/-- R44, R45: what the end of an open repair leaves, whatever the chunk buffer holds. -/
theorem endRepair_eq {h : Nat} {s : State} (hh : h < s.pdir.entries.length) (note : Option PageEvent) :
    let t := emptyChunkOf h s
    let e := (entry s h).missed
    endRepair h note s = { t with
      psc := t.psc.returnChains (entry s h).openChains
      prx := { t.prx with contexts := freedContexts s h }
      pdir := { s.pdir with entries := s.pdir.entries.set h e }
      lp := match note with
        | some ev => s.lp.queueReport (e.noteOf ev h)
        | none => s.lp } := by
  have hspec := endRepair_spec h (emptyChunkOf h s) (by simpa using hh) (fun c hc => (emptyChunkOf_leaves c hc).2) note
  rw [endRepair_emptyChunkOf, entry_emptyChunkOf, freedContexts_emptyChunkOf] at hspec
  simp only [emptyChunkOf_keeps] at hspec ⊢
  exact hspec

/-- R59, R64: what the release of an entry leaves, whatever the chunk buffer holds. -/
theorem releaseEntry_eq (h : Nat) (cause : ReleaseCause) (s : State) :
    let t := emptyChunkOf h s
    let psc := t.psc.returnChains (entry s h).chains
    s.psc.freeCount ≤ psc.freeCount ∧ releaseEntry h cause s = { t with
      psc := psc
      prx := { t.prx with contexts := freedContexts s h }
      pdir := { s.pdir with entries := s.pdir.entries.set h Entry.empty }
      lp := s.lp.queueReport ((entry s h).releaseNote cause (psc.freeCount - s.psc.freeCount) h) } := by
  have hcount := (returnChains_spec (entry s h).chains (emptyChunkOf h s).psc).2
  obtain ⟨-, hspec⟩ := releaseEntry_spec h cause (emptyChunkOf h s) fun c hc => (emptyChunkOf_leaves c hc).2
  rw [releaseEntry_emptyChunkOf, entry_emptyChunkOf, freedContexts_emptyChunkOf] at hspec
  simp only [emptyChunkOf_keeps] at hspec hcount ⊢
  exact ⟨hcount, hspec⟩

/-! ## Retiring, binding and unbinding (R52, R56, R58) -/

/-- The state in which a retired or bound entry stands once an open repair of it has ended. -/
def repairEndedFirst (h : Nat) (note : Option PageEvent) (s : State) : State :=
  if contextOf s h = none then s else endRepair h note s

theorem entry_setEntry_self {h : Nat} {e : Entry} {s : State} (hh : h < s.pdir.entries.length) :
    entry (setEntry h e s) h = e := by rw [entry_set hh, if_pos rfl]

theorem entry_setEntry_other {h g : Nat} {e : Entry} {s : State} (hg : g ≠ h) :
    entry (setEntry h e s) g = entry s g := by
  by_cases hh : h < s.pdir.entries.length
  · rw [entry_set hh, if_neg hg]
  · simp [entry, setEntry, List.set_eq_of_length_le (Nat.le_of_not_lt hh)]

/-- An entry as it stands in a state whose entry table is given. -/
theorem entry_of_entries {s t : State} {h g : Nat} {e : Entry} (ht : t.pdir.entries = s.pdir.entries.set h e)
    (hh : h < s.pdir.entries.length) : entry t g = if g = h then e else entry s g := by
  rw [← entry_set (e := e) hh]
  simp [entry, setEntry, ht]

theorem endRepair_entries {h : Nat} {s : State} (hh : h < s.pdir.entries.length) (note : Option PageEvent) :
    (endRepair h note s).pdir.entries = s.pdir.entries.set h (entry s h).missed := by rw [endRepair_eq hh note]

/-- The end of a repair changes one entry, of which it keeps all but the open bands. -/
theorem entry_repairEndedFirst {h : Nat} {note : Option PageEvent} {s : State} (hh : h < s.pdir.entries.length) :
    (entry (repairEndedFirst h note s) h).refs = (entry s h).refs ∧
      ∀ g, g ≠ h → entry (repairEndedFirst h note s) g = entry s g := by
  unfold repairEndedFirst
  split
  · exact ⟨rfl, fun _ _ => rfl⟩
  · have hentry (g : Nat) := entry_of_entries (g := g) (endRepair_entries hh note) hh
    refine ⟨by rw [hentry, if_pos rfl]; rfl, fun g hg => by rw [hentry, if_neg hg]⟩

theorem length_repairEndedFirst (h : Nat) (note : Option PageEvent) (s : State) :
    (repairEndedFirst h note s).pdir.entries.length = s.pdir.entries.length := by
  unfold repairEndedFirst
  split <;> simp

theorem noteEntry_eq (ev : PageEvent) (h : Nat) (s : State) :
    noteEntry ev h s = { s with lp := s.lp.queueReport ((entry s h).noteOf ev h) } := by
  rw [noteEntry, pageNote_eq]
  rfl

/-- R52 to R54: an entry retired by the close of `by_`, before its release where it is not bound. -/
def retiredEntry (by_ g : Nat) (s : State) : State :=
  let t := repairEndedFirst g none s
  let e : Entry := { entry t g with state := .superseded }
  { t with
    pdir := { t.pdir with entries := t.pdir.entries.set g e }
    lp := t.lp.queueReport (e.noteOf (.superseded by_ (entry s by_).version e.refs) g) }

/-- R52, in the order of its steps. -/
theorem retire_unfold (by_ g : Nat) (s : State) : retire by_ g s =
    let t := repairEndedFirst g none s
    let u := setEntry g { entry t g with state := .superseded } t
    let v := noteEntry (.superseded by_ (entry u by_).version (entry u g).refs) g u
    if (entry v g).refs = 0 then releaseEntry g .superseded v else v := by
  unfold retire repairEndedFirst
  cases contextOf s g <;> rfl

theorem retire_eq {by_ g : Nat} {s : State} (hg : g < s.pdir.entries.length) (hne : g ≠ by_) :
    retire by_ g s =
      if (entry s g).refs = 0 then releaseEntry g .superseded (retiredEntry by_ g s) else retiredEntry by_ g s := by
  obtain ⟨hrefs, hother⟩ := entry_repairEndedFirst (note := none) hg
  have hlength : g < (repairEndedFirst g none s).pdir.entries.length := by rw [length_repairEndedFirst]; exact hg
  set t := repairEndedFirst g none s with ht
  set e : Entry := { entry t g with state := .superseded } with he
  have hself : entry (setEntry g e t) g = e := entry_setEntry_self hlength
  have hby : entry (setEntry g e t) by_ = entry s by_ := by
    rw [entry_setEntry_other hne.symm, hother by_ hne.symm]
  have hnote : noteEntry (.superseded by_ (entry (setEntry g e t) by_).version (entry (setEntry g e t) g).refs) g
      (setEntry g e t) = retiredEntry by_ g s := by
    rw [noteEntry_eq, hself, hby]
    rfl
  have hrefs' : (entry (retiredEntry by_ g s) g).refs = (entry s g).refs := by
    rw [← hnote, noteEntry_eq]
    exact (congrArg Entry.refs hself).trans hrefs
  have hrelease (v : State) (hv : v = retiredEntry by_ g s) :
      (if (entry v g).refs = 0 then releaseEntry g .superseded v else v) =
        if (entry s g).refs = 0 then releaseEntry g .superseded (retiredEntry by_ g s) else retiredEntry by_ g s := by
    rw [hv, hrefs']
  exact (retire_unfold by_ g s).trans (hrelease _ hnote)

theorem bindEntry_eq {h : Nat} {s : State} (hh : h < s.pdir.entries.length) :
    bindEntry s h = setEntry h
      { entry (repairEndedFirst h (some .repairEnded) s) h with refs := (entry s h).refs + 1 }
      (repairEndedFirst h (some .repairEnded) s) := by
  have hfirst : bindEntry s h = setEntry h
      { entry (repairEndedFirst h (some .repairEnded) s) h with
        refs := (entry (repairEndedFirst h (some .repairEnded) s) h).refs + 1 }
      (repairEndedFirst h (some .repairEnded) s) := by
    unfold bindEntry repairEndedFirst
    cases contextOf s h <;> rfl
  rw [hfirst, (entry_repairEndedFirst (note := some .repairEnded) hh).1]

/-- R65: the GOOD bands of an entry are marked, and the note tells how many. -/
theorem markStore_eq {h : Nat} {s : State} (hh : h < s.pdir.entries.length) :
    markStore h s = if (entry s h).goodBands = 0 then s else
      { s with
        pdir := { s.pdir with entries := s.pdir.entries.set h (entry s h).marked }
        lp := s.lp.queueReport ((entry s h).marked.noteOf (.storeDamaged (entry s h).goodBands) h) } := by
  by_cases hgood : (entry s h).goodBands = 0
  · rw [if_pos hgood]
    exact if_pos hgood
  · have hmarked : (entry s h).marked = { entry s h with
        bands := (entry s h).bands.map (fun r =>
          if r.state == .good then { r with state := .damaged, cause := some .store } else r)
        damaged := (entry s h).damaged + (entry s h).bands.countP (fun r => r.state == .good)
        state := if (entry s h).state = .complete then .damaged else (entry s h).state } := by
      simp only [Entry.marked, beq_iff_eq, hgood, ne_eq, not_false_eq_true, and_true]
      rfl
    have hset : markStore h s =
        noteEntry (.storeDamaged (entry s h).goodBands) h (setEntry h (entry s h).marked s) := by
      rw [hmarked]
      exact if_neg hgood
    rw [if_neg hgood, hset, noteEntry_eq, entry_setEntry_self hh]
    rfl

theorem unbindEntry_eq {h : Nat} {s : State} (hh : h < s.pdir.entries.length) :
    let e : Entry := { entry s h with refs := (entry s h).refs - 1 }
    unbindEntry s h =
      if e.state = .superseded then releaseEntry h .deferred (setEntry h e s)
      else if e.storeSuspect then markStore h (setEntry h { e with storeSuspect := false } s)
      else setEntry h e s := by
  intro e
  unfold unbindEntry
  simp only [entry_setEntry_self hh, setEntry_setEntry]
  rfl

/-- Settles O21: each operation by the lemma that says what it leaves. -/
theorem pagesAreReleasedRetiredAndBound : Obligations.PagesAreReleasedRetiredAndBound := by
  refine ⟨fun s h => ⟨fun ⟨k, hk, hh⟩ => emptyChunkOf_own hk hh, emptyChunkOf_other⟩, fun s h i note hh hi => ?_,
    fun s h cause hh => releaseEntry_eq h cause s, fun s h g hg hne => ?_, fun s h hh => bindEntry_eq hh,
    fun s h hh => ?_⟩
  · rw [← freedContexts_some hi]
    cases note <;> exact endRepair_eq hh _
  · have hretire := retire_eq hg hne
    exact ⟨fun hrefs => hretire.trans (if_neg hrefs), fun hrefs => hretire.trans (if_pos hrefs)⟩
  · intro e became clean
    have hunbind := unbindEntry_eq hh
    simp only at hunbind
    have hmark := markStore_eq (s := setEntry h clean s) (h := h) (by simpa using hh)
    rw [entry_setEntry_self hh] at hmark
    refine ⟨fun hsuper => ?_, fun hsuper hsuspect => ?_, fun hsuper hsuspect hgood => ?_, fun hsuper hsuspect hgood => ?_⟩
    · rw [hunbind, if_pos hsuper]
      rfl
    · rw [hunbind, if_neg hsuper, if_neg (by simpa using hsuspect)]
      rfl
    · rw [hunbind, if_neg hsuper, if_pos hsuspect]
      exact hmark.trans (if_pos hgood)
    · rw [hunbind, if_neg hsuper, if_pos hsuspect]
      refine (hmark.trans (if_neg hgood)).trans ?_
      simp only [setEntry, List.set_set]
      rfl

end Sys2Proof.Machine

/-! PAGE.CLOSE and the reception timeout (R35, R39): the end of a reception with no other version of its key held, and the
end of an open repair. -/

namespace Sys2Proof.Machine

theorem contextAt_eq_some {s : State} {i : Nat} {c : Context} :
    contextAt s i = some c ↔ s.prx.contexts[i]? = some (some c) := by
  unfold contextAt
  rw [List.getD_eq_getElem?_getD]
  cases s.prx.contexts[i]? <;> simp

/-! ## The end of a reception (R35) -/

/-- No entry but that of a handle holds the key of the handle's entry. -/
def KeyHeldAlone (s : State) (h : Nat) : Prop :=
  ∀ g, g ≠ h → (entry s g).state ≠ .empty → (entry s g).key ≠ (entry s h).key

theorem Entry.state_ne_empty_of_current {e : Entry} (h : e.current = true) : e.state ≠ .empty := by
  intro hs
  simp [Entry.current, hs] at h

theorem Entry.current_of_closed {e : Entry} (h : e.closed = true) : e.current = true := by
  simp only [Entry.closed, Entry.current, Bool.or_eq_true] at h ⊢
  rcases h with h | h
  · exact .inl (.inr h)
  · exact .inr h

theorem newerHeld_of_alone {s : State} {h : Nat} (halone : KeyHeldAlone s h) : newerHeld s h = false := by
  rw [← Bool.not_eq_true, newerHeld_iff]
  rintro ⟨g, -, hne, hcurrent, hkey, -⟩
  exact halone g hne (Entry.state_ne_empty_of_current hcurrent) hkey

/-- R52: with no other closed version of its key held, a closing entry retires none. -/
theorem supersede_alone {s : State} {h : Nat} (halone : KeyHeldAlone s h) : supersede h s = s := by
  refine foldl_fixed fun g _ => if_neg ?_
  rintro ⟨hne, hclosed, hkey⟩
  exact halone g hne (Entry.state_ne_empty_of_current (Entry.current_of_closed hclosed)) hkey

theorem Entry.ended_state (e : Entry) : e.ended.state = .complete ∨ e.ended.state = .damaged := by
  unfold Entry.ended
  dsimp only
  split
  · exact .inl rfl
  · exact .inr rfl

theorem Entry.ended_state_changed {e : Entry} (h : e.state = .receiving) : e.ended.state ≠ e.state := by
  rcases e.ended_state with hs | hs <;> simp [hs, h]

/-- R35: what the end of a reception leaves where no other version of its key is held. -/
theorem closeReception_alone {ev : PageEvent} {h i : Nat} {s : State} (hh : h < s.pdir.entries.length)
    (hi : contextOf s h = some i) (halone : KeyHeldAlone s h) :
    let e := (entry s h).ended
    (entry s h).state = .receiving → closeFields s h = u8 e.state.code ++ u16 e.damaged ∧
    closeReception ev false h s = { s with
      psc := s.psc.returnChains (entry s h).openChains
      pdir := { s.pdir with entries := s.pdir.entries.set h e }
      prx := { s.prx with contexts := s.prx.contexts.set i none }
      lp := s.lp.queueReport (e.noteOf ev h) } := by
  intro e hreceiving
  obtain ⟨hstate, hdamaged, hclose⟩ := closeReception_spec ev false h s hh
  have hst : (if false = true ∨ newerHeld s h = true then EntryState.superseded else e.state) = e.state := by
    rw [newerHeld_of_alone halone]
    exact if_neg (by simp)
  have hne : e.state ≠ .superseded := by
    rcases (entry s h).ended_state with hs | hs <;> simp [e, hs]
  rw [hst] at hstate hdamaged hclose
  replace hclose := hclose.trans (if_neg hne)
  rw [freedContexts_some hi] at hclose
  refine ⟨?_, ?_⟩
  · simp only [closeFields, hreceiving, if_true, hstate, hdamaged]
    rfl
  · rw [hclose]
    refine supersede_alone fun g hg hempty hkey => ?_
    have hentry (k : Nat) := entry_of_entries (s := s) (t := { s with
      psc := s.psc.returnChains (entry s h).openChains
      pdir := { s.pdir with entries := s.pdir.entries.set h ((entry s h).endedAs e.state) }
      prx := { s.prx with contexts := s.prx.contexts.set i none }
      lp := s.lp.queueReport (((entry s h).endedAs e.state).noteOf ev h) }) (g := k) rfl hh
    rw [hentry, if_neg hg] at hempty hkey
    rw [hentry, if_pos rfl] at hkey
    exact halone g hg hempty hkey

/-! ## The command and the timeout -/

theorem queueReport_taken (l : Lp) (rest : List Frame) (r : Report) :
    Lp.queueReport { l with cmdQueue := rest } r = { l.queueReport r with cmdQueue := rest } := by
  simp only [queueReport_eq]

theorem parseClose_eq_none {p : List Byte} (h : ¬(p.length = 1 ∧ byteAt p 0 ≤ 63)) : parseClose p = none := if_neg h

/-- R39: the expiry of a timer that runs. -/
theorem exec_receptionTimeout {s : State} {i : Nat} {c : Context} (hreset : s.resetHeld = false)
    (hc : s.prx.contexts[i]? = some (some c)) (hrunning : c.running = true) :
    exec (.receptionTimeout i) s = .next (expireReception c s) := by
  show execReceptionTimeout i s = _
  simp [execReceptionTimeout, hreset, contextAt_eq_some.2 hc, hrunning]

/-- Settles O19. -/
theorem pageCloseEndsARepair : Obligations.PageCloseEndsARepair := by
  intro s f rest htakes hkind hready
  have hexec : exec .pageClose s = .next (runPageClose f (taken s rest)) := serve_ready htakes hkind hready _
  obtain ⟨-, hchunk, -⟩ := htakes
  rw [hexec]
  refine ⟨fun hbad => ?_, fun h hp hh hstate => ⟨fun hnone => ?_, fun i hi hlength => ?_⟩⟩
  · rw [runPageClose, parseClose_eq_none hbad]
    rfl
  · have hclosed : closable (taken s rest) h = false := by
      have hnone' : contextOf (taken s rest) h = none := hnone
      have hstate' : (entry (taken s rest) h).state ≠ .receiving := hstate
      simp [closable, hnone', hstate']
    simp [runPageClose, hp, parseClose_u8 hh, hclosed, rNotOpen]
  · have hstate' : (entry (taken s rest) h).state ≠ .receiving := hstate
    have hi' : contextOf (taken s rest) h = some i := hi
    have hopen : closable (taken s rest) h = true := by simp [closable, hi']
    have hend := endRepair_spec h (taken s rest) hlength (by simp [taken, hchunk]) (some .closed)
    intro e
    simp only [runPageClose, hp, parseClose_u8 hh, hopen, if_true, closeEntry, closeFields, if_neg hstate', hend, freedContexts_some hi']
    rw [state_unchanged (h := h) (e := (entry (taken s rest) h).missed) rfl rfl]
    simp only [answer, taken, queueReport_taken, Lp.queueReport_replyFinished]
    rfl

/-- Settles O17. -/
theorem closeAndTimeoutEndAReception : Obligations.CloseAndTimeoutEndAReception := by
  refine ⟨fun s f rest h i htakes hkind hready hp hh hlength hstate hi halone => ?_,
    fun s i c hreset hc hrunning hlength hi => ⟨fun hstate halone => ?_, fun hstate hchunk => ?_⟩, fun s i hstopped => ?_⟩
  · intro e
    have hopen : closable (taken s rest) h = true := by
      have hstate' : (entry (taken s rest) h).state = .receiving := hstate
      simp [closable, hstate']
    obtain ⟨hfields, hclose⟩ := closeReception_alone (ev := .closed) (s := taken s rest) hlength hi halone hstate
    have hexec : exec .pageClose s = .next (runPageClose f (taken s rest)) := serve_ready htakes hkind hready _
    have hstate' : (entry (taken s rest) h).state = .receiving := hstate
    rw [hexec]
    simp only [runPageClose, hp, parseClose_u8 hh, hopen, if_true, closeEntry, hstate', hclose, hfields]
    rw [state_changed (s := taken s rest) (h := h) (e := (entry (taken s rest) h).ended) hlength rfl (Entry.ended_state_changed hstate')]
    simp only [answer, taken, queueReport_taken, Lp.queueReport_replyFinished]
    rfl
  · intro e
    let t := setEntry c.handle { entry s c.handle with timeout := true } s
    have hentry (g : Nat) : entry t g = if g = c.handle then _ else entry s g := entry_set hlength
    have hself : entry t c.handle = { entry s c.handle with timeout := true } := by rw [hentry, if_pos rfl]
    have halone' : KeyHeldAlone t c.handle := by
      intro g hg
      rw [hentry, if_neg hg, hself]
      exact halone g hg
    obtain ⟨-, hclose⟩ := closeReception_alone (ev := .timedOut) (s := t) (by simpa [t, setEntry] using hlength) hi halone'
      (by rw [hself]; exact hstate)
    rw [exec_receptionTimeout hreset hc hrunning]
    have hreceiving : (entry t c.handle).state = .receiving := by rw [hself]; exact hstate
    simp only [expireReception, closeEntry]
    rw [if_pos hreceiving, hclose, hself]
    rw [state_changed (s := s) (h := c.handle) (e := e) hlength (List.set_set ..) (Entry.ended_state_changed hstate)]
    simp only [t, setEntry, List.set_set]
    rfl
  · intro e
    let t := setEntry c.handle { entry s c.handle with timeout := true } s
    have hself : entry t c.handle = { entry s c.handle with timeout := true } := entry_setEntry_self hlength
    have hi' : contextOf t c.handle = some i := hi
    have hreceiving : ¬(entry t c.handle).state = .receiving := by rw [hself]; exact hstate
    rw [exec_receptionTimeout hreset hc hrunning]
    simp only [expireReception, closeEntry]
    rw [if_neg hreceiving, endRepair_spec c.handle t (by simpa [t, setEntry] using hlength) hchunk, hself, freedContexts_some hi']
    rw [state_unchanged (h := c.handle) (e := e) (List.set_set ..) rfl]
    simp only [t, setEntry, List.set_set]
    rfl
  · show execReceptionTimeout i s = _
    unfold execReceptionTimeout
    split
    · rfl
    · split
      · rename_i c hc
        rw [if_neg (by simp [hstopped c (contextAt_eq_some.1 hc)])]
      · rfl

end Sys2Proof.Machine

/-! PAGE.BAND (R27, R28, R41): when the command is taken, its refusals in order, and the placing of a chunk. -/

namespace Sys2Proof.Machine

/-! ## When a PAGE.BAND is taken (R46, log entry 22) -/

/-- A command that its owner does not take stays at the head of the command queue. -/
theorem serve_holds {p : Frame → Bool} {run : Frame → State → State} {s : State} {f : Frame} {rest : List Frame}
    (h : takes s f rest) (hp : p f = false) : serve p run s = .next s := by
  obtain ⟨-, -, -, -, hqueue⟩ := h
  simp [serve, takeCommand, hqueue, hp]

theorem whenReady_ready {run : Frame → State → State} {f : Frame} {s : State} (h : s.part = .ready) :
    whenReady run f s = run f s := by simp [whenReady, h]

/-- R46: a PAGE.BAND is run where it is lent no block or no burst left behind is in flight. -/
theorem pageBand_runs {s : State} {f : Frame} {rest : List Frame} (h : takes s f rest) (hkind : ofKind 0x11 f)
    (hready : s.part = .ready) (hmay : lentBlock (runPageBand f s) = false ∨ ¬staleWriteInFlight s) :
    exec .pageBand s = .next (runPageBand f (taken s rest)) := by
  have htaken : bandMayBeTaken s f = true := by
    rcases hmay with hlent | hstale
    · simp [bandMayBeTaken, whenReady_ready hready, hlent]
    · exact bandMayBeTaken_of_not_stale hstale f
  show serve _ _ _ = _
  rw [serve_takes h (by simp [isCommand, hkind.1, hkind.2, htaken])]
  exact congrArg Host.Outcome.next (whenReady_ready hready)

/-- R46: a PAGE.BAND that would be lent a block waits for the end of a burst left behind. -/
theorem pageBand_held {s : State} {f : Frame} {rest : List Frame} (h : takes s f rest) (hready : s.part = .ready)
    (hlent : lentBlock (runPageBand f s) = true) (hstale : staleWriteInFlight s) : exec .pageBand s = .next s := by
  refine serve_holds h ?_
  simp [bandMayBeTaken, whenReady_ready hready, hlent, (staleLinkWrite_iff s).2 hstale]

/-- A PAGE.BAND that leaves the chunk buffer empty was lent no block. -/
theorem lentBlock_of_no_chunk {s : State} (h : s.prx.chunk = none) : lentBlock s = false := by simp [lentBlock, h]

/-- A PAGE.BAND that is refused, whatever stands behind it in the command queue. -/
theorem pageBand_refused {s : State} {f : Frame} {rest : List Frame} {code : Byte} (h : takes s f rest)
    (hkind : ofKind 0x11 f) (hready : s.part = .ready)
    (hrun : ∀ q, runPageBand f (taken s q) = answer f code [] (taken s q)) :
    exec .pageBand s = .next (answer f code [] (taken s rest)) := by
  obtain ⟨-, hchunk, -⟩ := id h
  have hnone : lentBlock (runPageBand f s) = false := by
    rw [show runPageBand f s = answer f code [] s from hrun s.lp.cmdQueue]
    exact lentBlock_of_no_chunk hchunk
  rw [pageBand_runs h hkind hready (.inl hnone), hrun]

/-! ## The checks of R27 and R41 -/

/-- A band of an entry that accepts its chunks: the entry is in RECEIVING, or the band is under repair. -/
def bandIsOpen (s : State) (x : ChunkOperands) : Prop :=
  (entry s x.handle).state = .receiving ∨ underRepair s x.handle x.band = true

/-- R27: a well-formed PAGE.BAND that names an entry and a band record. -/
def namesBand (s : State) (f : Frame) (x : ChunkOperands) (r : BandRecord) : Prop :=
  parseBand f.payload = some x ∧ ((entry s x.handle).state = .receiving ∨ (entry s x.handle).state = .damaged) ∧
    bandOf s x.handle x.band = some r

theorem runPageBand_malformed {s : State} {f : Frame} (h : parseBand f.payload = none) :
    runPageBand f s = answer f rBadField [] s := by simp [runPageBand, h]

theorem runPageBand_not_open {s : State} {f : Frame} {x : ChunkOperands} (h : parseBand f.payload = some x)
    (hr : (entry s x.handle).state ≠ .receiving) (hd : (entry s x.handle).state ≠ .damaged) :
    runPageBand f s = answer f rNotOpen [] s := by simp [runPageBand, h, hr, hd]

theorem runPageBand_no_record {s : State} {f : Frame} {x : ChunkOperands} (h : parseBand f.payload = some x)
    (hstate : (entry s x.handle).state = .receiving ∨ (entry s x.handle).state = .damaged)
    (hr : bandOf s x.handle x.band = none) : runPageBand f s = answer f rBadField [] s := by
  simp only [runPageBand, h]
  rw [if_neg (by tauto)]
  simp only [hr]

/-- R27: the checks behind the entry's state and the band record. -/
theorem runPageBand_record {s : State} {f : Frame} {x : ChunkOperands} {r : BandRecord} (h : namesBand s f x r) :
    runPageBand f s =
      if (entry s x.handle).state = .receiving ∨ underRepair s x.handle x.band = true then runChunk f x r s
      else if opensRepair s x.handle x.band r = true then runOpener f x r s
      else answer f rNotOpen [] s := by
  obtain ⟨hp, hstate, hr⟩ := h
  simp only [runPageBand, hp]
  rw [if_neg (by tauto)]
  simp only [hr]

theorem runPageBand_chunk {s : State} {f : Frame} {x : ChunkOperands} {r : BandRecord} (h : namesBand s f x r)
    (hopen : bandIsOpen s x) : runPageBand f s = runChunk f x r s := (runPageBand_record h).trans (if_pos hopen)

theorem runPageBand_opener {s : State} {f : Frame} {x : ChunkOperands} {r : BandRecord} (h : namesBand s f x r)
    (hclosed : ¬bandIsOpen s x) (hr : r.state = .damaged ∨ r.state = .missing) :
    runPageBand f s = runOpener f x r s := by
  have hunder : underRepair s x.handle x.band = false := by
    rw [← Bool.not_eq_true]
    exact fun hu => hclosed (.inr hu)
  rw [runPageBand_record h]
  exact (if_neg hclosed).trans (if_pos (by simp [opensRepair, hr, hunder]))

theorem runPageBand_band_closed {s : State} {f : Frame} {x : ChunkOperands} {r : BandRecord} (h : namesBand s f x r)
    (hclosed : ¬bandIsOpen s x) (hd : r.state ≠ .damaged) (hm : r.state ≠ .missing) :
    runPageBand f s = answer f rNotOpen [] s := by
  rw [runPageBand_record h]
  exact (if_neg hclosed).trans (if_neg (by simp [opensRepair, hd, hm]))

/-- R27: a chunk passes the declared length, or its LAST does not match it. -/
theorem chunkMisfits_iff (x : ChunkOperands) (declared : Nat) : chunkMisfits x declared = true ↔
    declared < x.offset + x.chunk.length ∨ (x.last = true ↔ x.offset + x.chunk.length ≠ declared) := by
  by_cases heq : x.offset + x.chunk.length = declared <;> cases hlast : x.last <;>
    simp [chunkMisfits, heq, hlast]

/-- R27: a chunk that the declared length admits. -/
def chunkFits (x : ChunkOperands) (declared : Nat) : Prop :=
  x.offset + x.chunk.length ≤ declared ∧ (x.last = true ↔ x.offset + x.chunk.length = declared)

theorem chunkMisfits_eq_false {x : ChunkOperands} {declared : Nat} (h : chunkFits x declared) :
    chunkMisfits x declared = false := by
  obtain ⟨hle, hlast⟩ := h
  rw [← Bool.not_eq_true, chunkMisfits_iff, hlast]
  omega

theorem runChunk_out_of_order {f : Frame} {x : ChunkOperands} {r : BandRecord} {s : State} (h : x.offset ≠ r.received) :
    runChunk f x r s = answer f rOutOfOrder [] s := by simp [runChunk, h]

theorem runChunk_misfits {f : Frame} {x : ChunkOperands} {r : BandRecord} {s : State} (h : x.offset = r.received)
    (hfit : chunkMisfits x r.length = true) : runChunk f x r s = answer f rBadField [] s := by simp [runChunk, h, hfit]

theorem runChunk_accepts {f : Frame} {x : ChunkOperands} {r : BandRecord} {s : State} {i : Nat} (h : x.offset = r.received)
    (hfit : chunkFits x r.length) (hi : contextOf s x.handle = some i) :
    runChunk f x r s = acceptChunk f x i false s s := by simp [runChunk, h, chunkMisfits_eq_false hfit, hi]

/-! ## The placing of a chunk (R28) -/

theorem takeBlock_unneeded (tail : Option Nat) (s : State) : takeBlock false tail s = some (none, s) := rfl

/-- R28: a chunk finds no block exactly when it needs one and PSC has none to lend. -/
theorem takeBlock_eq_none {needed : Bool} {tail : Option Nat} {s : State} :
    takeBlock needed tail s = none ↔ needed = true ∧ s.psc.lend = none := by
  unfold takeBlock
  cases needed with
  | false => simp
  | true =>
    cases s.psc.lend with
    | none => simp
    | some l => cases tail <;> simp

/-- R28: the taking of a block changes PSC alone. -/
theorem takeBlock_psc {needed : Bool} {tail new : Option Nat} {s t : State} (h : takeBlock needed tail s = some (new, t)) :
    t = { s with psc := t.psc } := by
  unfold takeBlock at h
  cases needed with
  | false =>
    simp only [Bool.false_eq_true, if_false, Option.some.injEq, Prod.mk.injEq] at h
    rw [← h.2]
  | true =>
    cases hl : s.psc.lend with
    | none => simp [hl] at h
    | some l =>
      cases tail with
      | none =>
        simp only [if_true, hl, Option.some.injEq, Prod.mk.injEq] at h
        rw [← h.2]
      | some u =>
        simp only [if_true, hl, Option.some.injEq, Prod.mk.injEq] at h
        rw [← h.2]

/-- R28: a band record after a chunk. -/
def BandRecord.grown (r : BandRecord) (n : Nat) (new : Option Nat) : BandRecord := { r with
  received := r.received + n
  state := if r.state = .expected then .arriving else r.state
  head := r.head.or new }

/-- R30: what a context holds of a band after a chunk. -/
def BandProgress.grown (p : BandProgress) (b width : Nat) (new : Option Nat) (bs : List Byte) : BandProgress :=
  ⟨b, sumFrom p.sum bs, new.or p.tail, scanChunk width p.scan bs⟩

/-- A context whose progress of a band is replaced, its timer stopped (R38). -/
def Context.grown (c : Context) (b : Nat) (p : BandProgress) : Context :=
  { c with running := false, bands := c.bands.map (fun q => if q.band = b then p else q) }

/-- The state behind an accepted chunk, before PRX asks for its first burst. -/
def chunkHeld (i : Nat) (k : Chunk) (c : Context) (r : BandRecord) (new : Option Nat) (psc : Psc) (s : State) : State :=
  let e := entry s k.handle
  { s with
    psc := psc
    pdir := { s.pdir with entries := (s.pdir.entries.set k.handle
      { e with bands := e.bands.set k.band (r.grown k.bytes.length new) }) }
    prx := { s.prx with
      contexts := s.prx.contexts.set i
        (some (c.grown k.band ((c.progress k.band).grown k.band e.width new k.bytes)))
      chunk := some k } }

/-- R27 to R30: an accepted chunk that finds its block. -/
theorem placeChunk_eq {i h b offset : Nat} {last : Bool} {bs : List Byte} {s t : State} {c : Context} {r : BandRecord}
    {new : Option Nat} (hc : contextAt s i = some c) (hr : bandOf s h b = some r)
    (ht : takeBlock (needsBlock offset bs.length) (c.progress b).tail s = some (new, t)) :
    placeChunk i h b offset last bs s =
      some (prxPump (chunkHeld i ⟨h, b, last, bs, chunkBursts offset (c.progress b).tail new bs⟩ c r new t.psc s)) := by
  have ht' := takeBlock_psc ht
  have hmap (p : BandProgress) : (fun q : BandProgress => if q.band == b then p else q) =
      fun q => if q.band = b then p else q := by funext q; simp
  unfold placeChunk
  simp only [hc, hr, ht, hmap]
  rw [ht']
  rfl

theorem placeChunk_eq_none {i h b offset : Nat} {last : Bool} {bs : List Byte} {s : State} {c : Context} {r : BandRecord}
    (hc : contextAt s i = some c) (hr : bandOf s h b = some r) :
    placeChunk i h b offset last bs s = none ↔ needsBlock offset bs.length = true ∧ s.psc.lend = none := by
  cases ht : takeBlock (needsBlock offset bs.length) (c.progress b).tail s with
  | none =>
    refine iff_of_true ?_ (takeBlock_eq_none.1 ht)
    simp [placeChunk, hc, hr, ht]
  | some l =>
    obtain ⟨new, t⟩ := l
    rw [placeChunk_eq hc hr ht, ← takeBlock_eq_none (tail := (c.progress b).tail), ht]
    simp

theorem lend_eq_none_of_empty {p : Psc} (h : p.freeCount = 0) : p.lend = none := by simp [Psc.lend, h]

/-- R29, R76: PRX asks for the first burst of the chunk buffer. -/
theorem prxPump_asks {s : State} {k : Chunk} {a : Nat} {bs : List Byte} {todo : List (Nat × List Byte)}
    (hk : s.prx.chunk = some k) (htodo : k.todo = (a, bs) :: todo) (hfree : s.psc.engaged .prxWrite = false) :
    prxPump s = { s with
      psc := s.psc.request ⟨.prxWrite, .write a bs, false⟩
      prx := { s.prx with chunk := some { k with todo := todo } } } := by
  simp [prxPump, hk, htodo, hfree, ask]

/-- R76: no burst is asked for while PRX has one. -/
theorem prxPump_waits {s : State} (h : s.psc.engaged .prxWrite = true) : prxPump s = s := by
  unfold prxPump
  split
  · split
    · rw [if_pos h]
    · rfl
  · rfl

theorem engaged_of_stale {s : State} (h : staleWriteInFlight s) : s.psc.engaged .prxWrite = true := by
  obtain ⟨op, hop, hclient, -⟩ := h
  simp [Psc.engaged, hop, hclient]

/-! ## The block of an accepted chunk (R28, R46) -/

/-- R76: all that PRX's asking can do. -/
theorem prxPump_cases (s : State) : prxPump s = s ∨ ∃ k a bs todo, s.prx.chunk = some k ∧ k.todo = (a, bs) :: todo ∧
    s.psc.engaged .prxWrite = false ∧ prxPump s = { s with
      psc := s.psc.request ⟨.prxWrite, .write a bs, false⟩
      prx := { s.prx with chunk := some { k with todo := todo } } } := by
  cases hk : s.prx.chunk with
  | none => exact .inl (by simp [prxPump, hk])
  | some k =>
    cases htodo : k.todo with
    | nil => exact .inl (by simp [prxPump, hk, htodo])
    | cons p todo =>
      obtain ⟨a, bs⟩ := p
      cases hfree : s.psc.engaged .prxWrite with
      | true => exact .inl (prxPump_waits hfree)
      | false => exact .inr ⟨k, a, bs, todo, rfl, htodo, rfl, prxPump_asks hk htodo hfree⟩

theorem lentBlock_prxPump (s : State) : lentBlock (prxPump s) = lentBlock s := by
  rcases prxPump_cases s with h | ⟨k, a, bs, todo, hk, -, -, h⟩
  · rw [h]
  · rw [h]
    simp only [lentBlock, hk]
    rfl

theorem handle_lt_of_band {s : State} {h b : Nat} {r : BandRecord} (hr : bandOf s h b = some r) : h < s.pdir.entries.length := by
  by_contra hge
  simp [bandOf, entry_default (Nat.le_of_not_lt hge), Entry.empty] at hr

theorem bandOf_prxPump (s : State) (h b : Nat) : bandOf (prxPump s) h b = bandOf s h b := by simp [bandOf, entry]

theorem bandOf_chunkHeld {i : Nat} {k : Chunk} {c : Context} {r : BandRecord} {new : Option Nat} {psc : Psc} {s : State}
    (hr : bandOf s k.handle k.band = some r) :
    bandOf (chunkHeld i k c r new psc s) k.handle k.band = some (r.grown k.bytes.length new) := by
  have hb : k.band < (entry s k.handle).bands.length := (List.getElem?_eq_some_iff.1 hr).1
  have hentry : entry (chunkHeld i k c r new psc s) k.handle = _ :=
    entry_of_entries (s := s) (h := k.handle) rfl (handle_lt_of_band hr)
  rw [bandOf, hentry, if_pos rfl]
  exact List.getElem?_set_self hb

theorem lentBlock_of_chunk {s : State} {k : Chunk} {r : BandRecord} (hk : s.prx.chunk = some k)
    (hr : bandOf s k.handle k.band = some r) :
    lentBlock s = needsBlock (r.received - k.bytes.length) k.bytes.length := by simp [lentBlock, hk, hr]

/-- An accepted chunk is lent a block exactly when its band needs one at its received count. -/
theorem lentBlock_chunkHeld {i : Nat} {k : Chunk} {c : Context} {r : BandRecord} {new : Option Nat} {psc : Psc} {s : State}
    (hr : bandOf s k.handle k.band = some r) :
    lentBlock (prxPump (chunkHeld i k c r new psc s)) = needsBlock r.received k.bytes.length := by
  rw [lentBlock_prxPump, lentBlock_of_chunk rfl (bandOf_chunkHeld hr)]
  exact congrArg (needsBlock · k.bytes.length) (Nat.add_sub_cancel ..)

theorem prxPump_chunkHeld {i : Nat} {k : Chunk} {c : Context} {r : BandRecord} {new : Option Nat} {psc : Psc} {s : State}
    {a : Nat} {bs : List Byte} {todo : List (Nat × List Byte)} (htodo : k.todo = (a, bs) :: todo)
    (hfree : psc.engaged .prxWrite = false) :
    prxPump (chunkHeld i k c r new psc s) =
      chunkHeld i { k with todo := todo } c r new (psc.request ⟨.prxWrite, .write a bs, false⟩) s :=
  prxPump_asks rfl htodo hfree

/-- A placed chunk was lent a block exactly when its band needed one at its received count. -/
theorem lentBlock_placed {i h b offset : Nat} {last : Bool} {bs : List Byte} {s u : State} {c : Context} {r : BandRecord}
    (hc : contextAt s i = some c) (hr : bandOf s h b = some r) (hu : placeChunk i h b offset last bs s = some u) :
    lentBlock u = needsBlock r.received bs.length := by
  cases ht : takeBlock (needsBlock offset bs.length) (c.progress b).tail s with
  | none => simp [placeChunk, hc, hr, ht] at hu
  | some l =>
    obtain ⟨new, t⟩ := l
    rw [placeChunk_eq hc hr ht] at hu
    obtain rfl := Option.some.inj hu
    exact lentBlock_chunkHeld hr

end Sys2Proof.Machine

/-! PAGE.BAND for a band that is open: its refusals (R27), a chunk within its band's last block (R28 to R30), and a chunk
that is lent the head block of the pool (R71). -/

namespace Sys2Proof.Machine

/-- R27, R28: a chunk that is accepted and finds its block. -/
theorem runPageBand_placed {s t : State} {f : Frame} {x : ChunkOperands} {r : BandRecord} {i : Nat} {c : Context}
    {new : Option Nat} (h : namesBand s f x r) (hopen : bandIsOpen s x) (hoffset : x.offset = r.received)
    (hfit : chunkFits x r.length) (hi : contextOf s x.handle = some i) (hc : contextAt s i = some c)
    (ht : takeBlock (needsBlock r.received x.chunk.length) (c.progress x.band).tail s = some (new, t)) :
    runPageBand f s = answer f rOk
      (u8 x.handle ++ u16 x.band ++ u32 (r.received + x.chunk.length) ++ flagByte false)
      (prxPump (chunkHeld i ⟨x.handle, x.band, x.last, x.chunk,
        chunkBursts r.received (c.progress x.band).tail new x.chunk⟩ c r new t.psc s)) := by
  obtain ⟨-, -, hr⟩ := id h
  rw [runPageBand_chunk h hopen, runChunk_accepts hoffset hfit hi]
  simp only [acceptChunk, hoffset]
  rw [placeChunk_eq hc hr ht]
  simp only [chunkFields, bandOf_prxPump]
  have hband := bandOf_chunkHeld (i := i) (c := c) (new := new) (psc := t.psc) (k := ⟨x.handle, x.band, x.last, x.chunk,
    chunkBursts r.received (c.progress x.band).tail new x.chunk⟩) hr
  rw [show bandOf _ x.handle x.band = _ from hband]
  rfl

/-- R28, R71: a chunk that is accepted but finds no block. -/
theorem runPageBand_store_full {s : State} {f : Frame} {x : ChunkOperands} {r : BandRecord} {i : Nat} {c : Context}
    (h : namesBand s f x r) (hopen : bandIsOpen s x) (hoffset : x.offset = r.received) (hfit : chunkFits x r.length)
    (hi : contextOf s x.handle = some i) (hc : contextAt s i = some c)
    (hneeds : needsBlock r.received x.chunk.length = true) (hnone : s.psc.lend = none) :
    runPageBand f s = answer f rStoreFull [] s := by
  obtain ⟨-, -, hr⟩ := id h
  rw [runPageBand_chunk h hopen, runChunk_accepts hoffset hfit hi]
  simp only [acceptChunk, hoffset]
  rw [(placeChunk_eq_none hc hr).2 ⟨hneeds, hnone⟩]

/-- R28: a chunk needs a block at the start of one, and where it passes the end of the band's last one. -/
theorem needsBlock_iff {offset len : Nat} :
    needsBlock offset len = true ↔ offset % 16384 = 0 ∨ 16384 < offset % 16384 + len := by
  unfold needsBlock blockBytes
  rw [decide_eq_true_iff]
  omega

theorem needsBlock_eq_false {offset len : Nat} (hstart : offset % 16384 ≠ 0) (hfits : offset % 16384 + len ≤ 16384) :
    needsBlock offset len = false := by
  rw [← Bool.not_eq_true, needsBlock_iff]
  omega

/-- R28: the bursts of a chunk within its band's last block. -/
theorem chunkBursts_within {offset tail : Nat} {new : Option Nat} {bs : List Byte} (hstart : offset % 16384 ≠ 0)
    (hfits : offset % 16384 + bs.length ≤ 16384) :
    chunkBursts offset (some tail) new bs = burstsOf (tail * 16384 + offset % 16384) bs := by
  have hlen : bs.length ≤ 16384 - offset % 16384 := by omega
  unfold chunkBursts blockBytes
  rw [if_neg hstart, List.take_of_length_le hlen, List.drop_of_length_le hlen]
  exact List.append_nil _

/-- Settles O13. -/
theorem pageBandRefusals : Obligations.PageBandRefusals := by
  refine ⟨fun s f rest htakes hkind hready => ⟨fun hbad => ?_, fun x hx => ?_⟩, ?_⟩
  · exact pageBand_refused htakes hkind hready fun q => runPageBand_malformed hbad
  · refine ⟨fun hr hd => ?_, fun hstate => ⟨fun hnone => ?_, fun r hr => ⟨?_, ?_, ?_⟩⟩⟩
    · exact pageBand_refused htakes hkind hready fun q => runPageBand_not_open hx hr hd
    · exact pageBand_refused htakes hkind hready fun q => runPageBand_no_record hx hstate hnone
    · intro hclosed hd hm
      exact pageBand_refused htakes hkind hready fun q => runPageBand_band_closed ⟨hx, hstate, hr⟩ hclosed hd hm
    · intro hopen hoffset
      refine pageBand_refused htakes hkind hready fun q => ?_
      rw [runPageBand_chunk (s := taken s q) (r := r) ⟨hx, hstate, hr⟩ hopen, runChunk_out_of_order hoffset]
      rfl
    · intro hopen hoffset hfit
      refine pageBand_refused htakes hkind hready fun q => ?_
      rw [runPageBand_chunk (s := taken s q) (r := r) ⟨hx, hstate, hr⟩ hopen, runChunk_misfits hoffset ((chunkMisfits_iff x r.length).2 hfit)]
      rfl
  · intro s f rest x r i c htakes hkind hready hx hopen hr hi hc hoffset hlength hlast hneeds hempty
    refine pageBand_refused htakes hkind hready fun q => ?_
    exact runPageBand_store_full ⟨hx, hopen.imp_right And.left, hr⟩ (hopen.imp_right And.right) hoffset ⟨hlength, hlast⟩ hi
      (contextAt_eq_some.2 hc) (needsBlock_iff.2 hneeds) (lend_eq_none_of_empty hempty)

theorem BandRecord.grown_open {r : BandRecord} (h : r.state = .expected ∨ r.state = .arriving) (n : Nat) :
    r.grown n none = { r with received := r.received + n, state := .arriving } := by
  unfold BandRecord.grown
  rcases h with h | h <;> simp [h]

theorem Context.progress_of_find {c : Context} {b : Nat} {p : BandProgress}
    (h : c.bands.find? (fun q => q.band == b) = some p) : c.progress b = p ∧ p.band = b :=
  ⟨by simp [Context.progress, h], by simpa using List.find?_some h⟩

/-- Settles O14. -/
theorem chunkIsTaken : Obligations.ChunkIsTaken := by
  intro s f rest x r i tail a c p bs todo htakes hkind hready hx hopen hh hr hstate hi hc hp htail hoffset hstart hfits
    hlength hlast hbursts r' p' c' held
  obtain ⟨hprogress, hband⟩ := Context.progress_of_find hp
  have hneeds := needsBlock_eq_false hstart hfits
  have hrun (q : List Frame) := runPageBand_placed (s := taken s q) (f := f) (x := x) (r := r) (new := none)
    ⟨hx, hopen.imp_right And.left, hr⟩ (hopen.imp_right And.right) hoffset ⟨hlength, hlast⟩ hi (contextAt_eq_some.2 hc)
    (by rw [hneeds]; exact takeBlock_unneeded ..)
  have hlent : lentBlock (runPageBand f s) = false := by
    rw [show runPageBand f s = _ from hrun s.lp.cmdQueue]
    exact (lentBlock_chunkHeld (k := ⟨x.handle, x.band, x.last, x.chunk, _⟩) hr).trans hneeds
  have hgrown : p.grown x.band (entry s x.handle).width none x.chunk = p' := by
    simp only [BandProgress.grown, Option.none_or, p', hband]
  have htodo : chunkBursts r.received (c.progress x.band).tail none x.chunk = (a, bs) :: todo := by
    rw [hprogress, htail, chunkBursts_within hstart hfits, hbursts]
  rw [pageBand_runs htakes hkind hready (.inl hlent), hrun, htodo]
  refine ⟨fun hfree => ?_, fun hstale => ?_⟩
  · have hfree' : (taken s rest).psc.engaged .prxWrite = false := hfree
    rw [prxPump_chunkHeld rfl hfree']
    simp only [chunkHeld, hprogress, BandRecord.grown_open hstate]
    rw [show p.grown x.band (entry (taken s rest) x.handle).width none x.chunk = p' from hgrown]
    rfl
  · have hengaged : (taken s rest).psc.engaged .prxWrite = true := engaged_of_stale hstale
    rw [prxPump_waits (s := chunkHeld _ _ _ _ _ (taken s rest).psc _) hengaged]
    simp only [chunkHeld, hprogress, BandRecord.grown_open hstate]
    rw [show p.grown x.band (entry (taken s rest) x.handle).width none x.chunk = p' from hgrown]
    rfl

end Sys2Proof.Machine

/-! A chunk that is lent the head block of the pool (R28, R71). -/

namespace Sys2Proof.Machine

theorem engaged_of_poolAside {p q : Psc} (h : p.poolAside q) (c : Client) : p.engaged c = q.engaged c := by
  rw [← show _ = q from h]
  rfl

theorem poolAside_fields {p q : Psc} (h : p.poolAside q) : p.inFlight = q.inFlight ∧ p.waiting = q.waiting ∧
    p.storeMiB = q.storeMiB ∧ p.poolSize = q.poolSize ∧ p.refreshInterval = q.refreshInterval ∧
    p.refreshMerged = q.refreshMerged := by
  rw [← show _ = q from h]
  exact ⟨rfl, rfl, rfl, rfl, rfl, rfl⟩

/-- R76: an operation is asked for whatever the pool is. -/
theorem request_poolAside {p q : Psc} (h : p.poolAside q) (op : Op) : (p.request op).poolAside (q.request op) := by
  rw [← show _ = q from h]
  unfold Psc.request
  cases hp : p.inFlight <;> rfl

/-- R28, R71: what the lending of the head block leaves: it ends the chain behind the band's tail. -/
theorem takeBlock_pool {tail : Option Nat} {block : Nat} {pool : List Nat} {s : State} (hpool : s.psc.poolIs (block :: pool))
    (htail : ∀ t, tail = some t → t ∉ block :: pool) :
    ∃ p, takeBlock true tail s = some (some block, { s with psc := p }) ∧ p.poolIs pool ∧ p.poolAside s.psc ∧
      p.link block = none ∧ (∀ t, tail = some t → p.link t = some block) ∧
      ∀ b, b ≠ block → tail ≠ some b → p.link b = s.psc.link b := by
  obtain ⟨q, hlend, hq, haside, hlink⟩ := lend_spec hpool
  cases tail with
  | none =>
    refine ⟨q, by simp [takeBlock, hlend], hq, haside, by simp [hlink], by simp, fun b hb _ => ?_⟩
    rw [hlink, if_neg hb]
  | some t =>
    obtain ⟨hne, hnotin⟩ := not_or.1 (List.mem_cons.not.1 (htail t rfl))
    refine ⟨q.setLink t (some block), by simp [takeBlock, hlend], ?_, (setLink_poolAside ..).2 haside, ?_, ?_, ?_⟩
    · obtain ⟨hhead, hlast, hcount, hnodup, hlinked⟩ := hq
      refine ⟨hhead, hlast, hcount, hnodup, (linked_of_agree fun b hb => ?_).2 hlinked⟩
      rw [link_setLink, if_neg fun heq : b = t => hnotin (heq ▸ hb)]
    · rw [link_setLink, if_neg (Ne.symm hne), hlink, if_pos rfl]
    · intro u hu
      rw [link_setLink, if_pos (Option.some.inj hu).symm]
    · intro b hb hbt
      rw [link_setLink, if_neg fun heq => hbt (congrArg some heq.symm), hlink, if_neg hb]

/-- R28: the bursts of a chunk that begins a block or goes on into one. -/
theorem chunkBursts_new {offset block : Nat} {tail : Option Nat} {bs : List Byte} (h : offset % 16384 = 0 ∨ tail ≠ none) :
    let here := if offset % 16384 = 0 then 0 else 16384 - offset % 16384
    chunkBursts offset tail (some block) bs =
      burstsOf (tail.getD 0 * 16384 + offset % 16384) (bs.take here) ++ burstsOf (block * 16384) (bs.drop here) := by
  intro here
  unfold chunkBursts blockBytes
  by_cases hstart : offset % 16384 = 0
  · rw [if_pos hstart]
    simp only [here, if_pos hstart]
    rfl
  · obtain ⟨t, rfl⟩ := Option.ne_none_iff_exists'.1 (h.resolve_left hstart)
    rw [if_neg hstart]
    simp only [here, if_neg hstart]
    rfl

/-- Settles O15. -/
theorem chunkTakesTheHeadBlockOfThePool : Obligations.ChunkTakesTheHeadBlockOfThePool := by
  intro s f rest x r i block a c p pool bs todo htakes hkind hready hx hopen hh hr hi hc hp hoffset hlength hlast hneeds
    hpool htail here hbursts r' p' c'
  obtain ⟨hprogress, hband⟩ := Context.progress_of_find hp
  have hneeded : needsBlock r.received x.chunk.length = true := needsBlock_iff.2 (hneeds.imp_right And.left)
  have htodo : chunkBursts r.received (c.progress x.band).tail (some block) x.chunk = (a, bs) :: todo := by
    rw [hprogress, chunkBursts_new (hneeds.imp_right And.right), hbursts]
  have hrun (q : List Frame) : ∃ psc, runPageBand f (taken s q) = answer f rOk
      (u8 x.handle ++ u16 x.band ++ u32 (r.received + x.chunk.length) ++ flagByte false)
      (prxPump (chunkHeld i ⟨x.handle, x.band, x.last, x.chunk, (a, bs) :: todo⟩ c r (some block) psc (taken s q))) ∧
      psc.poolIs pool ∧ psc.poolAside s.psc ∧ psc.link block = none ∧ (∀ t, p.tail = some t → psc.link t = some block) ∧
      ∀ b, b ≠ block → p.tail ≠ some b → psc.link b = s.psc.link b := by
    obtain ⟨psc, ht, hpsc⟩ := takeBlock_pool (s := taken s q) hpool htail
    refine ⟨psc, ?_, hpsc⟩
    rw [← htodo]
    exact runPageBand_placed (s := taken s q) ⟨hx, hopen.imp_right And.left, hr⟩ (hopen.imp_right And.right) hoffset ⟨hlength, hlast⟩ hi
      (contextAt_eq_some.2 hc) (by rw [hneeded, hprogress]; exact ht)
  refine ⟨fun hstale => ?_, fun hfree => ?_⟩
  · obtain ⟨psc, hplaced, -⟩ := hrun s.lp.cmdQueue
    refine pageBand_held htakes hready ?_ hstale
    rw [show runPageBand f s = _ from hplaced]
    exact (lentBlock_chunkHeld (k := ⟨x.handle, x.band, x.last, x.chunk, _⟩) hr).trans hneeded
  · obtain ⟨psc, hplaced, hpool', haside, hend, hlinked, hothers⟩ := hrun rest
    have hfree' : psc.engaged .prxWrite = false := by rw [engaged_of_poolAside haside, hfree]
    obtain ⟨hflight, hwaiting, hstore, hsize, hinterval, hmerged⟩ :=
      poolAside_fields (request_poolAside haside ⟨.prxWrite, .write a bs, false⟩)
    have hlink (b : Nat) : (psc.request ⟨.prxWrite, .write a bs, false⟩).link b = psc.link b :=
      congrArg (sparseGet b) (Psc.request_links ..)
    rw [pageBand_runs htakes hkind hready (.inr (not_stale_of_free hfree)), hplaced, prxPump_chunkHeld rfl hfree']
    refine ⟨_, rfl, ?_, ?_, ?_, ?_, ?_, ?_, ?_, ?_, ?_, ?_, ?_, ?_, ?_⟩
    · exact (poolIs_congr (Psc.request_links ..) (Psc.request_poolHead ..) (Psc.request_poolTail ..)
        (Psc.request_freeCount ..)).2 hpool'
    · exact (hlink block).trans hend
    · exact fun u hu => (hlink u).trans (hlinked u hu)
    · exact fun b hb hbt => (hlink b).trans (hothers b hb hbt)
    · rfl
    · simp only [answer, chunkHeld, hprogress]
      rfl
    · exact Prod.ext hflight hwaiting
    · exact hstore.trans (Psc.request_storeMiB ..)
    · exact hsize.trans (Psc.request_poolSize ..)
    · exact hinterval.trans (Psc.request_refreshInterval ..)
    · exact hmerged.trans (Psc.request_refreshMerged ..)
    · rfl
    · rfl

end Sys2Proof.Machine

/-! The completion of a link-write burst (R29, R46), and the judging of a band (R34, R42, R43). -/

namespace Sys2Proof.Machine

/-! ## The completion of a link-write burst -/

/-- The state behind a write burst's bytes, with PSC as it stands when the client acts (R77). -/
def burstWritten (a : Nat) (bs : List Byte) (s : State) (psc : Psc) : State :=
  { s with dram := storeBytes a bs s.dram, psc := psc }

/-- R75, R77: the completion of a link-write burst, in either order of its end and PRX's handling. -/
theorem linkWriteDone_eq {s : State} {a : Nat} {bs : List Byte} {stale : Bool} (o : EndOrder)
    (h : s.psc.inFlight = .busy ⟨.prxWrite, .write a bs, stale⟩) :
    exec (.linkWriteBurstDone o) s =
      .next (atEnd o s fun psc => prxCompletion stale (burstWritten a bs s psc)) := by
  show execLinkWriteBurstDone o s = _
  simp only [execLinkWriteBurstDone, h, finishWrite, completion_eq_atEnd]
  cases o <;> rfl

theorem testIfEntriesChanged_same {s t : State} (h : t.pdir = s.pdir) : testIfEntriesChanged s t = t :=
  if_pos (by rw [h])

/-- R77: a completion by which PRX asks for nothing. -/
theorem linkWriteDone_idle {s t : State} {a : Nat} {bs : List Byte} {stale : Bool} (o : EndOrder)
    (h : s.psc.inFlight = .busy ⟨.prxWrite, .write a bs, stale⟩)
    (ht : ∀ psc, prxCompletion stale (burstWritten a bs s psc) = { t with psc := psc }) :
    exec (.linkWriteBurstDone o) s = .next { t with psc := s.psc.endOperation } := by
  rw [linkWriteDone_eq o h, funext ht, atEnd_idle]

theorem prxPump_idle {s : State} (h : ∀ k, s.prx.chunk = some k → k.todo = []) : prxPump s = s := by
  rcases prxPump_cases s with he | ⟨k, a, bs, todo, hk, htodo, -, -⟩
  · exact he
  · simp [h k hk] at htodo

/-- R29, R76: a completion at which PRX asks for the next burst of the chunk buffer. -/
theorem prxCompletion_asks {s : State} {k : Chunk} {a : Nat} {bs : List Byte} {todo : List (Nat × List Byte)} (stale : Bool)
    (hk : s.prx.chunk = some k) (htodo : k.todo = (a, bs) :: todo) (hfree : s.psc.engaged .prxWrite = false) :
    prxCompletion stale s = { s with
      psc := s.psc.request ⟨.prxWrite, .write a bs, false⟩
      prx := { s.prx with chunk := some { k with todo := todo } } } := by
  have hdone : prxBurstDone stale s = prxPump s := by cases stale <;> simp [prxBurstDone, hk, htodo]
  rw [prxCompletion, hdone, prxPump_asks hk htodo hfree]
  exact testIfEntriesChanged_same rfl

/-- The state in which a chunk's last burst leaves its context, the chunk buffer empty (R29). -/
def chunkDrained (i : Nat) (c : Context) (s : State) : State :=
  { s with prx := { s.prx with chunk := none, contexts := s.prx.contexts.set i (some { c with running := true }) } }

/-- R29: what PRX does at the last burst of a chunk. -/
theorem prxBurstDone_last {s : State} {k : Chunk} {i : Nat} {c : Context} (hk : s.prx.chunk = some k) (htodo : k.todo = [])
    (hi : contextOf s k.handle = some i) (hc : s.prx.contexts[i]? = some (some c)) :
    prxBurstDone false s =
      if k.last = true then completeBand i k.handle k.band (chunkDrained i c s) else chunkDrained i c s := by
  have hi' : contextOf { s with prx := { s.prx with chunk := none } } k.handle = some i := hi
  have hc' : contextAt { s with prx := { s.prx with chunk := none } } i = some c := contextAt_eq_some.2 hc
  simp only [prxBurstDone, Bool.false_eq_true, if_false, hk, htodo, List.isEmpty_nil, if_true, drainChunk, hi', hc']
  rfl

/-- The drained chunk's context, its timer started anew (R38). -/
theorem contextAt_chunkDrained {s : State} {i : Nat} {c : Context} (hc : s.prx.contexts[i]? = some (some c)) :
    contextAt (chunkDrained i c s) i = some { c with running := true } :=
  contextAt_eq_some.2 (List.getElem?_set_self (List.getElem?_eq_some_iff.1 hc).1)

/-! ## The judging of a band (R34, R42, R43) -/

/-- The context that a completed band has left. -/
def Context.without (c : Context) (b : Nat) : Context := { c with bands := c.bands.filter (fun q => q.band != b) }

/-- A band record as R34 judges it. -/
def BandRecord.judged (r : BandRecord) (verdict : Option DamageCause) : BandRecord :=
  { r with state := if verdict = none then .good else .damaged, cause := verdict }

/-- The state in which a chunk's last burst leaves its context when its band leaves it too, the chunk buffer empty. -/
def bandLeft (i : Nat) (c : Context) (b : Nat) (s : State) : State :=
  { s with prx := { s.prx with
    chunk := none, contexts := s.prx.contexts.set i (some (Context.without { c with running := true } b)) } }

theorem setContext_chunkDrained (i : Nat) (c : Context) (o : Option Context) (s : State) :
    setContext i o (chunkDrained i c s) = { s with prx := { s.prx with
      chunk := none, contexts := s.prx.contexts.set i o } } := by
  simp [setContext, chunkDrained]

theorem entry_setBand {s : State} {h b : Nat} {r : BandRecord} (hh : h < s.pdir.entries.length) :
    entry (setBand h b r s) h = { entry s h with bands := (entry s h).bands.set b r } := entry_setEntry_self hh

/-- A band record and the rest of its entry, written one after the other. -/
theorem setEntry_setBand {s : State} {h b : Nat} {r : BandRecord} (g : Entry → Entry) (hh : h < s.pdir.entries.length) :
    setEntry h (g (entry (setBand h b r s) h)) (setBand h b r s) =
      setEntry h (g { entry s h with bands := (entry s h).bands.set b r }) s := by
  rw [entry_setBand hh]
  exact setEntry_setEntry ..

section
variable {s : State} {i h b : Nat} {c : Context} {r : BandRecord} (hc : contextAt s i = some c) (hr : bandOf s h b = some r)
include hc hr

/-- R34, R42: a band is judged DAMAGED. -/
theorem completeBand_of_cause {cause : DamageCause} (hv : bandVerdict (c.progress b) r = some cause) :
    let u := setBand h b { r with state := .damaged, cause := some cause } (setContext i (some (c.without b)) s)
    completeBand i h b s =
      if c.mode = .reception then setEntry h { entry u h with damaged := (entry u h).damaged + 1 } u else u := by
  simp only [completeBand, hc, hr, hv]
  rfl

/-- R34, R43: a band is judged GOOD. -/
theorem completeBand_of_good (hv : bandVerdict (c.progress b) r = none) :
    let u := setBand h b { r with state := .good, cause := none } (setContext i (some (c.without b)) s)
    let v := setEntry h { entry u h with damaged := (entry u h).damaged - 1 } u
    completeBand i h b s =
      if c.mode = .reception then u
      else if (entry v h).damaged = 0 then
        noteEntry .repaired h (setContext i none (setEntry h { entry v h with state := .complete } v))
      else v := by
  simp only [completeBand, hc, hr, hv]
  rfl

/-- R34: a band of a reception is judged. -/
theorem completeBand_reception (hmode : c.mode = .reception) :
    let verdict := bandVerdict (c.progress b) r
    completeBand i h b s = setEntry h { entry s h with
        bands := (entry s h).bands.set b (r.judged verdict)
        damaged := if verdict = none then (entry s h).damaged else (entry s h).damaged + 1 }
      (setContext i (some (c.without b)) s) := by
  intro verdict
  cases hv : bandVerdict (c.progress b) r with
  | none =>
    simp only [verdict, hv, BandRecord.judged, if_true]
    exact (completeBand_of_good hc hr hv).trans (if_pos hmode)
  | some cause =>
    simp only [verdict, hv, BandRecord.judged, reduceCtorEq, if_false]
    refine ((completeBand_of_cause hc hr hv).trans (if_pos hmode)).trans ?_
    exact setEntry_setBand (s := setContext i (some (c.without b)) s) (fun e => { e with damaged := e.damaged + 1 })
      (handle_lt_of_band hr)

/-- R42: a band under repair is DAMAGED again. -/
theorem completeBand_damaged_again {cause : DamageCause} (hmode : c.mode = .repair)
    (hv : bandVerdict (c.progress b) r = some cause) :
    completeBand i h b s = setEntry h { entry s h with
        bands := (entry s h).bands.set b { r with state := .damaged, cause := some cause } }
      (setContext i (some (c.without b)) s) :=
  (completeBand_of_cause hc hr hv).trans (if_neg (by simp [hmode]))

/-- R43: a band under repair is GOOD. -/
theorem completeBand_repaired (hmode : c.mode = .repair) (hv : bandVerdict (c.progress b) r = none) :
    let good : Entry := { entry s h with
      bands := (entry s h).bands.set b { r with state := .good, cause := none }
      damaged := (entry s h).damaged - 1 }
    completeBand i h b s =
      if (entry s h).damaged - 1 = 0 then
        noteEntry .repaired h (setContext i none (setEntry h { good with state := .complete } s))
      else setEntry h good (setContext i (some (c.without b)) s) := by
  intro good
  have hh := handle_lt_of_band hr
  have hv' := setEntry_setBand (b := b) (r := { r with state := .good, cause := none })
    (s := setContext i (some (c.without b)) s) (fun e => { e with damaged := e.damaged - 1 }) hh
  refine ((completeBand_of_good hc hr hv).trans (if_neg (by simp [hmode]))).trans ?_
  simp only at hv'
  rw [hv', entry_setEntry_self (s := setContext i (some (c.without b)) s) hh, setEntry_setEntry]
  have hcontexts : setContext i none (setEntry h { good with state := .complete } (setContext i (some (c.without b)) s)) =
      setContext i none (setEntry h { good with state := .complete } s) := by simp [setContext, setEntry]
  exact congrArg (fun u => if (entry s h).damaged - 1 = 0 then noteEntry .repaired h u else _) hcontexts

end

/-- R31 to R34: the verdict on a band, its cause written out. -/
theorem bandVerdict_eq (p : BandProgress) (r : BandRecord) : bandVerdict p r =
    if p.sum + r.check ≠ 0 then some .checksum else scanVerdict p.scan := rfl

/-- Settles O23. -/
theorem chunkIsWrittenAndItsBandJudged : Obligations.ChunkIsWrittenAndItsBandJudged := by
  refine ⟨?_, ?_, ?_⟩
  · intro s o a a' bs bs' c todo stale hflight hc htodo hwaiting next
    have hasks {psc : Psc} (hfree : psc.engaged .prxWrite = false) :
        prxCompletion stale (burstWritten a bs s psc) = { s with
          dram := storeBytes a bs s.dram
          prx := { s.prx with chunk := some { c with todo := todo } }
          psc := psc.request next } := prxCompletion_asks stale hc htodo hfree
    rw [linkWriteDone_eq o hflight]
    cases o with
    | endFirst => exact congrArg Host.Outcome.next (hasks (endOperation_not_engaged hwaiting))
    | askFirst =>
      simp only [atEnd]
      rw [hasks (ending_not_engaged hwaiting)]
      rfl
  · intro s o a bs hflight hidle
    refine linkWriteDone_idle (t := { s with dram := storeBytes a bs s.dram }) o hflight fun psc => ?_
    rw [prxCompletion, prxBurstDone, if_pos rfl, prxPump_idle (s := burstWritten a bs s psc) hidle]
    exact testIfEntriesChanged_same rfl
  · intro s o a i bs k c p r hflight hk htodo hi hc
    refine ⟨fun hlast => ?_, fun hlast hmode hh hp hr => ?_⟩
    · refine linkWriteDone_idle (t := chunkDrained i c { s with dram := storeBytes a bs s.dram }) o hflight fun psc => ?_
      rw [prxCompletion, prxBurstDone_last (s := burstWritten a bs s psc) hk htodo hi hc, if_neg (by simp [hlast])]
      exact testIfEntriesChanged_same rfl
    · intro e verdict r'
      have hverdict : verdict = bandVerdict p r := by
        rw [bandVerdict_eq]
        simp only [verdict]
        cases p.scan <;> rfl
      obtain ⟨hprogress, -⟩ := Context.progress_of_find hp
      refine linkWriteDone_idle (t := setEntry k.handle
        { e with bands := e.bands.set k.band r', damaged := if verdict = none then e.damaged else e.damaged + 1 }
        (bandLeft i c k.band { s with dram := storeBytes a bs s.dram })) o hflight fun psc => ?_
      rw [prxCompletion, prxBurstDone_last (s := burstWritten a bs s psc) hk htodo hi hc, if_pos hlast,
        completeBand_reception (contextAt_chunkDrained (s := burstWritten a bs s psc) hc) hr hmode, setContext_chunkDrained,
        show Context.progress { c with running := true } k.band = p from hprogress, ← hverdict]
      exact state_unchanged (h := k.handle) rfl rfl

end Sys2Proof.Machine

/-! Repairs (R41 to R43): a repair is opened or joined, and ends with its last band GOOD. -/

namespace Sys2Proof.Machine

/-! ## The opening of a repair (R41) -/

/-- R41: the state in which the band of a repair opener restarts, in the context of index `i` as given. -/
def repairOpened (i h b : Nat) (r : BandRecord) (c : Context) (s : State) : State :=
  setContext i (some c)
    (setBand h b { r with state := .arriving, cause := none, received := 0, head := none } (returnChain r.head s).1)

/-- R41: a context's progress of a band that restarts. -/
def restarted (b : Nat) : BandProgress := ⟨b, 0, none, Scan.start⟩

theorem openRepair_joins {i h b : Nat} {r : BandRecord} {c : Context} {s : State} (hr : bandOf s h b = some r)
    (hc : contextAt s i = some c) :
    openRepair i h b s = repairOpened i h b r { c with bands := c.bands ++ [restarted b] } s := by
  simp only [openRepair, hr, hc]
  rfl

theorem openRepair_opens {i h b : Nat} {r : BandRecord} {s : State} (hr : bandOf s h b = some r)
    (hc : contextAt s i = none) :
    openRepair i h b s = repairOpened i h b r ⟨h, .repair, true, [restarted b]⟩ s := by
  simp only [openRepair, hr, hc]
  rfl

section
variable {i h b : Nat} {r : BandRecord} {c : Context} {s : State}

theorem contextAt_repairOpened (hi : i < s.prx.contexts.length) :
    contextAt (repairOpened i h b r c s) i = some c := contextAt_eq_some.2 (List.getElem?_set_self hi)

theorem bandOf_repairOpened (hr : bandOf s h b = some r) : bandOf (repairOpened i h b r c s) h b =
    some { r with state := .arriving, cause := none, received := 0, head := none } := by
  have hb : b < (entry s h).bands.length := (List.getElem?_eq_some_iff.1 hr).1
  have hentry : entry (repairOpened i h b r c s) h = _ := entry_of_entries (s := s) (h := h) rfl (handle_lt_of_band hr)
  rw [bandOf, hentry, if_pos rfl]
  exact List.getElem?_set_self hb

theorem startTimer_repairOpened (hi : i < s.prx.contexts.length) :
    startTimer i (repairOpened i h b r c s) = repairOpened i h b r { c with running := true } s := by
  simp only [startTimer, contextAt_repairOpened hi]
  simp [repairOpened, setContext]

end

/-! ## The checks of a repair opener (R41) -/

section
variable {f : Frame} {x : ChunkOperands} {r : BandRecord} {s : State}

theorem runOpener_bound (h : (entry s x.handle).refs ≠ 0) : runOpener f x r s = answer f rInUse [] s := if_pos h

theorem runOpener_offset (h : (entry s x.handle).refs = 0) (ho : x.offset ≠ 0) :
    runOpener f x r s = answer f rNotOpen [] s := by simp [runOpener, h, ho]

theorem runOpener_misfits (h : (entry s x.handle).refs = 0) (ho : x.offset = 0) (hfit : chunkMisfits x r.length = true) :
    runOpener f x r s = answer f rBadField [] s := by simp [runOpener, h, ho, hfit]

theorem runOpener_no_context (h : (entry s x.handle).refs = 0) (ho : x.offset = 0) (hfit : chunkFits x r.length)
    (hi : contextOf s x.handle = none) (hnone : freeContext s = none) :
    runOpener f x r s = answer f rNoRoom [] s := by
  simp [runOpener, h, ho, chunkMisfits_eq_false hfit, hi, hnone]

theorem runOpener_accepts {i : Nat} (h : (entry s x.handle).refs = 0) (ho : x.offset = 0) (hfit : chunkFits x r.length)
    (hi : (contextOf s x.handle).or (freeContext s) = some i) : runOpener f x r s =
      acceptChunk f x i true (startTimer i (openRepair i x.handle x.band s)) (openRepair i x.handle x.band s) := by
  simp [runOpener, h, ho, chunkMisfits_eq_false hfit, hi]

/-- R41: the band joins the repair that is open for its entry. -/
theorem runOpener_joins {i : Nat} {c : Context} (h : (entry s x.handle).refs = 0) (ho : x.offset = 0)
    (hfit : chunkFits x r.length) (hr : bandOf s x.handle x.band = some r) (hi : contextOf s x.handle = some i)
    (hc : contextAt s i = some c) : runOpener f x r s = acceptChunk f x i true
      (repairOpened i x.handle x.band r { c with running := true, bands := c.bands ++ [restarted x.band] } s)
      (repairOpened i x.handle x.band r { c with bands := c.bands ++ [restarted x.band] } s) := by
  have hlt := (List.getElem?_eq_some_iff.1 (contextAt_eq_some.1 hc)).1
  rw [runOpener_accepts h ho hfit (by rw [hi]; rfl), openRepair_joins hr hc, startTimer_repairOpened hlt]

/-- R41: a repair is opened in the lowest-numbered free context. -/
theorem runOpener_opens {i : Nat} (h : (entry s x.handle).refs = 0) (ho : x.offset = 0)
    (hfit : chunkFits x r.length) (hr : bandOf s x.handle x.band = some r) (hi : contextOf s x.handle = none)
    (hfree : freeContext s = some i) :
    let t := repairOpened i x.handle x.band r ⟨x.handle, .repair, true, [restarted x.band]⟩ s
    i < s.prx.contexts.length ∧ runOpener f x r s = acceptChunk f x i true t t := by
  obtain ⟨hlt, hnone, -⟩ := List.findIdx?_eq_some_iff_getElem.1 hfree
  have hc : contextAt s i = none := by
    rw [contextAt, List.getD_eq_getElem _ _ hlt]
    exact Option.isNone_iff_eq_none.1 hnone
  refine ⟨hlt, ?_⟩
  rw [runOpener_accepts h ho hfit (by rw [hi, hfree]; rfl), openRepair_opens hr hc, startTimer_repairOpened hlt]

end

theorem chunkFits_at_start {x : ChunkOperands} {declared : Nat} (ho : x.offset = 0) :
    chunkFits x declared ↔ x.chunk.length ≤ declared ∧ (x.last = true ↔ x.chunk.length = declared) := by
  simp [chunkFits, ho]

theorem chunkMisfits_of_not_fits {x : ChunkOperands} {declared : Nat} (h : ¬chunkFits x declared) :
    chunkMisfits x declared = true := by
  rw [chunkMisfits_iff, ← not_le]
  unfold chunkFits at h
  tauto

/-- R41, R46: how a repair opener whose checks have passed is answered, in the context of index `i` as given. -/
theorem opener_answers {s : State} {f : Frame} {rest : List Frame} {x : ChunkOperands} {r : BandRecord} {i : Nat}
    {c : Context} (htakes : takes s f rest) (hkind : ofKind 0x11 f) (hready : s.part = .ready)
    (hr : bandOf s x.handle x.band = some r) (hi : i < s.prx.contexts.length) (ho : x.offset = 0)
    (hrun : ∀ q, runPageBand f (taken s q) =
      acceptChunk f x i true (repairOpened i x.handle x.band r { c with running := true } (taken s q))
        (repairOpened i x.handle x.band r c (taken s q))) :
    let t := repairOpened i x.handle x.band r c (taken s rest)
    (placeChunk i x.handle x.band 0 x.last x.chunk t = none → exec .pageBand s =
      .next (answer f rStoreFull [] (repairOpened i x.handle x.band r { c with running := true } (taken s rest)))) ∧
    ∀ u, placeChunk i x.handle x.band 0 x.last x.chunk t = some u →
      (staleWriteInFlight s → exec .pageBand s = .next s) ∧
      (¬staleWriteInFlight s → exec .pageBand s = .next (answer f rOk (chunkFields u x true) u)) := by
  intro t
  have hcontext (q : List Frame) : contextAt (repairOpened i x.handle x.band r c (taken s q)) i = some c :=
    contextAt_repairOpened hi
  have hband (q : List Frame) : bandOf (repairOpened i x.handle x.band r c (taken s q)) x.handle x.band = some _ :=
    bandOf_repairOpened hr
  obtain ⟨-, hchunk, -⟩ := id htakes
  have hrun' := hrun s.lp.cmdQueue
  simp only [acceptChunk, ho] at hrun hrun'
  have halike : placeChunk i x.handle x.band 0 x.last x.chunk (repairOpened i x.handle x.band r c (taken s s.lp.cmdQueue)) =
      none ↔ placeChunk i x.handle x.band 0 x.last x.chunk t = none :=
    (placeChunk_eq_none (hcontext s.lp.cmdQueue) (hband s.lp.cmdQueue)).trans (placeChunk_eq_none (hcontext rest) (hband rest)).symm
  refine ⟨fun hnone => ?_, fun u hu => ⟨fun hstale => ?_, fun hstale => ?_⟩⟩
  · rw [halike.2 hnone] at hrun'
    have hlent : lentBlock (runPageBand f s) = false := by
      rw [show runPageBand f s = _ from hrun']
      exact lentBlock_of_no_chunk hchunk
    rw [pageBand_runs htakes hkind hready (.inl hlent), hrun, hnone]
  · obtain ⟨v, hv⟩ := Option.ne_none_iff_exists'.1 (mt halike.1 (by rw [hu]; simp))
    rw [hv] at hrun'
    refine pageBand_held htakes hready ?_ hstale
    rw [show runPageBand f s = _ from hrun']
    exact (lentBlock_placed (hcontext s.lp.cmdQueue) (hband s.lp.cmdQueue) hv).trans (needsBlock_iff.2 (.inl rfl))
  · rw [pageBand_runs htakes hkind hready (.inr hstale), hrun, hu]

/-- R42, R43: the completion of the last burst of a chunk that ends a band under repair. -/
theorem prxCompletion_last {s : State} {k : Chunk} {i : Nat} {c : Context} (hk : s.prx.chunk = some k) (htodo : k.todo = [])
    (hlast : k.last = true) (hi : contextOf s k.handle = some i) (hc : s.prx.contexts[i]? = some (some c)) :
    prxCompletion false s = testIfEntriesChanged s (completeBand i k.handle k.band (chunkDrained i c s)) := by
  rw [prxCompletion, prxBurstDone_last hk htodo hi hc, if_pos hlast]

theorem setContext_setEntry (i h : Nat) (o : Option Context) (e : Entry) (s : State) :
    setContext i o (setEntry h e s) = setEntry h e (setContext i o s) := rfl

/-- A note of an entry as it has just been written. -/
theorem noteEntry_setEntry {ev : PageEvent} {h : Nat} {e : Entry} {s : State} (hh : h < s.pdir.entries.length) :
    noteEntry ev h (setEntry h e s) = { setEntry h e s with lp := s.lp.queueReport (e.noteOf ev h) } := by
  rw [noteEntry_eq, entry_setEntry_self hh]
  rfl

/-- Settles O16. -/
theorem repairsAreOpenedAndJudged : Obligations.RepairsAreOpenedAndJudged := by
  refine ⟨?_, ?_⟩
  · intro s f rest x r htakes hkind hready hx hstate hr hbad hunder e fits fresh opened placed
    have hclosed : ¬bandIsOpen s x := by simp [bandIsOpen, hstate, hunder]
    have hopener (q : List Frame) : runPageBand f (taken s q) = runOpener f x r (taken s q) :=
      runPageBand_opener (s := taken s q) ⟨hx, .inr hstate, hr⟩ hclosed hbad
    have hfits (ho : x.offset = 0) : chunkFits x r.length ↔ fits := chunkFits_at_start ho
    refine ⟨fun hrefs => ?_, fun hrefs ho => ?_, fun hrefs ho hfit => ?_, fun hrefs ho hfit hi hfull => ?_,
      fun i hrefs ho hfit hi hfree => ?_, fun i c hrefs ho hfit hi hc => ?_⟩
    · exact pageBand_refused htakes hkind hready fun q => (hopener q).trans (runOpener_bound hrefs)
    · exact pageBand_refused htakes hkind hready fun q => (hopener q).trans (runOpener_offset hrefs ho)
    · exact pageBand_refused htakes hkind hready fun q => (hopener q).trans
        (runOpener_misfits hrefs ho (chunkMisfits_of_not_fits (mt (hfits ho).1 hfit)))
    · have hnone : freeContext s = none := by
        rw [freeContext, List.findIdx?_eq_none_iff]
        simpa using fun c hc => Option.isSome_iff_ne_none.2 (hfull c hc)
      exact pageBand_refused htakes hkind hready fun q => (hopener q).trans
        (runOpener_no_context hrefs ho ((hfits ho).2 hfit) hi hnone)
    · have hrun (q : List Frame) := runOpener_opens (s := taken s q) (f := f) hrefs ho ((hfits ho).2 hfit) hr hi hfree
      exact opener_answers htakes hkind hready hr (hrun rest).1 ho fun q => (hopener q).trans (hrun q).2
    · exact opener_answers htakes hkind hready hr (List.getElem?_eq_some_iff.1 hc).1 ho fun q => (hopener q).trans
        (runOpener_joins (s := taken s q) hrefs ho ((hfits ho).2 hfit) hr hi (contextAt_eq_some.2 hc))
  · intro s o a i bs k c p r hflight hk htodo hlast hi hc hmode hh hp hr e base c' good
    have hcontext (psc : Psc) : contextAt (chunkDrained i c (burstWritten a bs s psc)) i = some { c with running := true } :=
      contextAt_chunkDrained hc
    obtain ⟨hprogress, -⟩ := Context.progress_of_find hp
    have hprogress' : Context.progress { c with running := true } k.band = p := hprogress
    refine ⟨fun cause hv => ?_, fun hv hmore => ?_, fun hv hone hdamaged => ?_⟩
    · refine linkWriteDone_idle (t := setEntry k.handle
        { e with bands := e.bands.set k.band { r with state := .damaged, cause := some cause } }
        (bandLeft i c k.band { s with dram := storeBytes a bs s.dram })) o hflight fun psc => ?_
      rw [prxCompletion_last (s := burstWritten a bs s psc) hk htodo hlast hi hc,
        completeBand_damaged_again (hcontext psc) hr hmode (by rw [hprogress', hv]), setContext_chunkDrained]
      exact state_unchanged (h := k.handle) rfl rfl
    · refine linkWriteDone_idle (t := setEntry k.handle good
        (bandLeft i c k.band { s with dram := storeBytes a bs s.dram })) o hflight fun psc => ?_
      have hjudged := (completeBand_repaired (hcontext psc) hr hmode (by rw [hprogress', hv])).trans
        (if_neg (show ¬e.damaged - 1 = 0 by omega))
      rw [prxCompletion_last (s := burstWritten a bs s psc) hk htodo hlast hi hc, hjudged, setContext_chunkDrained]
      exact state_unchanged (h := k.handle) rfl rfl
    · intro repaired
      have hrun (psc : Psc) : prxCompletion false (burstWritten a bs s psc) = repaired psc := by
        have hjudged := (completeBand_repaired (hcontext psc) hr hmode (by rw [hprogress', hv])).trans
          (if_pos (show e.damaged - 1 = 0 by omega))
        rw [prxCompletion_last (s := burstWritten a bs s psc) hk htodo hlast hi hc, hjudged, setContext_setEntry,
          setContext_chunkDrained, noteEntry_setEntry (by exact hh)]
        exact state_changed (s := burstWritten a bs s psc) (h := k.handle) (e := { good with state := .complete }) hh rfl
          (by rw [show (entry (burstWritten a bs s psc) k.handle).state = .damaged from hdamaged]; simp)
      rw [linkWriteDone_eq o hflight, funext hrun]

end Sys2Proof.Machine

/-! PAGE.OPEN (R21 to R25): its checks in order, the entry and the reception that it creates, and the close of an older
reception of its key. -/

namespace Sys2Proof.Machine

theorem entry_of_getElem? {s : State} {h : Nat} {e : Entry} (he : s.pdir.entries[h]? = some e) : entry s h = e := by
  simp [entry, List.getD_eq_getElem?_getD, he]

theorem getElem?_of_lt {s : State} {h : Nat} (hh : h < s.pdir.entries.length) : s.pdir.entries[h]? = some (entry s h) := by
  rw [entry, List.getD_eq_getElem _ _ hh]
  exact List.getElem?_eq_getElem hh

/-! ## STALE_VERSION (R22) -/

/-- R22: an entry that makes a PAGE.OPEN STALE_VERSION. -/
def makesStale (x : ParcelHeader) (e : Entry) : Prop :=
  (e.state = .receiving ∨ e.state = .complete ∨ e.state = .damaged) ∧ e.key = x.key ∧ x.version ≤ e.version

/-- The handles of the entries that make a PAGE.OPEN STALE_VERSION. -/
def staleHandles (s : State) (x : ParcelHeader) : List Nat :=
  (List.range s.pdir.entries.length).filter fun h =>
    (entry s h).current && (entry s h).key == x.key && decide (x.version ≤ (entry s h).version)

theorem mem_staleHandles {s : State} {x : ParcelHeader} {h : Nat} :
    h ∈ staleHandles s x ↔ ∃ e, s.pdir.entries[h]? = some e ∧ makesStale x e := by
  have hstale (e : Entry) : (e.current && e.key == x.key && decide (x.version ≤ e.version)) = true ↔ makesStale x e := by
    simp [makesStale, Entry.current, and_assoc, or_assoc]
  simp only [staleHandles, List.mem_filter, List.mem_range, hstale]
  refine ⟨fun ⟨hlt, hs⟩ => ⟨entry s h, getElem?_of_lt hlt, hs⟩, fun ⟨e, he, hs⟩ => ?_⟩
  rw [entry_of_getElem? he]
  exact ⟨(List.getElem?_eq_some_iff.1 he).1, hs⟩

/-- R22: a better candidate is one of the two compared. -/
theorem higherVersion_cases (s : State) (acc : Option Nat) (g : Nat) :
    higherVersion s acc g = some g ∨ higherVersion s acc g = acc := by
  cases acc with
  | none => exact .inl rfl
  | some k =>
    by_cases hlt : (entry s k).version < (entry s g).version
    · exact .inl (if_pos hlt)
    · exact .inr (if_neg hlt)

/-- R22: an entry above all others is the better candidate whenever it is one. -/
theorem higherVersion_highest {s : State} {h g : Nat} {acc : Option Nat}
    (hg : g ≠ h → (entry s g).version < (entry s h).version)
    (hacc : ∀ k, acc = some k → k ≠ h → (entry s k).version < (entry s h).version) (hmem : acc = some h ∨ g = h) :
    higherVersion s acc g = some h := by
  by_cases hgh : g = h
  · subst hgh
    cases acc with
    | none => rfl
    | some k =>
      by_cases hk : k = g
      · subst hk
        exact if_neg (Nat.lt_irrefl _)
      · exact if_pos (hacc k rfl hk)
  · rw [hmem.resolve_right hgh]
    exact if_neg (Nat.lt_asymm (hg hgh))

/-- R22: the search for the highest version finds the one entry that is above all others. -/
theorem foldl_higherVersion {s : State} {h : Nat} : ∀ {l : List Nat} {acc : Option Nat},
    (∀ g ∈ l, g ≠ h → (entry s g).version < (entry s h).version) →
    (∀ g, acc = some g → g ≠ h → (entry s g).version < (entry s h).version) → (acc = some h ∨ h ∈ l) →
    l.foldl (higherVersion s) acc = some h
  | [], acc, _, _, hmem => by simpa using hmem
  | g :: l, acc, hl, hacc, hmem => by
    have hg := hl g (List.mem_cons_self ..)
    rw [List.foldl_cons]
    refine foldl_higherVersion (fun k hk => hl k (List.mem_cons_of_mem _ hk)) (fun k hk hne => ?_) ?_
    · rcases higherVersion_cases s acc g with hstep | hstep
      · obtain rfl : g = k := Option.some.inj (hstep.symm.trans hk)
        exact hg hne
      · exact hacc k (hstep.symm.trans hk) hne
    · rcases hmem with hmem | hmem
      · exact .inl (higherVersion_highest hg hacc (.inl hmem))
      · rcases List.mem_cons.1 hmem with hgh | hmem
        · exact .inl (higherVersion_highest hg hacc (.inr hgh.symm))
        · exact .inr hmem

theorem staleEntry_eq (s : State) (x : ParcelHeader) :
    staleEntry s x.key x.version = (staleHandles s x).foldl (higherVersion s) none := rfl

theorem staleEntry_none {s : State} {x : ParcelHeader} (h : ∀ e ∈ s.pdir.entries, ¬makesStale x e) :
    staleEntry s x.key x.version = none := by
  have hnil : staleHandles s x = [] := List.eq_nil_iff_forall_not_mem.2 fun g hg => by
    obtain ⟨e, he, hs⟩ := mem_staleHandles.1 hg
    exact h e (List.mem_of_getElem? he) hs
  rw [staleEntry_eq, hnil]
  rfl

theorem staleEntry_some {s : State} {x : ParcelHeader} {h : Nat} {e : Entry} (he : s.pdir.entries[h]? = some e)
    (hs : makesStale x e)
    (hmax : ∀ (g : Nat) (d : Entry), s.pdir.entries[g]? = some d → g ≠ h → makesStale x d → d.version < e.version) :
    staleEntry s x.key x.version = some h := by
  rw [staleEntry_eq]
  refine foldl_higherVersion (fun g hg hne => ?_) (by simp) (.inr (mem_staleHandles.2 ⟨e, he, hs⟩))
  obtain ⟨d, hd, hds⟩ := mem_staleHandles.1 hg
  rw [entry_of_getElem? hd, entry_of_getElem? he]
  exact hmax g d hd hne hds

/-! ## VERSION_GAP, NO_ROOM (R22 to R24) -/

/-- R22: the predecessor that a supersedes field names is held. -/
def heldFor (x : ParcelHeader) (s : State) : Prop :=
  ∀ v, x.supersedes = some v → ∃ e ∈ s.pdir.entries, e.state ≠ .empty ∧ e.key = x.key ∧ e.version = v

theorem versionGap_iff (s : State) (x : ParcelHeader) :
    x.supersedes.any (fun v => !predecessorHeld s x.key v) = false ↔ heldFor x s := by
  cases hx : x.supersedes with
  | none => simp [heldFor, hx]
  | some v => simp [heldFor, hx, predecessorHeld, and_assoc]

theorem olderReception_none {s : State} {k : PageKey} (h : ∀ e ∈ s.pdir.entries, ¬(e.state = .receiving ∧ e.key = k)) :
    olderReception s k = none := by
  rw [olderReception, List.findIdx?_eq_none_iff]
  intro e he
  simpa using h e he

/-- R24: with no older reception, a PAGE.OPEN finds room where an entry, a context and its band records are free. -/
theorem roomFor_eq_true {s : State} {h i n : Nat} (hh : s.pdir.entries.findIdx? (fun e => e.state == .empty) = some h)
    (hi : s.prx.contexts.findIdx? Option.isNone = some i) (hn : n ≤ freeRecords s) : roomFor s none n = true := by
  obtain ⟨hlt, hempty, -⟩ := List.findIdx?_eq_some_iff_getElem.1 hh
  have hany : s.pdir.entries.any (fun e => e.state == .empty) = true := List.any_eq_true.2 ⟨_, List.getElem_mem hlt, hempty⟩
  simp [roomFor, freeContext, hany, hi, hn]

theorem roomFor_eq_false {s : State} {n : Nat} (h : (∀ e ∈ s.pdir.entries, e.state ≠ .empty) ∨
    (∀ c ∈ s.prx.contexts, c ≠ none) ∨ freeRecords s < n) : roomFor s none n = false := by
  simp only [roomFor, freeContext, Bool.and_eq_false_iff, List.any_eq_false, beq_iff_eq, Option.isSome_eq_false_iff,
    Option.isNone_iff_eq_none, List.findIdx?_eq_none_iff, decide_eq_false_iff_not, or_assoc]
  refine h.imp_right (Or.imp (fun hc c hmem => ?_) Nat.not_le.2)
  rw [Option.isNone_eq_false_iff, Option.isSome_iff_ne_none]
  exact hc c hmem

theorem olderReception_some {s : State} {k : PageKey} {g : Nat} {e : Entry} (he : s.pdir.entries[g]? = some e)
    (hstate : e.state = .receiving) (hkey : e.key = k)
    (hone : ∀ (j : Nat) (d : Entry), s.pdir.entries[j]? = some d → d.state = .receiving → d.key = k → j = g) :
    olderReception s k = some g := by
  obtain ⟨hlt, rfl⟩ := List.getElem?_eq_some_iff.1 he
  rw [olderReception, List.findIdx?_eq_some_iff_getElem]
  refine ⟨hlt, by simp [hstate, hkey], fun j hj hcontra => ?_⟩
  simp only [Bool.and_eq_true, beq_iff_eq] at hcontra
  exact Nat.ne_of_lt hj (hone j _ (List.getElem?_eq_getElem _) hcontra.1 hcontra.2)

/-! ## The checks of R22 to R24 in order -/

section
variable {s : State} {f : Frame} {x : ParcelHeader} (hx : parseOpen f.payload = some x)
include hx

theorem runPageOpen_stale {h : Nat} (hstale : staleEntry s x.key x.version = some h) :
    runPageOpen f s = answer f rStaleVersion (u8 h ++ u16 (entry s h).version) s := by simp [runPageOpen, hx, hstale]

theorem runPageOpen_gap (hstale : staleEntry s x.key x.version = none) (hgap : ¬heldFor x s) :
    runPageOpen f s = answer f rVersionGap [] s := by
  rw [← versionGap_iff, Bool.not_eq_false] at hgap
  simp [runPageOpen, hx, hstale, hgap]

variable (hstale : staleEntry s x.key x.version = none) (hheld : heldFor x s)
include hstale hheld

theorem runPageOpen_no_room (hroom : roomFor s (olderReception s x.key) x.descriptors.length = false) :
    runPageOpen f s = answer f rNoRoom [] s := by
  rw [← versionGap_iff] at hheld
  simp [runPageOpen, hx, hstale, hheld, hroom]

theorem runPageOpen_creates {h : Nat} {t : State}
    (hroom : roomFor s (olderReception s x.key) x.descriptors.length = true)
    (hcreate : createEntry x (closeOlder (olderReception s x.key) s) = some (h, t)) :
    runPageOpen f s = scheduleTest (answer f rOk (u8 h) t) := by
  rw [← versionGap_iff] at hheld
  simp [runPageOpen, hx, hstale, hheld, hroom, hcreate]

end

/-! ## The entry and the reception created (R25) -/

/-- R25: the state in which a parcel's entry and its reception stand opened. -/
def parcelOpened (x : ParcelHeader) (h i : Nat) (s : State) : State :=
  let stamp := if s.pdir.counter + 1 = 4294967296 then 0 else s.pdir.counter + 1
  { s with
    pdir := { entries := s.pdir.entries.set h (openedEntry x stamp), counter := stamp }
    prx := { s.prx with contexts := s.prx.contexts.set i (some (openedContext h x.descriptors.length)) } }

/-- R49: the open counter wraps at 32 bits. -/
theorem nextStamp_eq {n : Nat} (h : n < 4294967296) : nextStamp n = if n + 1 = 4294967296 then 0 else n + 1 := by
  unfold nextStamp
  split <;> omega

theorem createEntry_eq {x : ParcelHeader} {s : State} {h i : Nat}
    (hh : s.pdir.entries.findIdx? (fun e => e.state == .empty) = some h)
    (hi : s.prx.contexts.findIdx? Option.isNone = some i) (hcounter : s.pdir.counter < 4294967296) :
    createEntry x s = some (h, parcelOpened x h i s) := by
  have hi' : freeContext s = some i := hi
  simp only [createEntry, hh, hi', nextStamp_eq hcounter]
  rfl

/-! ## The older reception (R23) -/

/-- Where one context alone serves an entry, none does once it is free. -/
theorem contextOf_freed {s t : State} {g j : Nat} (ht : t.prx.contexts = s.prx.contexts.set j none)
    (hone : ∀ (k : Nat) (c : Context), s.prx.contexts[k]? = some (some c) → c.handle = g → k = j) :
    contextOf t g = none := by
  rw [contextOf, List.findIdx?_eq_none_iff, ht]
  intro c hc
  obtain ⟨k, hk⟩ := List.mem_iff_getElem?.1 hc
  cases c with
  | none => rfl
  | some c =>
    rw [List.getElem?_set] at hk
    split at hk
    · simp at hk
    · rename_i hne
      exact beq_false_of_ne fun hg => hne (hone k c hk hg).symm

/-- R23: an older reception that is open is closed, and its entry released. -/
theorem closeOlder_eq {s : State} {g j : Nat} (hg : g < s.pdir.entries.length) (hj : contextOf s g = some j) :
    let gone : Entry := { (entry s g).ended with state := .superseded }
    closeOlder (some g) s = releaseEntry g .superseded { s with
      psc := s.psc.returnChains (entry s g).openChains
      pdir := { s.pdir with entries := s.pdir.entries.set g gone }
      prx := { s.prx with contexts := s.prx.contexts.set j none }
      lp := s.lp.queueReport (gone.noteOf .closed g) } := by
  obtain ⟨-, -, hclose⟩ := closeReception_spec .closed true g s hg
  have hstate : (if true = true ∨ newerHeld s g = true then EntryState.superseded else (entry s g).ended.state) = .superseded :=
    if_pos (.inl rfl)
  rw [hstate, freedContexts_some hj] at hclose
  exact hclose.trans (if_pos rfl)

/-- R59: the directory and the contexts behind the release of an entry that no context serves. -/
theorem releaseEntry_unserved {h : Nat} {cause : ReleaseCause} {s : State} (hnone : contextOf s h = none) :
    (releaseEntry h cause s).pdir = { s.pdir with entries := s.pdir.entries.set h Entry.empty } ∧
      (releaseEntry h cause s).prx.contexts = s.prx.contexts := by
  have hfreed : freedContexts s h = s.prx.contexts := by simp [freedContexts, hnone]
  obtain ⟨-, heq⟩ := releaseEntry_eq h cause s
  rw [heq, hfreed]
  exact ⟨rfl, rfl⟩

/-- Settles O12. -/
theorem pageOpenIsCheckedAndCreatesAnEntry : Obligations.PageOpenIsCheckedAndCreatesAnEntry := by
  have hexec {s : State} {f : Frame} {rest : List Frame} (htakes : takes s f rest) (hkind : ofKind 0x10 f)
      (hready : s.part = .ready) : exec .pageOpen s = .next (runPageOpen f (taken s rest)) :=
    serve_ready htakes hkind hready _
  refine ⟨fun s f rest htakes hkind hready => ?_, fun s f rest x h i htakes hkind hready hx hfresh hheld hh hi hn hcounter => ?_,
    fun s f rest x g e htakes hkind hready hx hnone hheld he hstate hkey hone => ?_⟩
  · rw [hexec htakes hkind hready]
    refine ⟨fun hbad => by simp [runPageOpen, hbad, rBadField], fun x hx => ?_⟩
    intro noOlder
    refine ⟨?_, ?_, ?_⟩
    · intro h e he hs hmax
      have hstale := staleEntry_some (s := taken s rest) he hs hmax
      rw [runPageOpen_stale hx hstale, entry_of_getElem? (s := taken s rest) he]
      rfl
    · intro hnone hgap
      exact congrArg Host.Outcome.next (runPageOpen_gap hx (staleEntry_none (s := taken s rest) hnone) hgap)
    · intro hnone hheld holder hfull
      refine congrArg Host.Outcome.next (runPageOpen_no_room hx (staleEntry_none (s := taken s rest) hnone) hheld ?_)
      rw [olderReception_none (s := taken s rest) holder]
      exact roomFor_eq_false (s := taken s rest) hfull
  · have hnone : ∀ e ∈ s.pdir.entries, ¬makesStale x e := by
      rintro e he ⟨hstate, hkey, hversion⟩
      rcases hfresh e he hkey with h | h | ⟨-, h⟩
      · simp [h] at hstate
      · simp [h] at hstate
      · exact Nat.not_lt.2 hversion h
    have holder : ∀ e ∈ s.pdir.entries, ¬(e.state = .receiving ∧ e.key = x.key) := by
      rintro e he ⟨hstate, hkey⟩
      simpa [hstate] using hfresh e he hkey
    have hroom : roomFor s none x.descriptors.length = true := roomFor_eq_true hh hi hn
    rw [hexec htakes hkind hready, runPageOpen_creates hx (staleEntry_none (s := taken s rest) hnone) hheld
      (by rw [olderReception_none (s := taken s rest) holder]; exact hroom)
      (by rw [olderReception_none (s := taken s rest) holder]; exact createEntry_eq (s := taken s rest) hh hi hcounter)]
    rfl
  · have hentry : entry (taken s rest) g = e := entry_of_getElem? (s := taken s rest) he
    have holder : olderReception (taken s rest) x.key = some g := olderReception_some (s := taken s rest) he hstate hkey hone
    have hstale := staleEntry_none (s := taken s rest) hnone
    rw [hexec htakes hkind hready]
    refine ⟨fun hfull => ?_, fun j h i hn hj hserved hh hi hcounter => ?_⟩
    · refine congrArg Host.Outcome.next (runPageOpen_no_room hx hstale hheld ?_)
      rw [holder]
      simp only [roomFor, hentry, decide_eq_false_iff_not]
      exact Nat.not_le.2 hfull
    · intro gone closed
      have hg : g < s.pdir.entries.length := (List.getElem?_eq_some_iff.1 he).1
      have hclose : closeOlder (some g) (taken s rest) = releaseEntry g .superseded closed := by
        rw [closeOlder_eq (s := taken s rest) hg hj, hentry]
        simp only [closed, taken, queueReport_taken]
        rfl
      obtain ⟨hpdir, hcontexts⟩ := releaseEntry_unserved (h := g) (cause := .superseded) (s := closed)
        (contextOf_freed (s := s) (t := closed) rfl hserved)
      have hroom : roomFor (taken s rest) (some g) x.descriptors.length = true := by
        simp only [roomFor, hentry, decide_eq_true_eq]
        exact hn
      have hcreate : createEntry x (releaseEntry g .superseded closed) =
          some (h, parcelOpened x h i (releaseEntry g .superseded closed)) := by
        refine createEntry_eq ?_ ?_ ?_
        · rw [hpdir, ← hh]
          exact congrArg (List.findIdx? _) (List.set_set ..)
        · rw [hcontexts, ← hi]
        · rw [hpdir]
          exact hcounter
      rw [runPageOpen_creates hx hstale hheld (by rw [holder]; exact hroom) (by rw [holder, hclose]; exact hcreate)]
      rfl

end Sys2Proof.Machine

/-! The directory's laws handle by handle (R26, R50, R51): what the laws read of the state, and how they carry over when
one entry, its context and its chunk change. -/

namespace Sys2Proof.Machine

/-! ## What the laws read of the state -/

/-- What the directory's laws read of the state. -/
structure DirectoryView where
  entries : List Entry
  contexts : List (Option Context)
  chunk : Option (Nat × Nat × Bool)

def directoryView (s : State) : DirectoryView where
  entries := s.pdir.entries
  contexts := s.prx.contexts
  chunk := s.prx.chunk.map fun k => (k.handle, k.band, k.last)

/-- What the laws read of one handle: its entry, the busy contexts that serve it with their indices, and the band and
LAST of its chunk in the chunk buffer. -/
structure HandleView where
  entry : Entry
  servants : Set (Nat × Context)
  chunk : Option (Nat × Bool)

/-- The busy contexts of an entry, with their indices. -/
def servants (l : List (Option Context)) (h : Nat) : Set (Nat × Context) :=
  {p | l[p.1]? = some (some p.2) ∧ p.2.handle = h}

/-- The band and LAST of an entry's chunk in the chunk buffer. -/
def chunkOf (s : State) (h : Nat) : Option (Nat × Bool) :=
  s.prx.chunk.bind fun k => if k.handle = h then some (k.band, k.last) else none

def handleView (s : State) (h : Nat) : HandleView := ⟨entry s h, servants s.prx.contexts h, chunkOf s h⟩

theorem handleView_of_view_eq {s t : State} (hv : directoryView t = directoryView s) (h : Nat) :
    handleView t h = handleView s h := by
  simp only [directoryView, DirectoryView.mk.injEq] at hv
  obtain ⟨hentries, hcontexts, hchunk⟩ := hv
  have hchunkOf (u : State) : chunkOf u h =
      (u.prx.chunk.map fun k => (k.handle, k.band, k.last)).bind fun p => if p.1 = h then some p.2 else none := by
    unfold chunkOf
    cases u.prx.chunk <;> rfl
  simp only [handleView, entry, hentries, hcontexts, hchunkOf, hchunk]

/-! ## The laws of one handle -/

/-- A context fits the entry that it serves (R26, R57): a reception a RECEIVING one, a repair an unbound DAMAGED one, and
it covers exactly the open bands. -/
def contextFits (c : Context) (e : Entry) : Prop :=
  ((e.state = .receiving ∧ c.mode = .reception) ∨ (e.state = .damaged ∧ c.mode = .repair ∧ e.refs = 0)) ∧
    ∀ (b : Nat) (r : BandRecord), e.bands[b]? = some r → (c.covers b = true ↔ r.isOpen = true)

/-- A chunk fits the context and the entry whose it is (R29, R38). -/
def chunkFitsIn (k : Nat × Bool) (c : Context) (e : Entry) : Prop :=
  c.running = false ∧ c.covers k.1 = true ∧
    ∃ r, e.bands[k.1]? = some r ∧ r.state = .arriving ∧ (k.2 = true → r.received = r.length)

/-- The laws of one handle. -/
structure HandleView.Sound (v : HandleView) : Prop where
  entry : entrySound v.entry
  one : v.servants.Subsingleton
  fits : ∀ p ∈ v.servants, contextFits p.2 v.entry
  received : v.entry.state = .receiving → v.servants.Nonempty
  unserved : v.entry.state = .damaged → v.servants = ∅ → ∀ r ∈ v.entry.bands, r.isOpen = false
  chunk : ∀ k, v.chunk = some k → ∃ p ∈ v.servants, chunkFitsIn k p.2 v.entry

/-- At most one entry of a key is closed, and at most one in RECEIVING (R50, R51). -/
def keysDistinct (s : State) : Prop := ∀ g h, (entry s g).key = (entry s h).key →
  ((entry s g).closed = true → (entry s h).closed = true → g = h) ∧
    ((entry s g).state = .receiving → (entry s h).state = .receiving → g = h)

/-! ## The context that serves an entry -/

theorem contextOf_eq_none {s : State} {h : Nat} : contextOf s h = none ↔ servants s.prx.contexts h = ∅ := by
  rw [contextOf, List.findIdx?_eq_none_iff, Set.eq_empty_iff_forall_notMem]
  constructor
  · rintro hnone ⟨i, c⟩ ⟨hc, hh⟩
    exact absurd hh (by simpa using hnone (some c) (List.mem_of_getElem? hc))
  · intro hempty c hc
    obtain ⟨i, hi⟩ := List.mem_iff_getElem?.1 hc
    cases c with
    | none => rfl
    | some c => exact beq_false_of_ne fun hh => hempty (i, c) ⟨hi, hh⟩

theorem contextOf_eq_some {s : State} {h i : Nat} (hi : contextOf s h = some i) :
    ∃ c, (i, c) ∈ servants s.prx.contexts h := by
  obtain ⟨hlt, hc, -⟩ := List.findIdx?_eq_some_iff_getElem.1 hi
  cases hci : s.prx.contexts[i] with
  | none => simp [hci] at hc
  | some c =>
    refine ⟨c, ?_, by simpa [hci] using hc⟩
    simp [hlt, hci]

/-- Where one context serves an entry, it is the one that is found for it. -/
theorem contextOf_of_mem {s : State} {h i : Nat} {c : Context} (hone : (servants s.prx.contexts h).Subsingleton)
    (hc : (i, c) ∈ servants s.prx.contexts h) : contextOf s h = some i := by
  cases hi : contextOf s h with
  | none =>
    rw [contextOf_eq_none.1 hi] at hc
    exact hc.elim
  | some j =>
    obtain ⟨d, hd⟩ := contextOf_eq_some hi
    exact congrArg some (congrArg Prod.fst (hone hd hc))

theorem chunkOf_eq_some {s : State} {h : Nat} {p : Nat × Bool} :
    chunkOf s h = some p ↔ ∃ k, s.prx.chunk = some k ∧ k.handle = h ∧ p = (k.band, k.last) := by
  unfold chunkOf
  cases s.prx.chunk with
  | none => simp
  | some k => simp [eq_comm]

/-- The directory's laws are those of each handle, and the uniqueness of the keys. -/
theorem directorySound_iff (s : State) : directorySound s ↔ (∀ h, (handleView s h).Sound) ∧ keysDistinct s := by
  constructor
  · rintro ⟨hentries, hclosed, hreceiving, ⟨hcontexts, hserved, hunserved⟩, hchunk⟩
    refine ⟨fun h => ⟨hentries h, ?_, ?_, ?_, ?_, ?_⟩, fun g h hkey => ⟨fun hg hh => hclosed g h hg hh hkey,
      fun hg hh => hreceiving g h hg hh hkey⟩⟩
    · rintro ⟨i, c⟩ ⟨hc, rfl⟩ ⟨j, d⟩ ⟨hd, hh⟩
      have hi := (hcontexts i c hc).1
      have hj := (hcontexts j d hd).1
      have hij : i = j := Option.some.inj (hi.symm.trans ((congrArg (contextOf s) hh.symm).trans hj))
      subst hij
      rw [hd] at hc
      cases hc
      rfl
    · rintro ⟨i, c⟩ ⟨hc, rfl⟩
      exact (hcontexts i c hc).2
    · intro hstate
      obtain ⟨i, hi⟩ := Option.isSome_iff_exists.1 (hserved h hstate)
      obtain ⟨c, hc⟩ := contextOf_eq_some hi
      exact ⟨_, hc⟩
    · intro hstate hnone
      exact hunserved h hstate (contextOf_eq_none.2 hnone)
    · intro k hk
      obtain ⟨x, hx, rfl, rfl⟩ := chunkOf_eq_some.1 hk
      obtain ⟨i, c, r, hi, hc, hrunning, hcovers, hr, hstate, hlast⟩ := hchunk x hx
      obtain ⟨d, hd, hh⟩ := contextOf_eq_some hi
      have hcd : d = c := by simpa [hc] using hd.symm
      subst hcd
      exact ⟨(i, d), ⟨hc, hh⟩, hrunning, hcovers, r, hr, hstate, hlast⟩
  · rintro ⟨hsound, hkeys⟩
    have hone (h : Nat) : (servants s.prx.contexts h).Subsingleton := (hsound h).one
    refine ⟨fun h => (hsound h).entry, fun g h hg hh hkey => (hkeys g h hkey).1 hg hh,
      fun g h hg hh hkey => (hkeys g h hkey).2 hg hh, ⟨fun i c hc => ?_, fun h hstate => ?_, fun h hstate hnone => ?_⟩,
      fun k hk => ?_⟩
    · have hmem : (i, c) ∈ servants s.prx.contexts c.handle := ⟨hc, rfl⟩
      exact ⟨contextOf_of_mem (hone _) hmem, (hsound _).fits _ hmem⟩
    · obtain ⟨⟨i, c⟩, hc⟩ := (hsound h).received hstate
      rw [contextOf_of_mem (hone h) hc]
      rfl
    · exact (hsound h).unserved hstate (contextOf_eq_none.1 hnone)
    · obtain ⟨⟨i, c⟩, hc, hrunning, hcovers, r, hr, hstate, hlast⟩ :=
        (hsound k.handle).chunk _ (chunkOf_eq_some.2 ⟨k, hk, rfl, rfl⟩)
      exact ⟨i, c, r, contextOf_of_mem (hone _) hc, hc.1, hrunning, hcovers, hr, hstate, hlast⟩

theorem directorySound_of_view_eq {s t : State} (hv : directoryView t = directoryView s) (h : directorySound s) :
    directorySound t := by
  rw [directorySound_iff] at h ⊢
  obtain ⟨hsound, hkeys⟩ := h
  have hentry (g : Nat) : entry t g = entry s g := congrArg HandleView.entry (handleView_of_view_eq hv g)
  refine ⟨fun g => handleView_of_view_eq hv g ▸ hsound g, fun g k => ?_⟩
  rw [hentry, hentry]
  exact hkeys g k

/-! ## A change at one handle -/

/-- Nothing that the directory's laws read is changed but at one handle. -/
def ChangedAt (h : Nat) (s t : State) : Prop := ∀ g, g ≠ h → handleView t g = handleView s g

theorem ChangedAt.trans {h : Nat} {s t u : State} (hst : ChangedAt h s t) (htu : ChangedAt h t u) : ChangedAt h s u :=
  fun g hg => (htu g hg).trans (hst g hg)

theorem ChangedAt.entry {h g : Nat} {s t : State} (hst : ChangedAt h s t) (hg : g ≠ h) : entry t g = entry s g :=
  congrArg HandleView.entry (hst g hg)

/-- The laws carry over a change at one handle, where the handle's own laws hold after it and its key is not another's. -/
theorem directorySound_of_changedAt {s t : State} {h : Nat} (hs : directorySound s) (hchanged : ChangedAt h s t)
    (hsound : (handleView t h).Sound)
    (hkey : ∀ g, g ≠ h → (entry s g).key = (entry t h).key →
      ¬((entry s g).closed = true ∧ (entry t h).closed = true) ∧
        ¬((entry s g).state = .receiving ∧ (entry t h).state = .receiving)) : directorySound t := by
  rw [directorySound_iff] at hs ⊢
  obtain ⟨hall, hkeys⟩ := hs
  refine ⟨fun g => ?_, fun g k => ?_⟩
  · by_cases hg : g = h
    · exact hg ▸ hsound
    · rw [hchanged g hg]
      exact hall g
  · intro hgk
    by_cases hg : g = h
    · by_cases hk : k = h
      · exact ⟨fun _ _ => hg.trans hk.symm, fun _ _ => hg.trans hk.symm⟩
      · subst hg
        rw [hchanged.entry hk] at hgk ⊢
        obtain ⟨hclosed, hreceiving⟩ := hkey k hk hgk.symm
        exact ⟨fun hcg hck => absurd ⟨hck, hcg⟩ hclosed, fun hrg hrk => absurd ⟨hrk, hrg⟩ hreceiving⟩
    · by_cases hk : k = h
      · subst hk
        rw [hchanged.entry hg] at hgk ⊢
        obtain ⟨hclosed, hreceiving⟩ := hkey g hg hgk
        exact ⟨fun hcg hck => absurd ⟨hcg, hck⟩ hclosed, fun hrg hrk => absurd ⟨hrg, hrk⟩ hreceiving⟩
      · rw [hchanged.entry hg, hchanged.entry hk] at *
        exact hkeys g k hgk

/-- The laws carry over a change at one handle that keeps its key and makes it neither closed nor RECEIVING. -/
theorem directorySound_of_kept {s t : State} {h : Nat} (hs : directorySound s) (hchanged : ChangedAt h s t)
    (hsound : (handleView t h).Sound) (hkey : (entry t h).key = (entry s h).key)
    (hclosed : (entry t h).closed = true → (entry s h).closed = true)
    (hreceiving : (entry t h).state = .receiving → (entry s h).state = .receiving) : directorySound t := by
  obtain ⟨-, hkeys⟩ := (directorySound_iff s).1 hs
  refine directorySound_of_changedAt hs hchanged hsound fun g hg hgk => ?_
  obtain ⟨hc, hr⟩ := hkeys g h (hgk.trans hkey)
  exact ⟨fun ⟨hcg, hch⟩ => hg (hc hcg (hclosed hch)), fun ⟨hrg, hrh⟩ => hg (hr hrg (hreceiving hrh))⟩

/-- The laws carry over a change that leaves a handle EMPTY and unserved, or otherwise neither closed nor RECEIVING. -/
theorem directorySound_of_retired {s t : State} {h : Nat} (hs : directorySound s) (hchanged : ChangedAt h s t)
    (hsound : (handleView t h).Sound) (hstate : (entry t h).state = .empty ∨ (entry t h).state = .superseded) :
    directorySound t := by
  refine directorySound_of_changedAt hs hchanged hsound fun g hg hgk => ⟨fun hc => ?_, fun hr => ?_⟩
  · rcases hstate with h' | h' <;> simp [Entry.closed, h'] at hc
  · rcases hstate with h' | h' <;> simp [h'] at hr

end Sys2Proof.Machine

/-! What the directory's shared operations change of what its laws read, and that they keep the laws of the handle: the end
of a repair, release, binding, unbinding and store damage (R44, R56 to R59, R65). -/

namespace Sys2Proof.Machine

/-! ## Parts of a handle's view -/

/-- Contexts other than an entry's own are unchanged when the context at an index becomes the entry's. -/
theorem servants_set_other {l : List (Option Context)} {i h g : Nat} {o : Option Context} (hg : g ≠ h)
    (hold : ∀ c, l[i]? = some (some c) → c.handle = h) (hnew : ∀ c, o = some c → c.handle = h) :
    servants (l.set i o) g = servants l g := by
  ext ⟨j, c⟩
  simp only [servants, Set.mem_ofPred_eq]
  by_cases hj : i = j
  · subst hj
    refine iff_of_false ?_ (fun ⟨hc, hcg⟩ => hg (hcg.symm.trans (hold c hc)))
    rintro ⟨hc, hcg⟩
    rw [List.getElem?_set] at hc
    split at hc
    · split at hc
      · exact hg (hcg.symm.trans (hnew c (Option.some.inj hc)))
      · cases hc
    · exact hg (hcg.symm.trans (hold c hc))
  · rw [List.getElem?_set_ne hj]

/-- The context at an index is an entry's only one once no other index serves the entry. -/
theorem servants_set_self {l : List (Option Context)} {i h : Nat} {o : Option Context} (hi : i < l.length)
    (hone : ∀ p ∈ servants l h, p.1 = i) (hnew : ∀ c, o = some c → c.handle = h) :
    servants (l.set i o) h = {p | p.1 = i ∧ o = some p.2} := by
  ext ⟨j, c⟩
  simp only [servants, Set.mem_ofPred_eq]
  by_cases hj : i = j
  · subst hj
    rw [List.getElem?_set_self hi]
    exact ⟨fun ⟨hc, _⟩ => ⟨rfl, Option.some.inj hc⟩, fun ⟨_, hc⟩ => ⟨congrArg some hc, hnew c hc⟩⟩
  · rw [List.getElem?_set_ne hj]
    exact ⟨fun hc => absurd (hone (j, c) hc).symm hj, fun ⟨hji, _⟩ => absurd hji.symm hj⟩

theorem changedAt_of_parts {s t : State} {h : Nat} (hentry : ∀ g, g ≠ h → entry t g = entry s g)
    (hservants : ∀ g, g ≠ h → servants t.prx.contexts g = servants s.prx.contexts g)
    (hchunk : ∀ g, g ≠ h → chunkOf t g = chunkOf s g) : ChangedAt h s t := fun g hg => by
  rw [handleView, handleView, hentry g hg, hservants g hg, hchunk g hg]

theorem changedAt_of_view_eq {s t : State} (hv : directoryView t = directoryView s) (h : Nat) : ChangedAt h s t :=
  fun g _ => handleView_of_view_eq hv g

/-! ## An entry is written -/

theorem setEntry_changedAt (h : Nat) (e : Entry) (s : State) : ChangedAt h s (setEntry h e s) :=
  changedAt_of_parts (fun _ hg => entry_setEntry_other hg) (fun _ _ => rfl) (fun _ _ => rfl)

theorem handleView_setEntry {h : Nat} {e : Entry} {s : State} (hh : h < s.pdir.entries.length) :
    handleView (setEntry h e s) h = { handleView s h with entry := e } := by
  rw [handleView, entry_setEntry_self hh]
  rfl

theorem setEntry_out_of_range {h : Nat} {e : Entry} {s : State} (hh : s.pdir.entries.length ≤ h) : setEntry h e s = s := by
  rw [setEntry, List.set_eq_of_length_le hh]

/-! ## A context is written -/

theorem setContext_changedAt {i h : Nat} {o : Option Context} {s : State}
    (hold : ∀ c, s.prx.contexts[i]? = some (some c) → c.handle = h) (hnew : ∀ c, o = some c → c.handle = h) :
    ChangedAt h s (setContext i o s) :=
  changedAt_of_parts (fun _ _ => rfl) (fun _ hg => servants_set_other hg hold hnew) (fun _ _ => rfl)

theorem handleView_setContext {i h : Nat} {o : Option Context} {s : State} (hi : i < s.prx.contexts.length)
    (hone : ∀ p ∈ servants s.prx.contexts h, p.1 = i) (hnew : ∀ c, o = some c → c.handle = h) :
    handleView (setContext i o s) h = { handleView s h with servants := {p | p.1 = i ∧ o = some p.2} } := by
  rw [handleView, show servants (setContext i o s).prx.contexts h = _ from servants_set_self hi hone hnew]
  rfl

theorem freedContexts_eq (s : State) (h : Nat) : freedContexts s h = s.prx.contexts ∧ servants s.prx.contexts h = ∅ ∨
    ∃ i c, (i, c) ∈ servants s.prx.contexts h ∧ freedContexts s h = s.prx.contexts.set i none := by
  cases hi : contextOf s h with
  | none => exact .inl ⟨by simp [freedContexts, hi], contextOf_eq_none.1 hi⟩
  | some i =>
    obtain ⟨c, hc⟩ := contextOf_eq_some hi
    exact .inr ⟨i, c, hc, freedContexts_some hi⟩

theorem servants_freedContexts_other {s : State} {h g : Nat} (hg : g ≠ h) :
    servants (freedContexts s h) g = servants s.prx.contexts g := by
  rcases freedContexts_eq s h with ⟨heq, -⟩ | ⟨i, c, hc, heq⟩
  · rw [heq]
  · rw [heq]
    refine servants_set_other hg (fun d hd => ?_) (by simp)
    rw [hc.1] at hd
    exact (Option.some.inj (Option.some.inj hd)) ▸ hc.2

theorem servants_freedContexts_self {s : State} {h : Nat} (hone : (servants s.prx.contexts h).Subsingleton) :
    servants (freedContexts s h) h = ∅ := by
  rcases freedContexts_eq s h with ⟨heq, hnone⟩ | ⟨i, c, hc, heq⟩
  · rw [heq, hnone]
  · rw [heq, servants_set_self (List.getElem?_eq_some_iff.1 hc.1).1 (fun p hp => congrArg Prod.fst (hone hp hc)) (by simp)]
    simp

/-! ## The chunk buffer -/

theorem chunkOf_emptyChunkOf_self (h : Nat) (s : State) : chunkOf (emptyChunkOf h s) h = none := by
  rw [Option.eq_none_iff_forall_ne_some]
  intro p hp
  obtain ⟨k, hk, hh, -⟩ := chunkOf_eq_some.1 hp
  exact (emptyChunkOf_leaves k hk).2 hh

theorem chunkOf_emptyChunkOf_other {h g : Nat} (hg : g ≠ h) (s : State) : chunkOf (emptyChunkOf h s) g = chunkOf s g := by
  by_cases hown : ∃ k, s.prx.chunk = some k ∧ k.handle = h
  · obtain ⟨k, hk, hh⟩ := hown
    rw [emptyChunkOf_own hk hh]
    simp [chunkOf, hk, show k.handle ≠ g from fun hkg => hg (hkg.symm.trans hh)]
  · rw [emptyChunkOf_other fun k hk hh => hown ⟨k, hk, hh⟩]

/-! ## The end of a repair, and the release -/

theorem endRepair_changedAt {h : Nat} {s : State} (hh : h < s.pdir.entries.length) (note : Option PageEvent) :
    ChangedAt h s (endRepair h note s) := by
  rw [endRepair_eq hh]
  refine changedAt_of_parts (fun g hg => ?_) (fun g hg => servants_freedContexts_other hg) fun g hg => ?_
  · exact (entry_of_entries rfl hh).trans (if_neg hg)
  · exact chunkOf_emptyChunkOf_other hg s

theorem handleView_endRepair {h : Nat} {s : State} (hh : h < s.pdir.entries.length) (note : Option PageEvent)
    (hone : (servants s.prx.contexts h).Subsingleton) :
    handleView (endRepair h note s) h = ⟨(entry s h).missed, ∅, none⟩ := by
  have hentry : entry (endRepair h note s) h = (entry s h).missed :=
    (entry_of_entries (endRepair_entries hh note) hh).trans (if_pos rfl)
  rw [handleView, hentry]
  rw [endRepair_eq hh]
  exact congrArg₂ (HandleView.mk _) (servants_freedContexts_self hone) (chunkOf_emptyChunkOf_self h s)

theorem releaseEntry_changedAt (h : Nat) (cause : ReleaseCause) (s : State) : ChangedAt h s (releaseEntry h cause s) := by
  rw [(releaseEntry_eq h cause s).2]
  refine changedAt_of_parts (fun g hg => ?_) (fun g hg => servants_freedContexts_other hg) fun g hg => ?_
  · exact entry_setEntry_other (s := s) (e := Entry.empty) hg
  · exact chunkOf_emptyChunkOf_other hg s

theorem handleView_releaseEntry {h : Nat} {s : State} (cause : ReleaseCause)
    (hone : (servants s.prx.contexts h).Subsingleton) :
    handleView (releaseEntry h cause s) h = ⟨Entry.empty, ∅, none⟩ := by
  have hentry : entry (setEntry h Entry.empty s) h = Entry.empty := by
    by_cases hh : h < s.pdir.entries.length
    · exact entry_setEntry_self hh
    · rw [setEntry_out_of_range (Nat.le_of_not_lt hh), entry_default (Nat.le_of_not_lt hh)]
  rw [(releaseEntry_eq h cause s).2, handleView]
  refine (congrArg (fun e => HandleView.mk e _ _) hentry).trans ?_
  exact congrArg₂ (HandleView.mk _) (servants_freedContexts_self hone) (chunkOf_emptyChunkOf_self h s)

/-! ## The laws of one entry -/

theorem entrySound_receiving {e : Entry} (h : e.state = .receiving) : entrySound e ↔ e.refs = 0 ∧
    e.damaged = e.bands.countP (fun r => r.state == .damaged) ∧
      ∀ r ∈ e.bands, r.state ≠ .missing ∧ (r.isOpen = false → r.received = r.length) := by
  unfold entrySound
  rw [h]

theorem entrySound_complete {e : Entry} (h : e.state = .complete) :
    entrySound e ↔ e.damaged = 0 ∧ ∀ r ∈ e.bands, r.state = .good := by
  unfold entrySound
  rw [h]

theorem entrySound_damaged {e : Entry} (h : e.state = .damaged) :
    entrySound e ↔ e.damaged = e.badBands ∧ 1 ≤ e.damaged ∧ ∀ r ∈ e.bands, r.state ≠ .expected := by
  unfold entrySound
  rw [h]

theorem entrySound_superseded {e : Entry} (h : e.state = .superseded) : entrySound e ↔ e.refs ≠ 0 := by
  unfold entrySound
  rw [h]

theorem entrySound_empty {e : Entry} (h : e.state = .empty) : entrySound e ↔ e = Entry.empty := by
  unfold entrySound
  rw [h]

/-- A handle that no context serves and that has no chunk obeys the laws when its entry does. -/
theorem sound_unserved {e : Entry} (h : entrySound e) (hreceiving : e.state ≠ .receiving)
    (hopen : e.state = .damaged → ∀ r ∈ e.bands, r.isOpen = false) : HandleView.Sound ⟨e, ∅, none⟩ :=
  ⟨h, Set.subsingleton_empty, by simp, fun hr => absurd hr hreceiving, fun hd _ => hopen hd, by simp⟩

theorem sound_empty : HandleView.Sound ⟨Entry.empty, ∅, none⟩ := sound_unserved rfl (by simp [Entry.empty]) (by simp [Entry.empty])

theorem BandRecord.missed_closed (r : BandRecord) : r.missed.isOpen = false := by
  unfold BandRecord.missed
  split
  · rfl
  · rename_i hclosed
    rw [not_or] at hclosed
    simp [BandRecord.isOpen, hclosed]

theorem BandRecord.missed_good (r : BandRecord) : (r.missed.state != .good) = (r.state != .good) := by
  unfold BandRecord.missed
  split
  · rename_i hopen
    rcases hopen with h | h <;> rw [h] <;> rfl
  · rfl

theorem Entry.missed_badBands (e : Entry) : e.missed.badBands = e.badBands := by
  simp only [Entry.badBands, Entry.missed, List.countP_map]
  exact List.countP_congr fun r _ => by rw [Function.comp_apply, r.missed_good]

/-- R44: the end of a repair leaves a DAMAGED entry without open bands. -/
theorem sound_missed {e : Entry} (h : entrySound e) (hstate : e.state = .damaged) : HandleView.Sound ⟨e.missed, ∅, none⟩ := by
  obtain ⟨hcount, hpos, -⟩ := (entrySound_damaged hstate).1 h
  have hclosed : ∀ r ∈ e.missed.bands, r.isOpen = false := by
    intro r hr
    obtain ⟨q, -, rfl⟩ := List.mem_map.1 hr
    exact q.missed_closed
  have hstate' : e.missed.state = .damaged := hstate
  refine sound_unserved ((entrySound_damaged hstate').2 ⟨hcount.trans e.missed_badBands.symm, hpos, fun r hr he => ?_⟩)
    (by simp [hstate']) fun _ => hclosed
  simpa [BandRecord.isOpen, he] using hclosed r hr

end Sys2Proof.Machine

/-! Binding, unbinding, retirement and store damage keep the directory's laws (R52, R56, R58, R65, R66). -/

namespace Sys2Proof.Machine

/-! ## An entry's fields that its laws do not read -/

/-- A handle that no context serves has no chunk. -/
theorem HandleView.Sound.chunk_none {v : HandleView} (h : v.Sound) (hnone : v.servants = ∅) : v.chunk = none := by
  rw [Option.eq_none_iff_forall_ne_some]
  intro k hk
  obtain ⟨p, hp, -⟩ := h.chunk k hk
  rw [hnone] at hp
  exact hp

/-- The laws of a handle read neither its entry's key, version, width and stamp nor its marks. -/
theorem HandleView.Sound.of_fields {v : HandleView} (h : v.Sound) {e : Entry} (hempty : v.entry.state ≠ .empty)
    (hstate : e.state = v.entry.state) (hbands : e.bands = v.entry.bands) (hrefs : e.refs = v.entry.refs)
    (hdamaged : e.damaged = v.entry.damaged) : HandleView.Sound { v with entry := e } := by
  refine ⟨?_, h.one, fun p hp => ?_, fun hr => h.received (hstate ▸ hr), fun hd hnone => ?_, fun k hk => ?_⟩
  · have hentry := h.entry
    cases hs : v.entry.state with
    | empty => exact absurd hs hempty
    | receiving =>
      rw [entrySound_receiving (hstate.trans hs), hrefs, hbands, hdamaged]
      exact (entrySound_receiving hs).1 hentry
    | complete =>
      rw [entrySound_complete (hstate.trans hs), hbands, hdamaged]
      exact (entrySound_complete hs).1 hentry
    | damaged =>
      rw [entrySound_damaged (hstate.trans hs), Entry.badBands, hbands, hdamaged]
      exact (entrySound_damaged hs).1 hentry
    | superseded =>
      rw [entrySound_superseded (hstate.trans hs), hrefs]
      exact (entrySound_superseded hs).1 hentry
  · have hfit := h.fits p hp
    unfold contextFits at hfit ⊢
    rw [hstate, hbands, hrefs]
    exact hfit
  · rw [hbands]
    exact h.unserved (hstate ▸ hd) hnone
  · obtain ⟨p, hp, hfit⟩ := h.chunk k hk
    unfold chunkFitsIn at hfit ⊢
    rw [hbands]
    exact ⟨p, hp, hfit⟩

theorem Entry.closed_iff {e : Entry} : e.closed = true ↔ e.state = .complete ∨ e.state = .damaged := by simp [Entry.closed]

/-- A served handle whose entry is closed is under repair. -/
theorem HandleView.Sound.damaged_of_served {v : HandleView} (h : v.Sound) {p : Nat × Context} (hp : p ∈ v.servants)
    (hne : v.entry.state ≠ .receiving) : v.entry.state = .damaged ∧ p.2.mode = .repair ∧ v.entry.refs = 0 :=
  (h.fits p hp).1.resolve_left fun hr => hne hr.1

/-- A closed entry that no context serves may be bound any number of times. -/
theorem HandleView.Sound.of_refs {v : HandleView} (h : v.Sound) (hclosed : v.entry.closed = true) (hnone : v.servants = ∅)
    (n : Nat) : HandleView.Sound { v with entry := { v.entry with refs := n } } := by
  have hentry := h.entry
  refine ⟨?_, h.one, by simp [hnone], fun hr => ?_, h.unserved, fun k hk => ?_⟩
  · rcases Entry.closed_iff.1 hclosed with hs | hs
    · exact (entrySound_complete (e := { v.entry with refs := n }) hs).2 ((entrySound_complete hs).1 hentry)
    · exact (entrySound_damaged (e := { v.entry with refs := n }) hs).2 ((entrySound_damaged hs).1 hentry)
  · exact h.received hr
  · rw [show v.chunk = none from h.chunk_none hnone] at hk
    cases hk

/-! ## The end of a repair before a binding or a retirement -/

/-- A closed entry whose open repair, if it has one, has ended. -/
theorem repairEndedFirst_spec {s : State} {h : Nat} (note : Option PageEvent) (hs : (handleView s h).Sound)
    (hclosed : (entry s h).closed = true) :
    let v := handleView (repairEndedFirst h note s) h
    v.Sound ∧ v.servants = ∅ ∧ v.entry.state = (entry s h).state ∧ v.entry.key = (entry s h).key ∧
      v.entry.refs = (entry s h).refs ∧ ChangedAt h s (repairEndedFirst h note s) := by
  have hh : h < s.pdir.entries.length := by
    by_contra hge
    simp [entry_default (Nat.le_of_not_lt hge), Entry.closed, Entry.empty] at hclosed
  unfold repairEndedFirst
  split
  · rename_i hnone
    exact ⟨hs, contextOf_eq_none.1 hnone, rfl, rfl, rfl, fun _ _ => rfl⟩
  · rename_i hsome
    obtain ⟨i, hi⟩ := Option.ne_none_iff_exists'.1 hsome
    obtain ⟨c, hc⟩ := contextOf_eq_some hi
    have hdamaged : (entry s h).state = .damaged :=
      (hs.damaged_of_served hc (by rcases Entry.closed_iff.1 hclosed with h' | h' <;> simp [handleView, h'])).1
    rw [handleView_endRepair hh note hs.one]
    exact ⟨sound_missed hs.entry hdamaged, rfl, rfl, rfl, rfl, endRepair_changedAt hh note⟩

theorem handle_lt_of_closed {s : State} {h : Nat} (hclosed : (entry s h).closed = true) : h < s.pdir.entries.length := by
  by_contra hge
  simp [entry_default (Nat.le_of_not_lt hge), Entry.closed, Entry.empty] at hclosed

/-! ## Binding (R56) -/

/-- R56: the binding of a closed entry keeps the laws, and leaves it closed. -/
theorem bindEntry_spec {s : State} {h : Nat} (hs : directorySound s) (hclosed : (entry s h).closed = true) :
    directorySound (bindEntry s h) ∧ ∀ g, (entry s g).closed = true → (entry (bindEntry s h) g).closed = true := by
  have hh := handle_lt_of_closed hclosed
  obtain ⟨hsound, hnone, hstate, hkey, -, hchanged⟩ :=
    repairEndedFirst_spec (some .repairEnded) (((directorySound_iff s).1 hs).1 h) hclosed
  have hh' : h < (repairEndedFirst h (some .repairEnded) s).pdir.entries.length := by rwa [length_repairEndedFirst]
  rw [bindEntry_eq hh]
  set t := repairEndedFirst h (some .repairEnded) s
  set e : Entry := { entry t h with refs := (entry s h).refs + 1 } with he
  have hchanged' : ChangedAt h s (setEntry h e t) := hchanged.trans (setEntry_changedAt h e t)
  have hself : entry (setEntry h e t) h = e := entry_setEntry_self hh'
  have hclosed' : (entry (setEntry h e t) h).closed = true := by
    rw [hself, Entry.closed_iff, show e.state = _ from hstate]
    exact Entry.closed_iff.1 hclosed
  refine ⟨directorySound_of_kept hs hchanged' ?_ ?_ (fun _ => hclosed) fun hr => ?_, fun g hg => ?_⟩
  · rw [handleView_setEntry hh']
    refine hsound.of_refs ?_ hnone _
    rw [Entry.closed_iff, hstate]
    exact Entry.closed_iff.1 hclosed
  · rw [hself]
    exact hkey
  · rcases Entry.closed_iff.1 hclosed' with h' | h' <;> rw [h'] at hr <;> cases hr
  · by_cases hgh : g = h
    · exact hgh ▸ hclosed'
    · rw [hchanged'.entry hgh]
      exact hg

/-- R131: the binding of closed entries one after another keeps the laws. -/
theorem bindEntries_keeps_directorySound : ∀ {l : List Nat} {s : State}, directorySound s →
    (∀ h ∈ l, (entry s h).closed = true) → directorySound (l.foldl bindEntry s)
  | [], _, hs, _ => hs
  | h :: l, s, hs, hl => by
    obtain ⟨hsound, hclosed⟩ := bindEntry_spec hs (hl h (List.mem_cons_self ..))
    rw [List.foldl_cons]
    exact bindEntries_keeps_directorySound hsound fun g hg => hclosed g (hl g (List.mem_cons_of_mem _ hg))

/-! ## Release (R59) -/

theorem releaseEntry_keeps_directorySound {s : State} (hs : directorySound s) (h : Nat) (cause : ReleaseCause) :
    directorySound (releaseEntry h cause s) := by
  have hview := handleView_releaseEntry cause (((directorySound_iff s).1 hs).1 h).one
  refine directorySound_of_retired hs (releaseEntry_changedAt h cause s) (hview ▸ sound_empty) (.inl ?_)
  rw [show entry (releaseEntry h cause s) h = Entry.empty from congrArg HandleView.entry hview]
  rfl

/-! ## Store damage (R65, R66) -/

/-- A GOOD band record becomes DAMAGED with cause STORE (R65). -/
def BandRecord.spoiled (r : BandRecord) : BandRecord :=
  if r.state = .good then { r with state := .damaged, cause := some .store } else r

theorem BandRecord.spoiled_isOpen (r : BandRecord) : r.spoiled.isOpen = r.isOpen := by
  unfold BandRecord.spoiled
  split
  · rename_i h
    rw [BandRecord.isOpen, BandRecord.isOpen, h]
    rfl
  · rfl

theorem BandRecord.spoiled_whole (r : BandRecord) (h : r.received = r.length) : r.spoiled.received = r.spoiled.length := by
  unfold BandRecord.spoiled
  split <;> exact h

theorem BandRecord.spoiled_of_open {r : BandRecord} (h : r.state = .arriving) : r.spoiled = r := by
  rw [BandRecord.spoiled, if_neg (by simp [h])]

/-- After a merged refresh an entry's bands that are not GOOD are those that were not and those that were. -/
theorem countP_spoiled (p : BandRecord → Bool) (hp : ∀ r, p (BandRecord.spoiled r) = (p r || r.state == .good))
    (hgood : ∀ r, r.state = .good → p r = false) (l : List BandRecord) :
    (l.map BandRecord.spoiled).countP p = l.countP p + l.countP (fun r => r.state == .good) := by
  induction l with
  | nil => rfl
  | cons r l ih =>
    rw [List.map_cons, List.countP_cons, List.countP_cons, List.countP_cons, ih, hp]
    by_cases h : r.state = .good
    · simp [h, hgood r h]
      omega
    · simp [h]
      omega

theorem Entry.marked_bands (e : Entry) : e.marked.bands = e.bands.map BandRecord.spoiled := rfl

theorem Entry.marked_badBands (e : Entry) : e.marked.badBands = e.badBands + e.goodBands := by
  refine countP_spoiled _ (fun r => ?_) (fun r hr => by simp [hr]) e.bands
  unfold BandRecord.spoiled
  by_cases h : r.state = .good
  · rw [if_pos h, h]
    rfl
  · rw [if_neg h]
    simp [h]

theorem Entry.marked_state {e : Entry} (h : e.state ≠ .complete) : e.marked.state = e.state := if_neg fun hc => h hc.1

theorem Entry.marked_state_cases (e : Entry) :
    e.marked.state = e.state ∨ (e.state = .complete ∧ e.marked.state = .damaged) := by
  by_cases h : e.state = .complete ∧ e.goodBands ≠ 0
  · exact .inr ⟨h.1, if_pos h⟩
  · exact .inl (if_neg h)

theorem BandRecord.spoiled_ne {r : BandRecord} {st : BandState} (h : r.state ≠ st) (hst : st ≠ .damaged) :
    r.spoiled.state ≠ st := by
  unfold BandRecord.spoiled
  split
  · exact hst.symm
  · exact h

/-- R65: the marking of an entry's GOOD bands keeps the entry's own laws. -/
theorem entrySound_marked {e : Entry} (h : entrySound e) : entrySound e.marked := by
  cases hs : e.state with
  | empty =>
    rw [(entrySound_empty hs).1 h]
    exact rfl
  | receiving =>
    obtain ⟨hrefs, hcount, hbands⟩ := (entrySound_receiving hs).1 h
    refine (entrySound_receiving ((Entry.marked_state (by simp [hs])).trans hs)).2 ⟨hrefs, ?_, fun r hr => ?_⟩
    · have hsum := countP_spoiled (fun r => r.state == .damaged) (fun r => ?_) (fun r hr => by simp [hr]) e.bands
      · exact (congrArg (· + e.goodBands) hcount).trans hsum.symm
      · unfold BandRecord.spoiled
        by_cases hg : r.state = .good
        · rw [if_pos hg, hg]
          rfl
        · rw [if_neg hg]
          simp [hg]
    · obtain ⟨q, hq, rfl⟩ := List.mem_map.1 hr
      obtain ⟨hmissing, hwhole⟩ := hbands q hq
      refine ⟨BandRecord.spoiled_ne hmissing (by simp), fun hopen => ?_⟩
      exact q.spoiled_whole (hwhole (q.spoiled_isOpen ▸ hopen))
  | complete =>
    obtain ⟨hzero, hgood⟩ := (entrySound_complete hs).1 h
    have hbad : e.badBands = 0 := List.countP_eq_zero.2 fun r hr => by simp [hgood r hr]
    by_cases hnone : e.goodBands = 0
    · have hnil : e.bands = [] := List.eq_nil_iff_forall_not_mem.2 fun r hr =>
        List.countP_eq_zero.1 hnone r hr (by simp [hgood r hr])
      refine (entrySound_complete ((if_neg fun hc => hc.2 hnone).trans hs)).2 ⟨?_, ?_⟩
      · exact (congrArg₂ (· + ·) hzero hnone)
      · simp [e.marked_bands, hnil]
    · refine (entrySound_damaged (if_pos ⟨hs, hnone⟩)).2 ⟨?_, ?_, fun r hr => ?_⟩
      · rw [e.marked_badBands, hbad]
        exact congrArg (· + e.goodBands) hzero
      · exact Nat.le_trans (Nat.one_le_iff_ne_zero.2 hnone) (Nat.le_add_left ..)
      · obtain ⟨q, hq, rfl⟩ := List.mem_map.1 hr
        exact BandRecord.spoiled_ne (by simp [hgood q hq]) (by simp)
  | damaged =>
    obtain ⟨hcount, hpos, hexpected⟩ := (entrySound_damaged hs).1 h
    refine (entrySound_damaged ((Entry.marked_state (by simp [hs])).trans hs)).2 ⟨?_, ?_, fun r hr => ?_⟩
    · rw [e.marked_badBands]
      exact congrArg (· + e.goodBands) hcount
    · exact Nat.le_trans hpos (Nat.le_add_right ..)
    · obtain ⟨q, hq, rfl⟩ := List.mem_map.1 hr
      exact BandRecord.spoiled_ne (hexpected q hq) (by simp)
  | superseded =>
    exact (entrySound_superseded ((Entry.marked_state (by simp [hs])).trans hs)).2 ((entrySound_superseded hs).1 h)

/-- R65: the marking of an entry's GOOD bands keeps the laws of its handle: it closes no band and opens none. -/
theorem HandleView.Sound.marked {v : HandleView} (h : v.Sound) : HandleView.Sound { v with entry := v.entry.marked } := by
  have hband {b : Nat} {r : BandRecord} (hr : v.entry.marked.bands[b]? = some r) :
      ∃ q, v.entry.bands[b]? = some q ∧ r = q.spoiled := by
    rw [Entry.marked_bands, List.getElem?_map] at hr
    obtain ⟨q, hq, rfl⟩ := Option.map_eq_some_iff.1 hr
    exact ⟨q, hq, rfl⟩
  have hserved {p : Nat × Context} (hp : p ∈ v.servants) : v.entry.marked.state = v.entry.state := by
    refine Entry.marked_state fun hc => ?_
    rcases (h.fits p hp).1 with ⟨hr, -⟩ | ⟨hd, -⟩
    · rw [hc] at hr
      cases hr
    · rw [hc] at hd
      cases hd
  refine ⟨entrySound_marked h.entry, h.one, fun p hp => ?_, fun hr => ?_, fun hd hnone r hr => ?_, fun k hk => ?_⟩
  · obtain ⟨hmode, hcovers⟩ := h.fits p hp
    refine ⟨?_, fun b r hr => ?_⟩
    · rw [hserved hp]
      exact hmode
    · obtain ⟨q, hq, rfl⟩ := hband hr
      rw [q.spoiled_isOpen]
      exact hcovers b q hq
  · rcases v.entry.marked_state_cases with hs | ⟨-, hs⟩
    · exact h.received (hs.symm.trans hr)
    · cases hs.symm.trans hr
  · obtain ⟨q, hq, rfl⟩ := List.mem_map.1 hr
    refine q.spoiled_isOpen.trans ?_
    rcases v.entry.marked_state_cases with hs | ⟨hs, -⟩
    · exact h.unserved (hs.symm.trans hd) hnone q hq
    · simp [BandRecord.isOpen, ((entrySound_complete hs).1 h.entry).2 q hq]
  · obtain ⟨p, hp, hrunning, hcovers, r, hr, hstate, hlast⟩ := h.chunk k hk
    refine ⟨p, hp, hrunning, hcovers, r, ?_, hstate, hlast⟩
    rw [Entry.marked_bands, List.getElem?_map, hr, Option.map_some, BandRecord.spoiled_of_open hstate]

theorem markStore_view {s : State} {h : Nat} (hh : h < s.pdir.entries.length) :
    directoryView (markStore h s) = directoryView s ∨
      directoryView (markStore h s) = directoryView (setEntry h (entry s h).marked s) := by
  rw [markStore_eq hh]
  split
  · exact .inl rfl
  · exact .inr rfl

/-- R65: the marking of an entry keeps the laws. -/
theorem markStore_keeps_directorySound {s : State} (hs : directorySound s) (h : Nat) : directorySound (markStore h s) := by
  by_cases hh : h < s.pdir.entries.length
  · rcases markStore_view hh with hv | hv
    · exact directorySound_of_view_eq hv hs
    · refine directorySound_of_view_eq hv ?_
      have hself : entry (setEntry h (entry s h).marked s) h = (entry s h).marked := entry_setEntry_self hh
      refine directorySound_of_kept hs (setEntry_changedAt h _ s) ?_ ?_ (fun hc => ?_) fun hr => ?_
      · rw [handleView_setEntry hh]
        exact (((directorySound_iff s).1 hs).1 h).marked
      · rw [hself]
        rfl
      · rw [hself, Entry.closed_iff] at hc
        rw [Entry.closed_iff]
        rcases (entry s h).marked_state_cases with hm | ⟨hm, -⟩
        · rwa [hm] at hc
        · exact .inl hm
      · rw [hself] at hr
        rcases (entry s h).marked_state_cases with hm | ⟨-, hm⟩
        · exact hm.symm.trans hr
        · cases hm.symm.trans hr
  · have hnone : markStore h s = s := by
      unfold markStore
      rw [entry_default (Nat.le_of_not_lt hh)]
      rfl
    rwa [hnone]

/-- The laws do not read the STORE_SUSPECT and TIMEOUT marks of an entry that is not EMPTY. -/
theorem setEntry_fields_keeps_directorySound {s : State} (hs : directorySound s) {h : Nat} {e : Entry}
    (hempty : (entry s h).state ≠ .empty) (hkey : e.key = (entry s h).key) (hstate : e.state = (entry s h).state)
    (hbands : e.bands = (entry s h).bands) (hrefs : e.refs = (entry s h).refs)
    (hdamaged : e.damaged = (entry s h).damaged) : directorySound (setEntry h e s) := by
  have hh : h < s.pdir.entries.length := by
    by_contra hge
    exact hempty (by rw [entry_default (Nat.le_of_not_lt hge)]; rfl)
  have hself : entry (setEntry h e s) h = e := entry_setEntry_self hh
  refine directorySound_of_kept hs (setEntry_changedAt h _ s) ?_ (by rw [hself, hkey]) (fun hc => ?_) fun hr => ?_
  · rw [handleView_setEntry hh]
    exact (((directorySound_iff s).1 hs).1 h).of_fields hempty hstate hbands hrefs hdamaged
  · rw [hself, Entry.closed_iff, hstate] at hc
    exact Entry.closed_iff.2 hc
  · rwa [hself, hstate] at hr

/-- R65: a merged refresh keeps the laws, entry by entry. -/
theorem damageEntry_keeps_directorySound {s : State} (hs : directorySound s) (h : Nat) : directorySound (damageEntry s h) := by
  unfold damageEntry
  split
  · exact hs
  · rename_i hempty
    split
    · exact markStore_keeps_directorySound hs h
    · exact setEntry_fields_keeps_directorySound hs hempty rfl rfl rfl rfl rfl

theorem damageStore_keeps_directorySound {s : State} (hs : directorySound s) : directorySound (damageStore s) :=
  List.foldlRecOn _ _ hs fun _ ht h _ => damageEntry_keeps_directorySound ht h

/-! ## Unbinding (R58, R66) -/

/-- R58: the laws of a handle whose entry is not SUPERSEDED hold with a reference fewer. -/
theorem HandleView.Sound.unbound {v : HandleView} (h : v.Sound) (hsuper : v.entry.state ≠ .superseded) :
    HandleView.Sound { v with entry := { v.entry with refs := v.entry.refs - 1 } } := by
  by_cases hrefs : v.entry.refs = 0
  · have hsame : { v.entry with refs := v.entry.refs - 1 } = v.entry := by
      rw [hrefs, Nat.zero_sub, ← hrefs]
    rw [hsame]
    exact h
  · have hclosed : v.entry.closed = true := by
      rw [Entry.closed_iff]
      cases hs : v.entry.state with
      | empty => exact absurd (by rw [(entrySound_empty hs).1 h.entry]; rfl) hrefs
      | receiving => exact absurd ((entrySound_receiving hs).1 h.entry).1 hrefs
      | complete => exact .inl rfl
      | damaged => exact .inr rfl
      | superseded => exact absurd hs hsuper
    refine h.of_refs hclosed (Set.eq_empty_iff_forall_notMem.2 fun p hp => ?_) _
    refine hrefs (h.damaged_of_served hp fun hr => ?_).2.2
    rcases Entry.closed_iff.1 hclosed with hs | hs <;> rw [hs] at hr <;> cases hr

theorem unbindEntry_out_of_range {s : State} {h : Nat} (hh : s.pdir.entries.length ≤ h) : unbindEntry s h = s := by
  unfold unbindEntry
  rw [setEntry_out_of_range hh]
  simp [entry_default hh, Entry.empty]

/-- R58, R66: the unbinding of an entry keeps the laws. -/
theorem unbindEntry_keeps_directorySound {s : State} (hs : directorySound s) (h : Nat) : directorySound (unbindEntry s h) := by
  by_cases hh : h < s.pdir.entries.length
  · have hsound := ((directorySound_iff s).1 hs).1 h
    have hunbind := unbindEntry_eq hh
    simp only at hunbind
    rw [hunbind]
    set e : Entry := { entry s h with refs := (entry s h).refs - 1 } with he
    have hself : entry (setEntry h e s) h = e := entry_setEntry_self hh
    split
    · have hview := handleView_releaseEntry (s := setEntry h e s) .deferred hsound.one
      refine directorySound_of_retired hs ((setEntry_changedAt h e s).trans (releaseEntry_changedAt h _ _)) (hview ▸ sound_empty)
        (.inl ?_)
      exact congrArg (fun v => v.entry.state) hview
    · rename_i hsuper
      have hkept : directorySound (setEntry h e s) := by
        refine directorySound_of_kept hs (setEntry_changedAt h e s) ?_ (by rw [hself]) (fun hc => ?_) fun hr => ?_
        · rw [handleView_setEntry hh]
          exact hsound.unbound hsuper
        · rw [hself] at hc
          exact hc
        · rw [hself] at hr
          exact hr
      split
      · rename_i hsuspect
        rw [← setEntry_setEntry h _ e]
        refine markStore_keeps_directorySound (setEntry_fields_keeps_directorySound hkept ?_ ?_ ?_ ?_ ?_ ?_) h
        · rw [hself]
          intro hempty
          have hentry : entry s h = Entry.empty := (entrySound_empty (e := entry s h) hempty).1 hsound.entry
          simp [hentry, Entry.empty] at hsuspect
        all_goals rw [hself]
      · exact hkept
  · rwa [unbindEntry_out_of_range (Nat.le_of_not_lt hh)]

theorem unbindJob_keeps_directorySound {s : State} (hs : directorySound s) (j : Job) : directorySound (unbindJob j s) :=
  List.foldlRecOn _ _ hs fun _ ht h _ => unbindEntry_keeps_directorySound ht h

end Sys2Proof.Machine

/-! The ends of receptions and repairs, and the opening of a reception, keep the directory's laws (R25, R35, R44, R52). -/

namespace Sys2Proof.Machine

theorem endRepair_keeps_directorySound {s : State} (hs : directorySound s) {h : Nat} (note : Option PageEvent)
    (hstate : (entry s h).state = .damaged) : directorySound (endRepair h note s) := by
  have hh := handle_lt_of_closed (Entry.closed_iff.2 (.inr hstate))
  have hsound := ((directorySound_iff s).1 hs).1 h
  have hview := handleView_endRepair hh note hsound.one
  have hself : entry (endRepair h note s) h = (entry s h).missed := congrArg HandleView.entry hview
  refine directorySound_of_kept hs (endRepair_changedAt hh note) (hview ▸ sound_missed hsound.entry hstate)
    (by rw [hself]; rfl) (fun hc => ?_) fun hr => ?_
  · rw [hself] at hc
    exact hc
  · rw [hself] at hr
    exact hr

/-! ## The older closed versions retire (R52) -/

/-- R52: a retired entry is EMPTY or SUPERSEDED, and nothing else of the directory is changed. -/
theorem retire_spec {s : State} {by_ g : Nat} (hs : (handleView s g).Sound) (hclosed : (entry s g).closed = true)
    (hne : g ≠ by_) :
    ChangedAt g s (retire by_ g s) ∧ (handleView (retire by_ g s) g).Sound ∧
      ((entry (retire by_ g s) g).state = .empty ∨ (entry (retire by_ g s) g).state = .superseded) := by
  have hg := handle_lt_of_closed hclosed
  obtain ⟨hsound, hnone, -, -, hrefs, hchanged⟩ := repairEndedFirst_spec none hs hclosed
  rw [retire_eq hg hne]
  have hview : directoryView (retiredEntry by_ g s) = directoryView (setEntry g
      { entry (repairEndedFirst g none s) g with state := .superseded } (repairEndedFirst g none s)) := rfl
  have hg' : g < (repairEndedFirst g none s).pdir.entries.length := by rwa [length_repairEndedFirst]
  have hretired := (handleView_of_view_eq hview g).trans (handleView_setEntry hg')
  have hchanged' : ChangedAt g s (retiredEntry by_ g s) :=
    (hchanged.trans (setEntry_changedAt g _ _)).trans (changedAt_of_view_eq hview g)
  have hempty : servants (retiredEntry by_ g s).prx.contexts g = ∅ := hnone
  split
  · have hreleased := handleView_releaseEntry (s := retiredEntry by_ g s) .superseded (hempty ▸ Set.subsingleton_empty)
    exact ⟨hchanged'.trans (releaseEntry_changedAt g _ _), hreleased ▸ sound_empty,
      .inl (congrArg (fun v => v.entry.state) hreleased)⟩
  · rename_i hbound
    have hunserved : handleView (retiredEntry by_ g s) g =
        ⟨{ entry (repairEndedFirst g none s) g with state := .superseded }, ∅, none⟩ :=
      hretired.trans (congrArg₂ (HandleView.mk _) hnone (hsound.chunk_none hnone))
    refine ⟨hchanged', ?_, .inr (congrArg (fun v => v.entry.state) hunserved)⟩
    rw [hunserved]
    refine sound_unserved ((entrySound_superseded rfl).2 ?_) (by simp) (by simp)
    exact fun hz => hbound (hrefs.symm.trans hz)

/-- R52: the state in the middle of a supersession: the entries of a list are still to be looked at. -/
structure Superseding (h : Nat) (l : List Nat) (s : State) : Prop where
  sound : ∀ g, (handleView s g).Sound
  receiving : ∀ g k, (entry s g).key = (entry s k).key → (entry s g).state = .receiving →
    (entry s k).state = .receiving → g = k
  closed : ∀ g k, (entry s g).key = (entry s k).key → (entry s g).closed = true → (entry s k).closed = true →
    g = k ∨ g = h ∨ k = h
  left : ∀ g, g ≠ h → (entry s g).closed = true → (entry s g).key = (entry s h).key → g ∈ l

theorem Superseding.finished {h : Nat} {s : State} (hs : Superseding h [] s) : directorySound s := by
  refine (directorySound_iff s).2 ⟨hs.sound, fun g k hkey => ⟨fun hg hk => ?_, hs.receiving g k hkey⟩⟩
  rcases hs.closed g k hkey hg hk with hgk | rfl | rfl
  · exact hgk
  · by_contra hne
    exact absurd (hs.left k (Ne.symm hne) hk hkey.symm) (List.not_mem_nil)
  · by_contra hne
    exact absurd (hs.left g hne hg hkey) (List.not_mem_nil)

/-- R52: one entry's share of a supersession. -/
theorem Superseding.step {h g : Nat} {l : List Nat} {s : State} (hs : Superseding h (g :: l) s) :
    Superseding h l (retireIfOlder h s g) := by
  unfold retireIfOlder
  split
  · rename_i hold
    obtain ⟨hne, hclosed, hkey⟩ := hold
    obtain ⟨hchanged, hsound, hstate⟩ := retire_spec (hs.sound g) hclosed hne
    have hnotclosed {k : Nat} (hk : (entry (retire h g s) k).closed = true) : k ≠ g := by
      rintro rfl
      rcases hstate with hst | hst <;> simp [Entry.closed, hst] at hk
    have hnotreceiving {k : Nat} (hk : (entry (retire h g s) k).state = .receiving) : k ≠ g := by
      rintro rfl
      rcases hstate with hst | hst <;> rw [hst] at hk <;> cases hk
    refine ⟨fun k => ?_, fun j k hjk hj hk => ?_, fun j k hjk hj hk => ?_, fun k hk hkclosed hkkey => ?_⟩
    · by_cases hkg : k = g
      · exact hkg ▸ hsound
      · rw [hchanged k hkg]
        exact hs.sound k
    · rw [hchanged.entry (hnotreceiving hj), hchanged.entry (hnotreceiving hk)] at hjk
      exact hs.receiving j k hjk (hchanged.entry (hnotreceiving hj) ▸ hj) (hchanged.entry (hnotreceiving hk) ▸ hk)
    · rw [hchanged.entry (hnotclosed hj), hchanged.entry (hnotclosed hk)] at hjk
      exact hs.closed j k hjk (hchanged.entry (hnotclosed hj) ▸ hj) (hchanged.entry (hnotclosed hk) ▸ hk)
    · have hkg := hnotclosed hkclosed
      rw [hchanged.entry hkg] at hkclosed
      rw [hchanged.entry hkg, hchanged.entry (Ne.symm hne)] at hkkey
      exact (List.mem_cons.1 (hs.left k hk hkclosed hkkey)).resolve_left hkg
  · rename_i hold
    refine ⟨hs.sound, hs.receiving, hs.closed, fun k hk hclosed hkey => ?_⟩
    rcases List.mem_cons.1 (hs.left k hk hclosed hkey) with rfl | hmem
    · exact absurd ⟨hk, hclosed, hkey⟩ hold
    · exact hmem

theorem Superseding.foldl {h : Nat} : ∀ {l : List Nat} {s : State}, Superseding h l s →
    directorySound (l.foldl (retireIfOlder h) s)
  | [], _, hs => hs.finished
  | _ :: _, _, hs => by
    rw [List.foldl_cons]
    exact Superseding.foldl hs.step

/-! ## The end of a reception (R35) -/

/-- R35: the entry of an ended reception obeys the laws, unserved. -/
theorem sound_ended (e : Entry) : HandleView.Sound ⟨e.ended, ∅, none⟩ := by
  have hclosed : ∀ r ∈ e.ended.bands, r.isOpen = false := by
    intro r hr
    obtain ⟨q, -, rfl⟩ := List.mem_map.1 hr
    exact q.missed_closed
  have hcount : e.ended.damaged = e.ended.badBands := rfl
  refine sound_unserved ?_ (fun hr => ?_) fun _ => hclosed
  · by_cases hbad : e.missed.badBands = 0
    · refine (entrySound_complete (if_pos hbad)).2 ⟨hbad, fun r hr => ?_⟩
      simpa using List.countP_eq_zero.1 hbad r hr
    · refine (entrySound_damaged (if_neg hbad)).2 ⟨hcount, Nat.one_le_iff_ne_zero.2 hbad, fun r hr he => ?_⟩
      simpa [BandRecord.isOpen, he] using hclosed r hr
  · rcases e.ended_state with h | h <;> rw [h] at hr <;> cases hr

/-- R35, R39, R23: the end of a reception keeps the laws, where its chunk has left the chunk buffer. -/
theorem closeReception_keeps_directorySound {s : State} (hs : directorySound s) {h : Nat} (ev : PageEvent) (byOpen : Bool)
    (hstate : (entry s h).state = .receiving) (hchunk : chunkOf s h = none) :
    directorySound (closeReception ev byOpen h s) := by
  have hh : h < s.pdir.entries.length := by
    by_contra hge
    rw [entry_default (Nat.le_of_not_lt hge)] at hstate
    cases hstate
  obtain ⟨hall, hkeys⟩ := (directorySound_iff s).1 hs
  obtain ⟨-, -, hclose⟩ := closeReception_spec ev byOpen h s hh
  rw [hclose]
  set st := if byOpen = true ∨ newerHeld s h = true then EntryState.superseded else (entry s h).ended.state with hst
  set v : State := { s with
    psc := s.psc.returnChains (entry s h).openChains
    pdir := { s.pdir with entries := s.pdir.entries.set h ((entry s h).endedAs st) }
    prx := { s.prx with contexts := freedContexts s h }
    lp := s.lp.queueReport (((entry s h).endedAs st).noteOf ev h) } with hv
  have hchanged : ChangedAt h s v := changedAt_of_parts
    (fun g hg => (entry_of_entries (t := v) rfl hh).trans (if_neg hg)) (fun g hg => servants_freedContexts_other hg)
    fun _ _ => rfl
  have hself : entry v h = (entry s h).endedAs st := (entry_of_entries (t := v) rfl hh).trans (if_pos rfl)
  have hview : handleView v h = ⟨(entry s h).endedAs st, ∅, none⟩ := by
    rw [handleView, hself]
    exact congrArg₂ (HandleView.mk _) (servants_freedContexts_self (hall h).one) hchunk
  split
  · have hreleased := handleView_releaseEntry (s := v) .superseded
      (show (handleView v h).servants.Subsingleton by rw [hview]; exact Set.subsingleton_empty)
    exact directorySound_of_retired hs (hchanged.trans (releaseEntry_changedAt h _ v)) (hreleased ▸ sound_empty)
      (.inl (congrArg (fun w => w.entry.state) hreleased))
  · rename_i hopen
    have hended : st = (entry s h).ended.state := if_neg fun hc => hopen (hst.trans (if_pos hc))
    have hnotreceiving {k : Nat} (hk : (entry v k).state = .receiving) : k ≠ h := by
      rintro rfl
      rw [hself, show ((entry s k).endedAs st).state = st from rfl, hended] at hk
      rcases (entry s k).ended_state with h' | h' <;> rw [h'] at hk <;> cases hk
    refine Superseding.foldl ⟨fun k => ?_, fun j k hjk hj hk => ?_, fun j k hjk hj hk => ?_, fun k _ hkclosed _ => ?_⟩
    · by_cases hkh : k = h
      · rw [hkh, hview, hended]
        exact sound_ended (entry s h)
      · rw [hchanged k hkh]
        exact hall k
    · rw [hchanged.entry (hnotreceiving hj), hchanged.entry (hnotreceiving hk)] at hjk
      exact (hkeys j k hjk).2 (hchanged.entry (hnotreceiving hj) ▸ hj) (hchanged.entry (hnotreceiving hk) ▸ hk)
    · by_cases hjh : j = h
      · exact .inr (.inl hjh)
      · by_cases hkh : k = h
        · exact .inr (.inr hkh)
        · rw [hchanged.entry hjh, hchanged.entry hkh] at hjk
          exact .inl ((hkeys j k hjk).1 (hchanged.entry hjh ▸ hj) (hchanged.entry hkh ▸ hk))
    · exact List.mem_range.2 (handle_lt_of_closed hkclosed)

/-- R35, R39: the end of a reception or of an open repair keeps the laws. -/
theorem closeEntry_keeps_directorySound {s : State} (hs : directorySound s) {h : Nat} (ev : PageEvent)
    (hopen : (entry s h).state = .receiving ∨ contextOf s h ≠ none) (hchunk : chunkOf s h = none) :
    directorySound (closeEntry ev h s) := by
  unfold closeEntry
  split
  · rename_i hstate
    exact closeReception_keeps_directorySound hs ev false hstate hchunk
  · rename_i hstate
    obtain ⟨i, hi⟩ := Option.ne_none_iff_exists'.1 (hopen.resolve_left hstate)
    obtain ⟨c, hc⟩ := contextOf_eq_some hi
    exact endRepair_keeps_directorySound hs _ ((((directorySound_iff s).1 hs).1 h).damaged_of_served hc hstate).1

/-! ## The opening of a reception (R25) -/

theorem Context.covers_openedContext (h n b : Nat) : (openedContext h n).covers b = true ↔ b < n := by
  simp [Context.covers, openedContext]

/-- R25: a newly opened reception obeys the laws. -/
theorem sound_opened (x : ParcelHeader) (stamp h i : Nat) : HandleView.Sound
    ⟨openedEntry x stamp, {p | p.1 = i ∧ some (openedContext h x.descriptors.length) = some p.2}, none⟩ := by
  have hexpected : ∀ r ∈ (openedEntry x stamp).bands, r.state = .expected := by
    intro r hr
    obtain ⟨d, -, rfl⟩ := List.mem_map.1 hr
    rfl
  refine ⟨(entrySound_receiving rfl).2 ⟨rfl, ?_, fun r hr => ?_⟩, ?_, ?_, fun _ => ⟨(i, _), rfl, rfl⟩, by simp [openedEntry],
    by simp⟩
  · exact (List.countP_eq_zero.2 fun r hr => by simp [hexpected r hr]).symm
  · simp [BandRecord.isOpen, hexpected r hr]
  · rintro ⟨j, c⟩ ⟨hj, hc⟩ ⟨k, d⟩ ⟨hk, hd⟩
    exact Prod.ext (hj.trans hk.symm) (Option.some.inj (hc.symm.trans hd))
  · rintro ⟨j, c⟩ ⟨-, hc⟩
    obtain rfl := Option.some.inj hc
    refine ⟨.inl ⟨rfl, rfl⟩, fun b r hr => iff_of_true ?_ ?_⟩
    · rw [Context.covers_openedContext]
      simpa [openedEntry] using (List.getElem?_eq_some_iff.1 hr).1
    · simp [BandRecord.isOpen, hexpected r (List.mem_of_getElem? hr)]

/-- R25: the creation of an entry and its reception keeps the laws, where no reception of its key is open. -/
theorem createEntry_keeps_directorySound {x : ParcelHeader} {s t : State} {h : Nat} (hs : directorySound s)
    (hcreate : createEntry x s = some (h, t)) (hkey : ∀ g, (entry s g).state = .receiving → (entry s g).key ≠ x.key) :
    directorySound t := by
  unfold createEntry at hcreate
  cases hempty : s.pdir.entries.findIdx? (fun e => e.state == .empty) with
  | none => simp [hempty] at hcreate
  | some g =>
    cases hfree : freeContext s with
    | none => simp [hempty, hfree] at hcreate
    | some i =>
      simp only [hempty, hfree, Option.some.injEq, Prod.mk.injEq] at hcreate
      obtain ⟨rfl, rfl⟩ := hcreate
      obtain ⟨hg, hstate, -⟩ := List.findIdx?_eq_some_iff_getElem.1 hempty
      obtain ⟨hi, hnone, -⟩ := List.findIdx?_eq_some_iff_getElem.1 hfree
      have hentry : (entry s g).state = .empty := by
        rw [entry, List.getD_eq_getElem _ _ hg]
        simpa using hstate
      have hsound := ((directorySound_iff s).1 hs).1 g
      have hunserved : servants s.prx.contexts g = ∅ := Set.eq_empty_iff_forall_notMem.2 fun p hp => by
        rcases (hsound.fits p hp).1 with ⟨hr, -⟩ | ⟨hd, -⟩
        · cases hentry.symm.trans hr
        · cases hentry.symm.trans hd
      set e := openedEntry x (nextStamp s.pdir.counter)
      set c := openedContext g x.descriptors.length
      have hview : directoryView (setContext i (some c) (setEntry g e { s with
          pdir := { s.pdir with counter := nextStamp s.pdir.counter } })) =
          directoryView (setContext i (some c) (setEntry g e s)) := rfl
      refine directorySound_of_view_eq hview ?_
      have hnew : ∀ d, some c = some d → d.handle = g := fun d hd => Option.some.inj hd ▸ rfl
      have hchanged : ChangedAt g s (setContext i (some c) (setEntry g e s)) := by
        refine (setEntry_changedAt g e s).trans (setContext_changedAt (fun d hd => ?_) hnew)
        rw [show (setEntry g e s).prx.contexts[i]? = _ from List.getElem?_eq_getElem hi,
          Option.isNone_iff_eq_none.1 hnone] at hd
        cases hd
      have hself : handleView (setContext i (some c) (setEntry g e s)) g =
          ⟨e, {p | p.1 = i ∧ some c = some p.2}, none⟩ := by
        rw [handleView_setContext (s := setEntry g e s) hi (by simp [setEntry, hunserved]) hnew, handleView_setEntry hg]
        exact congrArg (HandleView.mk _ _) (hsound.chunk_none hunserved)
      have hentry' : entry (setContext i (some c) (setEntry g e s)) g = e := congrArg HandleView.entry hself
      refine directorySound_of_changedAt hs hchanged (hself ▸ sound_opened ..) fun k _ hk => ⟨fun hc => ?_, fun hr => ?_⟩
      · rw [hentry'] at hc
        exact Bool.false_ne_true hc.2
      · rw [hentry'] at hk
        exact hkey k hr.1 hk

end Sys2Proof.Machine

/-! The placing of a chunk, the opening of a repair and the judging of a band keep the directory's laws (R28, R34, R41). -/

namespace Sys2Proof.Machine

/-! ## A handle that one context serves -/

/-- The state with an entry and a context written. -/
theorem changedAt_of_written {s t : State} {h i : Nat} {o : Option Context} {e : Entry} (hh : h < s.pdir.entries.length)
    (hentries : t.pdir.entries = s.pdir.entries.set h e) (hcontexts : t.prx.contexts = s.prx.contexts.set i o)
    (hold : ∀ c, s.prx.contexts[i]? = some (some c) → c.handle = h) (hnew : ∀ c, o = some c → c.handle = h)
    (hchunk : ∀ g, g ≠ h → chunkOf t g = chunkOf s g) : ChangedAt h s t :=
  changedAt_of_parts (fun _ hg => (entry_of_entries hentries hh).trans (if_neg hg))
    (fun _ hg => hcontexts ▸ servants_set_other hg hold hnew) hchunk

theorem handleView_of_written {s t : State} {h i : Nat} {o : Option Context} {e : Entry} (hh : h < s.pdir.entries.length)
    (hentries : t.pdir.entries = s.pdir.entries.set h e) (hcontexts : t.prx.contexts = s.prx.contexts.set i o)
    (hi : i < s.prx.contexts.length) (hone : ∀ p ∈ servants s.prx.contexts h, p.1 = i)
    (hnew : ∀ c, o = some c → c.handle = h) : handleView t h = ⟨e, {p | p.1 = i ∧ o = some p.2}, chunkOf t h⟩ := by
  rw [handleView, (entry_of_entries hentries hh).trans (if_pos rfl), hcontexts, servants_set_self hi hone hnew]

/-- A handle that one context serves obeys the laws when its entry does, and the context and the chunk fit it. -/
theorem sound_served {e : Entry} {i : Nat} {c : Context} {k : Option (Nat × Bool)} (hentry : entrySound e)
    (hfits : contextFits c e) (hchunk : ∀ x, k = some x → chunkFitsIn x c e) :
    HandleView.Sound ⟨e, {p | p.1 = i ∧ some c = some p.2}, k⟩ := by
  refine ⟨hentry, ?_, ?_, fun _ => ⟨(i, c), rfl, rfl⟩, fun _ hnone => ?_, fun x hx => ⟨(i, c), ⟨rfl, rfl⟩, hchunk x hx⟩⟩
  · rintro ⟨j, c⟩ ⟨hj, hc⟩ ⟨k, d⟩ ⟨hk, hd⟩
    exact Prod.ext (hj.trans hk.symm) (Option.some.inj (hc.symm.trans hd))
  · rintro ⟨j, d⟩ ⟨-, hd⟩
    exact Option.some.inj hd ▸ hfits
  · exact ((Set.ext_iff.1 hnone (i, c)).1 ⟨rfl, rfl⟩).elim

/-- What the context of a served handle tells of its entry. -/
theorem served_spec {s : State} (hs : directorySound s) {h i : Nat} {c : Context}
    (hc : (i, c) ∈ servants s.prx.contexts h) :
    entrySound (entry s h) ∧ contextFits c (entry s h) ∧ i < s.prx.contexts.length ∧ c.handle = h ∧
      (∀ d, s.prx.contexts[i]? = some (some d) → d.handle = h) ∧ ∀ p ∈ servants s.prx.contexts h, p.1 = i := by
  have hsound := ((directorySound_iff s).1 hs).1 h
  refine ⟨hsound.entry, hsound.fits _ hc, (List.getElem?_eq_some_iff.1 hc.1).1, hc.2, fun d hd => ?_,
    fun p hp => congrArg Prod.fst (hsound.one hp hc)⟩
  rw [hc.1] at hd
  exact (Option.some.inj (Option.some.inj hd)) ▸ hc.2

/-! ## A band record of a served entry is replaced -/

/-- The bands that meet a condition, counted behind a replacement. -/
theorem countP_set_add {p : BandRecord → Bool} {l : List BandRecord} {b : Nat} {q r : BandRecord} (hq : l[b]? = some q) :
    (l.set b r).countP p + (if p q = true then 1 else 0) = l.countP p + (if p r = true then 1 else 0) := by
  obtain ⟨hb, rfl⟩ := List.getElem?_eq_some_iff.1 hq
  have hle := List.boole_getElem_le_countP (p := p) hb
  rw [List.countP_set hb]
  omega

theorem mem_set_cases {l : List BandRecord} {b : Nat} {q r : BandRecord} (h : q ∈ l.set b r) : q ∈ l ∨ q = r :=
  List.mem_or_eq_of_mem_set h

/-- R34: an open band of a RECEIVING entry is replaced by one that is open, or has arrived whole and been judged. -/
theorem entrySound_set_receiving {e : Entry} {b : Nat} {q r : BandRecord} (h : entrySound e) (hstate : e.state = .receiving)
    (hq : e.bands[b]? = some q) (hopen : q.isOpen = true) (hmissing : r.state ≠ .missing)
    (hwhole : r.isOpen = false → r.received = r.length) : entrySound { e with
      bands := e.bands.set b r, damaged := e.damaged + (if r.state == .damaged then 1 else 0) } := by
  obtain ⟨hrefs, hcount, hbands⟩ := (entrySound_receiving hstate).1 h
  refine (entrySound_receiving (e := { e with
    bands := e.bands.set b r, damaged := e.damaged + (if r.state == .damaged then 1 else 0) }) hstate).2
    ⟨hrefs, ?_, fun x hx => ?_⟩
  · have hset := countP_set_add (p := fun r => r.state == .damaged) (r := r) hq
    have hnot : (q.state == BandState.damaged) = false := by
      rcases (by simpa [BandRecord.isOpen] using hopen : q.state = .expected ∨ q.state = .arriving) with h' | h' <;> rw [h'] <;> rfl
    rw [if_neg (by simp [hnot])] at hset
    dsimp only
    omega
  · rcases mem_set_cases hx with hx | rfl
    · exact hbands x hx
    · exact ⟨hmissing, hwhole⟩

/-- R42, R43: a band of a DAMAGED entry that is not GOOD is replaced. -/
theorem entrySound_set_damaged {e : Entry} {b : Nat} {q r : BandRecord} (h : entrySound e) (hstate : e.state = .damaged)
    (hq : e.bands[b]? = some q) (hbad : q.state ≠ .good) (hexpected : r.state ≠ .expected) (hr : r.state ≠ .good) :
    entrySound { e with bands := e.bands.set b r } := by
  obtain ⟨hcount, hpos, hbands⟩ := (entrySound_damaged hstate).1 h
  refine (entrySound_damaged (e := { e with bands := e.bands.set b r }) hstate).2 ⟨?_, hpos, fun x hx => ?_⟩
  · have hset := countP_set_add (p := fun r => r.state != .good) (r := r) hq
    rw [if_pos (by simpa using hbad), if_pos (by simpa using hr)] at hset
    have : e.bands.countP (fun r => r.state != .good) = e.damaged := hcount.symm
    simp only [Entry.badBands]
    omega
  · rcases mem_set_cases hx with hx | rfl
    · exact hbands x hx
    · exact hexpected

/-- R28, R41: a band record that is not completed goes on ARRIVING. -/
theorem entrySound_set_arriving {e : Entry} {b : Nat} {q r : BandRecord} (h : entrySound e) (hq : e.bands[b]? = some q)
    (hstate : e.state = .receiving ∧ q.isOpen = true ∨ e.state = .damaged ∧ q.state ≠ .good) (hr : r.state = .arriving) :
    entrySound { e with bands := e.bands.set b r } := by
  rcases hstate with ⟨hstate, hopen⟩ | ⟨hstate, hbad⟩
  · have hset := entrySound_set_receiving (r := r) h hstate hq hopen (by simp [hr]) (by simp [BandRecord.isOpen, hr])
    rwa [hr] at hset
  · exact entrySound_set_damaged h hstate hq hbad (by simp [hr]) (by simp [hr])

/-- A context fits an entry of which one band record is replaced, when it covers that band as it stands. -/
theorem contextFits_set {c d : Context} {e : Entry} {b n : Nat} {r : BandRecord} (h : contextFits c e) (hmode : d.mode = c.mode)
    (hself : d.covers b = true ↔ r.isOpen = true) (hothers : ∀ a, a ≠ b → (d.covers a = true ↔ c.covers a = true)) :
    contextFits d { e with bands := e.bands.set b r, damaged := n } := by
  obtain ⟨hstate, hcovers⟩ := h
  refine ⟨hmode ▸ hstate, fun a q hq => ?_⟩
  by_cases hab : a = b
  · subst hab
    rw [List.getElem?_set] at hq
    rw [if_pos rfl] at hq
    split at hq
    · exact Option.some.inj hq ▸ hself
    · cases hq
  · rw [show (e.bands.set b r)[a]? = _ from List.getElem?_set_ne (Ne.symm hab)] at hq
    exact (hothers a hab).trans (hcovers a q hq)

/-! ## The placing of a chunk (R28) -/

theorem directoryView_prxPump (s : State) : directoryView (prxPump s) = directoryView s := by
  rcases prxPump_cases s with h | ⟨k, a, bs, todo, hk, -, -, h⟩
  · rw [h]
  · rw [h]
    simp only [directoryView, hk]
    rfl

theorem isOpen_iff {r : BandRecord} : r.isOpen = true ↔ r.state = .expected ∨ r.state = .arriving := by
  simp [BandRecord.isOpen]

theorem BandRecord.grown_arriving {r : BandRecord} (h : r.isOpen = true) (n : Nat) (new : Option Nat) :
    (r.grown n new).state = .arriving := by
  unfold BandRecord.grown
  rcases isOpen_iff.1 h with h | h <;> simp [h]

/-- A context covers the same bands with one band's progress replaced. -/
theorem Context.covers_grown (c : Context) (b : Nat) (p : BandProgress) (hp : p.band = b) (a : Nat) :
    (c.grown b p).covers a = c.covers a := by
  simp only [Context.covers, Context.grown, List.any_map]
  congr 1
  funext q
  simp only [Function.comp_apply]
  split
  · rename_i hq
    rw [hp, hq]
  · rfl

/-- R28: a placed chunk keeps the laws, where its band is open and has all its bytes when the chunk is LAST. -/
theorem placeChunk_keeps_directorySound {s t : State} (hs : directorySound s) {i h b offset : Nat} {last : Bool}
    {bs : List Byte} {c : Context} {r : BandRecord} (hc : (i, c) ∈ servants s.prx.contexts h) (hr : bandOf s h b = some r)
    (hopen : r.isOpen = true) (hlast : last = true → r.received + bs.length = r.length) (hnone : s.prx.chunk = none)
    (hplaced : placeChunk i h b offset last bs s = some t) : directorySound t := by
  obtain ⟨hentry, hfits, hi, hhandle, hold, hone⟩ := served_spec hs hc
  have hh := handle_lt_of_band hr
  cases htake : takeBlock (needsBlock offset bs.length) (c.progress b).tail s with
  | none =>
    rw [(placeChunk_eq_none (contextAt_eq_some.2 hc.1) hr).2 (takeBlock_eq_none.1 htake)] at hplaced
    cases hplaced
  | some l =>
    obtain ⟨new, u⟩ := l
    rw [placeChunk_eq (contextAt_eq_some.2 hc.1) hr htake] at hplaced
    obtain rfl := Option.some.inj hplaced
    refine directorySound_of_view_eq (directoryView_prxPump _) ?_
    set p := (c.progress b).grown b (entry s h).width new bs with hp
    set d := c.grown b p with hd
    set k : Chunk := ⟨h, b, last, bs, chunkBursts offset (c.progress b).tail new bs⟩ with hk
    set v := chunkHeld i k c r new u.psc s with hv
    have hnew : ∀ x, some d = some x → x.handle = h := fun x hx => Option.some.inj hx ▸ hhandle
    have hchunk (g : Nat) : chunkOf v g = if h = g then some (b, last) else none := rfl
    have hchanged : ChangedAt h s v := by
      refine changedAt_of_written (i := i) (o := some d) hh rfl rfl hold hnew fun g hg => ?_
      rw [hchunk, if_neg (Ne.symm hg), chunkOf, hnone]
      rfl
    have hview : handleView v h = ⟨{ entry s h with bands := (entry s h).bands.set b (r.grown bs.length new) },
        {p | p.1 = i ∧ some d = some p.2}, some (b, last)⟩ := by
      rw [handleView_of_written (i := i) (o := some d) hh rfl rfl hi hone hnew, hchunk, if_pos rfl]
    have hself : entry v h = { entry s h with bands := (entry s h).bands.set b (r.grown bs.length new) } :=
      congrArg HandleView.entry hview
    have harriving := BandRecord.grown_arriving hopen bs.length new
    refine directorySound_of_kept hs hchanged ?_ (by rw [hself]) (fun hx => ?_) fun hx => ?_
    · have hcovers := (hfits.2 b r hr).2 hopen
      have hfits' : contextFits d { entry s h with bands := (entry s h).bands.set b (r.grown bs.length new) } :=
        contextFits_set (n := (entry s h).damaged) hfits rfl
          (iff_of_true ((c.covers_grown b p rfl b).trans hcovers) (isOpen_iff.2 (.inr harriving)))
          fun a _ => by rw [hd, c.covers_grown b p rfl a]
      rw [hview]
      refine sound_served ?_ hfits' fun x hx => ?_
      · refine entrySound_set_arriving hentry hr ?_ harriving
        refine hfits.1.imp (fun hst => ⟨hst.1, hopen⟩) fun hst => ⟨hst.1, ?_⟩
        rcases isOpen_iff.1 hopen with h' | h' <;> simp [h']
      · obtain rfl := Option.some.inj hx
        refine ⟨rfl, (c.covers_grown b p rfl b).trans hcovers, r.grown bs.length new, ?_, harriving, hlast⟩
        exact List.getElem?_set_self (List.getElem?_eq_some_iff.1 hr).1
    · rw [hself] at hx
      exact hx
    · rw [hself] at hx
      exact hx

/-! ## The opening of a repair (R41) -/

/-- R41: an opened or joined repair keeps the laws. -/
theorem repairOpened_keeps_directorySound {s : State} (hs : directorySound s) {i h b : Nat} {r : BandRecord} {c : Context}
    (hr : bandOf s h b = some r) (hstate : (entry s h).state = .damaged) (hrefs : (entry s h).refs = 0)
    (hbad : r.state = .damaged ∨ r.state = .missing) (hi : i < s.prx.contexts.length)
    (hold : ∀ d, s.prx.contexts[i]? = some (some d) → d.handle = h) (hone : ∀ p ∈ servants s.prx.contexts h, p.1 = i)
    (hhandle : c.handle = h) (hmode : c.mode = .repair)
    (hcovers : ∀ a q, bandOf s h a = some q → (c.covers a = true ↔ a = b ∨ q.isOpen = true)) (hnone : s.prx.chunk = none) :
    directorySound (repairOpened i h b r c s) ∧ (i, c) ∈ servants (repairOpened i h b r c s).prx.contexts h := by
  have hh := handle_lt_of_band hr
  have hentry := (((directorySound_iff s).1 hs).1 h).entry
  set q : BandRecord := { r with state := .arriving, cause := none, received := 0, head := none } with hq
  set t := repairOpened i h b r c s with ht
  have hnew : ∀ x, some c = some x → x.handle = h := fun x hx => Option.some.inj hx ▸ hhandle
  have hchunk (g : Nat) : chunkOf t g = none := by
    rw [chunkOf, show t.prx.chunk = none from hnone]
    rfl
  have hchanged : ChangedAt h s t := changedAt_of_written (i := i) (o := some c) hh rfl rfl hold hnew fun g _ => by
    rw [hchunk, chunkOf, hnone]
    rfl
  have hview : handleView t h = ⟨{ entry s h with bands := (entry s h).bands.set b q }, {p | p.1 = i ∧ some c = some p.2}, none⟩ := by
    rw [handleView_of_written (i := i) (o := some c) hh rfl rfl hi hone hnew, hchunk]
    rfl
  have hself : entry t h = { entry s h with bands := (entry s h).bands.set b q } := congrArg HandleView.entry hview
  have hfits : contextFits c { entry s h with bands := (entry s h).bands.set b q } := by
    refine ⟨.inr ⟨hstate, hmode, hrefs⟩, fun a x hx => ?_⟩
    have hb : b < (entry s h).bands.length := (List.getElem?_eq_some_iff.1 hr).1
    by_cases hab : a = b
    · subst hab
      obtain rfl : q = x := Option.some.inj ((List.getElem?_set_self hb).symm.trans hx)
      exact iff_of_true ((hcovers a r hr).2 (.inl rfl)) rfl
    · rw [show ((entry s h).bands.set b q)[a]? = _ from List.getElem?_set_ne (Ne.symm hab)] at hx
      exact (hcovers a x hx).trans (or_iff_right hab)
  refine ⟨directorySound_of_kept hs hchanged ?_ (by rw [hself]) (fun hx => ?_) fun hx => ?_, ?_⟩
  · rw [hview]
    refine sound_served (entrySound_set_arriving hentry hr (.inr ⟨hstate, ?_⟩) rfl) hfits (by simp)
    rcases hbad with h' | h' <;> simp [h']
  · rw [hself] at hx
    exact hx
  · rw [hself] at hx
    exact hx
  · rw [show servants t.prx.contexts h = _ from congrArg HandleView.servants hview]
    exact ⟨rfl, rfl⟩

/-! ## PAGE.BAND -/

theorem answer_keeps_directorySound {s : State} (hs : directorySound s) (f : Frame) (code : Byte) (fields : List Byte) :
    directorySound (answer f code fields s) := directorySound_of_view_eq (s := s) rfl hs

/-- R28: an answered chunk keeps the laws. -/
theorem acceptChunk_keeps_directorySound {f : Frame} {x : ChunkOperands} {i : Nat} {opened : Bool} {refused s : State}
    {c : Context} {r : BandRecord} (hrefused : directorySound refused) (hs : directorySound s)
    (hc : (i, c) ∈ servants s.prx.contexts x.handle) (hr : bandOf s x.handle x.band = some r) (hopen : r.isOpen = true)
    (hlast : x.last = true → r.received + x.chunk.length = r.length) (hnone : s.prx.chunk = none) :
    directorySound (acceptChunk f x i opened refused s) := by
  unfold acceptChunk
  split
  · rename_i t ht
    exact answer_keeps_directorySound (placeChunk_keeps_directorySound hs hc hr hopen hlast hnone ht) ..
  · exact answer_keeps_directorySound hrefused ..

/-- R27: a chunk that fits has arrived whole when it is LAST. -/
theorem chunkFits_of_not_misfits {x : ChunkOperands} {declared : Nat} (h : chunkMisfits x declared = false) :
    chunkFits x declared := by
  by_contra hfit
  rw [chunkMisfits_of_not_fits hfit] at h
  cases h

/-- R27: a chunk of an open band keeps the laws. A completed band has no room for a chunk of a byte or more. -/
theorem runChunk_keeps_directorySound {f : Frame} {x : ChunkOperands} {r : BandRecord} {s : State} (hs : directorySound s)
    (hr : bandOf s x.handle x.band = some r) (hlength : 1 ≤ x.chunk.length)
    (hopen : (entry s x.handle).state = .receiving ∨ underRepair s x.handle x.band = true) (hnone : s.prx.chunk = none) :
    directorySound (runChunk f x r s) := by
  unfold runChunk
  split
  · exact answer_keeps_directorySound hs ..
  · rename_i hoffset
    split
    · exact answer_keeps_directorySound hs ..
    · rename_i hfit
      split
      · exact answer_keeps_directorySound hs ..
      · rename_i i hi
        obtain ⟨c, hc⟩ := contextOf_eq_some hi
        obtain ⟨hentry, hfits, -⟩ := served_spec hs hc
        obtain ⟨hle, hlast⟩ := chunkFits_of_not_misfits (Bool.not_eq_true _ ▸ hfit)
        have hoffset' : x.offset = r.received := not_not.1 hoffset
        rw [hoffset'] at hle hlast
        refine acceptChunk_keeps_directorySound hs hs hc hr ?_ hlast.1 hnone
        rcases hopen with hreceiving | hunder
        · by_contra hclosed
          have hwhole := (((entrySound_receiving hreceiving).1 hentry).2.2 r (List.mem_of_getElem? hr)).2
            (Bool.not_eq_true _ ▸ hclosed)
          omega
        · rw [← hfits.2 x.band r hr]
          have hi' : (contextOf s x.handle).bind (contextAt s) = some c := by
            rw [hi]
            exact contextAt_eq_some.2 hc.1
          simp only [underRepair, hi', Bool.and_eq_true] at hunder
          exact hunder.2

theorem restarted_covers (b a : Nat) : [restarted b].any (fun p => p.band == a) = true ↔ a = b := by
  rw [List.any_cons, List.any_nil, Bool.or_false, beq_iff_eq]
  exact eq_comm

theorem Context.covers_append (c : Context) (b a : Nat) :
    Context.covers { c with bands := c.bands ++ [restarted b] } a = true ↔ c.covers a = true ∨ a = b := by
  rw [Context.covers, List.any_append, Bool.or_eq_true]
  exact or_congr_right (restarted_covers b a)

/-- R41: a chunk that is placed in an opened repair keeps the laws. -/
theorem openedChunk_keeps_directorySound {f : Frame} {x : ChunkOperands} {i : Nat} {c : Context} {r : BandRecord} {s : State}
    (hopened : ∀ running, directorySound (repairOpened i x.handle x.band r { c with running := running } s) ∧
      (i, { c with running := running }) ∈
        servants (repairOpened i x.handle x.band r { c with running := running } s).prx.contexts x.handle)
    (hr : bandOf s x.handle x.band = some r) (hoffset : x.offset = 0) (hfit : chunkFits x r.length)
    (hnone : s.prx.chunk = none) : directorySound (acceptChunk f x i true
      (repairOpened i x.handle x.band r { c with running := true } s) (repairOpened i x.handle x.band r c s)) := by
  obtain ⟨hsound, hserved⟩ := hopened c.running
  refine acceptChunk_keeps_directorySound (hopened true).1 hsound hserved (bandOf_repairOpened hr) rfl (fun hlast => ?_) hnone
  obtain ⟨-, hend⟩ := (chunkFits_at_start hoffset).1 hfit
  exact (Nat.zero_add _).trans (hend.1 hlast)

/-- R41: a repair opener keeps the laws. -/
theorem runOpener_keeps_directorySound {f : Frame} {x : ChunkOperands} {r : BandRecord} {s : State} (hs : directorySound s)
    (hr : bandOf s x.handle x.band = some r) (hstate : (entry s x.handle).state = .damaged)
    (hbad : r.state = .damaged ∨ r.state = .missing) (hnone : s.prx.chunk = none) :
    directorySound (runOpener f x r s) := by
  by_cases hrefs : (entry s x.handle).refs = 0
  · by_cases hoffset : x.offset = 0
    · cases hfit : chunkMisfits x r.length with
      | true =>
        rw [runOpener_misfits hrefs hoffset hfit]
        exact answer_keeps_directorySound hs ..
      | false =>
        have hfit' := chunkFits_of_not_misfits hfit
        cases hi : contextOf s x.handle with
        | some i =>
          obtain ⟨c, hc⟩ := contextOf_eq_some hi
          obtain ⟨-, hfits, hlt, hhandle, hold, hone⟩ := served_spec hs hc
          rw [runOpener_joins hrefs hoffset hfit' hr hi (contextAt_eq_some.2 hc.1)]
          refine openedChunk_keeps_directorySound (c := { c with bands := c.bands ++ [restarted x.band] })
            (fun running => ?_) hr hoffset hfit' hnone
          refine repairOpened_keeps_directorySound hs hr hstate hrefs hbad hlt hold hone hhandle ?_ (fun a q hq => ?_) hnone
          · rcases hfits.1 with ⟨hreceiving, -⟩ | ⟨-, hmode, -⟩
            · cases hreceiving.symm.trans hstate
            · exact hmode
          · exact ((c.covers_append x.band a).trans or_comm).trans (or_congr_right (hfits.2 a q hq))
        | none =>
          have hunserved := contextOf_eq_none.1 hi
          cases hfree : freeContext s with
          | none =>
            rw [runOpener_no_context hrefs hoffset hfit' hi hfree]
            exact answer_keeps_directorySound hs ..
          | some i =>
            obtain ⟨hlt, hrun⟩ := runOpener_opens (f := f) hrefs hoffset hfit' hr hi hfree
            obtain ⟨_, hnothing, -⟩ := List.findIdx?_eq_some_iff_getElem.1 hfree
            have hclosed := (((directorySound_iff s).1 hs).1 x.handle).unserved hstate hunserved
            rw [hrun]
            refine openedChunk_keeps_directorySound (c := ⟨x.handle, .repair, true, [restarted x.band]⟩)
              (fun running => ?_) hr hoffset hfit' hnone
            refine repairOpened_keeps_directorySound hs hr hstate hrefs hbad hlt (fun d hd => ?_)
              (by simp [hunserved]) rfl rfl (fun a q hq => ?_) hnone
            · rw [List.getElem?_eq_getElem hlt, Option.isNone_iff_eq_none.1 hnothing] at hd
              cases hd
            · rw [show q.isOpen = false from hclosed q (List.mem_of_getElem? hq)]
              rw [Context.covers, restarted_covers]
              simp
    · rw [runOpener_offset hrefs hoffset]
      exact answer_keeps_directorySound hs ..
  · rw [runOpener_bound hrefs]
    exact answer_keeps_directorySound hs ..

/-- R27, R41: PAGE.BAND keeps the laws. -/
theorem runPageBand_keeps_directorySound {f : Frame} {s : State} (hs : directorySound s) (hnone : s.prx.chunk = none) :
    directorySound (runPageBand f s) := by
  cases hx : parseBand f.payload with
  | none =>
    rw [runPageBand_malformed hx]
    exact answer_keeps_directorySound hs ..
  | some x =>
    by_cases hstate : (entry s x.handle).state = .receiving ∨ (entry s x.handle).state = .damaged
    · cases hr : bandOf s x.handle x.band with
      | none =>
        rw [runPageBand_no_record hx hstate hr]
        exact answer_keeps_directorySound hs ..
      | some r =>
        have hnames : namesBand s f x r := ⟨hx, hstate, hr⟩
        by_cases hopen : bandIsOpen s x
        · obtain ⟨-, -, -, hlength, -⟩ := (parseBand_iff _ x).1 hx
          rw [runPageBand_chunk hnames hopen]
          exact runChunk_keeps_directorySound hs hr hlength hopen hnone
        · by_cases hbad : r.state = .damaged ∨ r.state = .missing
          · rw [runPageBand_opener hnames hopen hbad]
            exact runOpener_keeps_directorySound hs hr (hstate.resolve_left fun h => hopen (.inl h)) hbad hnone
          · obtain ⟨hd, hm⟩ := not_or.1 hbad
            rw [runPageBand_band_closed hnames hopen hd hm]
            exact answer_keeps_directorySound hs ..
    · obtain ⟨hr, hd⟩ := not_or.1 hstate
      rw [runPageBand_not_open hx hr hd]
      exact answer_keeps_directorySound hs ..

end Sys2Proof.Machine

/-! The completion of a link-write burst keeps the directory's laws (R29, R34, R42, R43). -/

namespace Sys2Proof.Machine

/-- The laws carry over the draining of the chunk buffer, with its entry and its context written. -/
theorem directorySound_of_drained {s t : State} {i : Nat} {c : Context} {o : Option Context} {e : Entry} {k : Chunk}
    (hs : directorySound s) (hk : s.prx.chunk = some k) (hc : (i, c) ∈ servants s.prx.contexts k.handle)
    (hh : k.handle < s.pdir.entries.length) (hnew : ∀ d, o = some d → d.handle = k.handle)
    (hview : directoryView t = ⟨s.pdir.entries.set k.handle e, s.prx.contexts.set i o, none⟩)
    (hsound : HandleView.Sound ⟨e, {p | p.1 = i ∧ o = some p.2}, none⟩) (hkey : e.key = (entry s k.handle).key)
    (hclosed : e.closed = true → (entry s k.handle).closed = true)
    (hreceiving : e.state = .receiving → (entry s k.handle).state = .receiving) : directorySound t := by
  obtain ⟨-, -, hi, -, hold, hone⟩ := served_spec hs hc
  simp only [directoryView, DirectoryView.mk.injEq, Option.map_eq_none_iff] at hview
  obtain ⟨hentries, hcontexts, hnone⟩ := hview
  have hchunk (g : Nat) : chunkOf t g = none := by
    rw [chunkOf, hnone]
    rfl
  have hchanged : ChangedAt k.handle s t := changedAt_of_written hh hentries hcontexts hold hnew fun g hg => by
    rw [hchunk, chunkOf, hk]
    exact (if_neg (Ne.symm hg)).symm
  have hself : handleView t k.handle = ⟨e, {p | p.1 = i ∧ o = some p.2}, none⟩ := by
    rw [handleView_of_written hh hentries hcontexts hi hone hnew, hchunk]
  have hentry : entry t k.handle = e := congrArg HandleView.entry hself
  refine directorySound_of_kept hs hchanged (hself ▸ hsound) (by rw [hentry, hkey]) (fun hx => ?_) fun hx => ?_
  · rw [hentry] at hx
    exact hclosed hx
  · rw [hentry] at hx
    exact hreceiving hx

/-! ## The judging of a band -/

/-- A context no longer covers a completed band. -/
theorem Context.covers_without (c : Context) (b a : Nat) :
    (c.without b).covers a = true ↔ c.covers a = true ∧ a ≠ b := by
  simp only [Context.covers, Context.without, List.any_filter, List.any_eq_true, Bool.and_eq_true, bne_iff_ne, beq_iff_eq]
  constructor
  · rintro ⟨p, hp, hne, rfl⟩
    exact ⟨⟨p, hp, rfl⟩, hne⟩
  · rintro ⟨⟨p, hp, rfl⟩, hne⟩
    exact ⟨p, hp, hne, rfl⟩

/-- A context that a completed band has left fits the entry. -/
theorem contextFits_without {c : Context} {e : Entry} {b n : Nat} {r : BandRecord} (h : contextFits c e) (running : Bool)
    (hr : r.isOpen = false) : contextFits (Context.without { c with running := running } b)
      { e with bands := e.bands.set b r, damaged := n } := by
  refine contextFits_set h rfl ?_ fun a ha => ?_
  · rw [Context.covers_without, hr]
    simp
  · rw [Context.covers_without]
    exact and_iff_left ha

theorem BandRecord.judged_closed (r : BandRecord) (verdict : Option DamageCause) : (r.judged verdict).isOpen = false := by
  cases verdict <;> rfl

/-- R43: an entry under repair of which one more band is GOOD. -/
theorem entrySound_repaired {e : Entry} {b : Nat} {q r : BandRecord} (h : entrySound e) (hstate : e.state = .damaged)
    (hq : e.bands[b]? = some q) (hbad : q.state ≠ .good) (hr : r.state = .good) :
    (e.damaged - 1 ≠ 0 → entrySound { e with bands := e.bands.set b r, damaged := e.damaged - 1 }) ∧
      (e.damaged - 1 = 0 →
        entrySound { e with state := .complete, bands := e.bands.set b r, damaged := e.damaged - 1 }) := by
  obtain ⟨hcount, hpos, hbands⟩ := (entrySound_damaged hstate).1 h
  have hset := countP_set_add (p := fun r => r.state != .good) (r := r) hq
  rw [if_pos (by simpa using hbad), if_neg (by simp [hr])] at hset
  have hbefore : e.bands.countP (fun r => r.state != .good) = e.damaged := hcount.symm
  refine ⟨fun hmore => ?_, fun hlast => ?_⟩
  · refine (entrySound_damaged (e := { e with bands := e.bands.set b r, damaged := e.damaged - 1 }) hstate).2
      ⟨?_, Nat.one_le_iff_ne_zero.2 hmore, fun x hx => ?_⟩
    · simp only [Entry.badBands]
      omega
    · rcases mem_set_cases hx with hx | rfl
      · exact hbands x hx
      · simp [hr]
  · refine (entrySound_complete rfl).2 ⟨hlast, fun x hx => ?_⟩
    have hzero : (e.bands.set b r).countP (fun r => r.state != .good) = 0 := by omega
    simpa using List.countP_eq_zero.1 hzero x hx

/-! ## The last burst of a chunk -/

/-- R29, R34, R42, R43: the last burst of a chunk keeps the laws. -/
theorem lastBurst_keeps_directorySound {s : State} {k : Chunk} (hs : directorySound s) (hk : s.prx.chunk = some k)
    (htodo : k.todo = []) : directorySound (prxBurstDone false s) := by
  have hhandle := ((directorySound_iff s).1 hs).1 k.handle
  obtain ⟨⟨i, c⟩, hc, hrunning, hcovers, r, hr, harriving, hlast⟩ := hhandle.chunk _ (chunkOf_eq_some.2 ⟨k, hk, rfl, rfl⟩)
  obtain ⟨hentry, hfits, hi, hch, hold, hone⟩ := served_spec hs hc
  have hh : k.handle < s.pdir.entries.length := handle_lt_of_band (b := k.band) hr
  have hi' : contextOf s k.handle = some i := contextOf_of_mem hhandle.one hc
  have hsome {d : Context} (hd : d.handle = c.handle) : ∀ x, some d = some x → x.handle = k.handle :=
    fun x hx => Option.some.inj hx ▸ hd.trans hch
  rw [prxBurstDone_last hk htodo hi' hc.1]
  split
  · rename_i hklast
    have hcontext := contextAt_chunkDrained hc.1
    have hband : bandOf (chunkDrained i c s) k.handle k.band = some r := hr
    have hbad : r.state ≠ .good := by simp [harriving]
    rcases hfits.1 with ⟨hstate, hmode⟩ | ⟨hstate, hmode, hrefs⟩
    · rw [completeBand_reception hcontext hband hmode, setContext_chunkDrained]
      set verdict := bandVerdict (Context.progress { c with running := true } k.band) r
      have hcount : (if verdict = none then (entry s k.handle).damaged else (entry s k.handle).damaged + 1) =
          (entry s k.handle).damaged + (if (r.judged verdict).state == .damaged then 1 else 0) := by
        cases verdict <;> rfl
      refine directorySound_of_drained hs hk hc hh (hsome (d := Context.without { c with running := true } k.band) rfl) rfl
        (sound_served ?_ (contextFits_without hfits true (r.judged_closed verdict)) (by simp)) rfl id id
      refine hcount.symm ▸ entrySound_set_receiving hentry hstate hr (isOpen_iff.2 (.inr harriving)) ?_ fun _ => hlast hklast
      cases verdict <;> simp [BandRecord.judged]
    · cases hv : bandVerdict (Context.progress { c with running := true } k.band) r with
      | some cause =>
        rw [completeBand_damaged_again hcontext hband hmode hv, setContext_chunkDrained]
        exact directorySound_of_drained hs hk hc hh (hsome (d := Context.without { c with running := true } k.band) rfl) rfl
          (sound_served (entrySound_set_damaged hentry hstate hr hbad (by simp) (by simp))
            (contextFits_without hfits true rfl) (by simp)) rfl id id
      | none =>
        obtain ⟨hmore, hend⟩ := entrySound_repaired (r := { r with state := .good, cause := none }) hentry hstate hr hbad rfl
        have hrepaired := completeBand_repaired hcontext hband hmode hv
        by_cases hz : (entry s k.handle).damaged - 1 = 0
        · rw [hrepaired.trans (if_pos hz), noteEntry_eq]
          have hview : directoryView (setContext i none (setEntry k.handle { entry s k.handle with
              state := .complete
              bands := (entry s k.handle).bands.set k.band { r with state := .good, cause := none }
              damaged := (entry s k.handle).damaged - 1 } (chunkDrained i c s))) =
              ⟨s.pdir.entries.set k.handle { entry s k.handle with
                state := .complete
                bands := (entry s k.handle).bands.set k.band { r with state := .good, cause := none }
                damaged := (entry s k.handle).damaged - 1 }, s.prx.contexts.set i none, none⟩ := by
            rw [setContext_setEntry, setContext_chunkDrained]
            rfl
          refine directorySound_of_drained hs hk hc hh (by simp) hview ?_ rfl
            (fun _ => Entry.closed_iff.2 (.inr hstate)) (by simp)
          have hnobody : ({p | p.1 = i ∧ (none : Option Context) = some p.2} : Set (Nat × Context)) = ∅ := by simp
          rw [hnobody]
          exact sound_unserved (hend hz) (by simp) (by simp)
        · rw [hrepaired.trans (if_neg hz), setContext_chunkDrained]
          exact directorySound_of_drained hs hk hc hh (hsome (d := Context.without { c with running := true } k.band) rfl) rfl
            (sound_served (hmore hz) (contextFits_without hfits true rfl) (by simp)) rfl id id
  · have hview : directoryView (chunkDrained i c s) =
        ⟨s.pdir.entries.set k.handle (entry s k.handle), s.prx.contexts.set i (some { c with running := true }), none⟩ := by
      have hset := congrArg (fun u => u.pdir.entries) (set_entry s k.handle)
      simp only [setEntry] at hset
      rw [hset]
      rfl
    have hfits' : contextFits { c with running := true } (entry s k.handle) := hfits
    exact directorySound_of_drained hs hk hc hh (hsome (d := { c with running := true }) rfl) hview
      (sound_served hentry hfits' (by simp)) rfl id id

end Sys2Proof.Machine

/-! The schedule test, the head's records and the index keep the directory's laws: only the binding and the unbinding of
a job's pages change what the laws read (R129 to R135). -/

namespace Sys2Proof.Machine

/-! ## The end of a job (R135) -/

theorem directoryView_imagedEnd (j : Job) (r : JobResult) (s : State) :
    directoryView (plateEnd (ruStop (fixVerdict (handAbort j r s)))) = directoryView s := by simp [directoryView]

theorem directoryView_unimagedEnd (s : State) : directoryView (dropFill (closePlate s)) = directoryView s := by
  simp [directoryView]

theorem directoryView_archiveJob (j : Job) (l : List Defect) (s : State) :
    directoryView (archiveJob j l s) = directoryView s := by simp [directoryView]

theorem endArmedJob_keeps_directorySound {s : State} (hs : directorySound s) (r : JobResult) (f : Option FitFault) :
    directorySound (endArmedJob r f s) := by
  unfold endArmedJob
  dsimp only
  split
  · exact hs
  · split
    · refine directorySound_of_view_eq (directoryView_archiveJob ..) (unbindJob_keeps_directorySound ?_ _)
      exact directorySound_of_view_eq (directoryView_imagedEnd ..) hs
    · refine directorySound_of_view_eq (directoryView_archiveJob ..) (unbindJob_keeps_directorySound ?_ _)
      exact directorySound_of_view_eq (directoryView_unimagedEnd _) hs

/-! ## Arming (R129 to R132) -/

/-- R55: a key resolves to a closed entry. -/
theorem resolve_closed {s : State} {k : PageKey} {h : Nat} (hres : resolve s k = some h) : (entry s h).closed = true := by
  obtain ⟨hlt, hmatch, -⟩ := List.findIdx?_eq_some_iff_getElem.1 hres
  rw [entry, List.getD_eq_getElem _ _ hlt]
  exact (Bool.and_eq_true_iff.1 hmatch).1

theorem directoryView_beginArming (j : Job) (s : State) : directoryView (beginArming j s) = directoryView s := by
  simp [directoryView]

/-- R131: the binding of a job whose keys resolve keeps the laws. -/
theorem bindJob_keeps_directorySound {s : State} (hs : directorySound s) {j : Job}
    (hall : ∀ t ∈ j.slots, (resolve s t.key).isSome = true) : directorySound (bindJob j s) := by
  have hbound : directorySound ((j.slots.map (fun t => (resolvedPage s t).1)).dedup.foldl bindEntry s) := by
    refine bindEntries_keeps_directorySound hs fun h hh => ?_
    obtain ⟨t, ht, rfl⟩ := List.mem_map.1 (List.mem_dedup.1 hh)
    obtain ⟨h, hh⟩ := Option.isSome_iff_exists.1 (hall t ht)
    simp only [resolvedPage, hh, Option.getD_some]
    exact resolve_closed hh
  refine directorySound_of_view_eq ?_ hbound
  simp [directoryView, bindJob]

theorem directoryView_startImaging (s : State) : directoryView (startImaging s) = directoryView s := by simp [directoryView]

theorem directoryView_tileCheck (j : Job) (s : State) : directoryView (tileCheck j s) = directoryView s := by
  simp [directoryView]

/-- R127: every key of an eligible job resolves. -/
theorem eligible_resolves {s : State} {j : Job} (h : eligible s j = true) : ∀ t ∈ j.slots, (resolve s t.key).isSome = true := by
  intro t ht
  simp only [eligible, Bool.and_eq_true, List.all_eq_true] at h
  have hready := h.2 t ht
  unfold slotReady at hready
  cases hres : resolve s t.key with
  | none => simp [hres] at hready
  | some h => rfl

theorem scheduleFrom_keeps_directorySound (n : Nat) : ∀ {s : State}, directorySound s → directorySound (scheduleFrom n s) := by
  induction n with
  | zero => exact fun hs => hs
  | succ n ih =>
    intro s hs
    unfold scheduleFrom
    split
    · exact hs
    · split
      · exact hs
      · rename_i j hj
        have harmed : directorySound (beginArming j s) := directorySound_of_view_eq (directoryView_beginArming j s) hs
        split
        · exact ih (endArmedJob_keeps_directorySound harmed _ _)
        · refine directorySound_of_view_eq (directoryView_tileCheck ..) (bindJob_keeps_directorySound harmed fun t ht => ?_)
          have hresolve : resolve (beginArming j s) t.key = resolve s t.key := by simp [resolve]
          rw [hresolve]
          exact eligible_resolves (List.find?_some hj) t ht

theorem scheduleTest_keeps_directorySound {s : State} (hs : directorySound s) : directorySound (scheduleTest s) :=
  scheduleFrom_keeps_directorySound _ hs

theorem testIfEntriesChanged_keeps_directorySound {s : State} (hs : directorySound s) (before : State) :
    directorySound (testIfEntriesChanged before s) := by
  unfold testIfEntriesChanged
  split
  · exact hs
  · exact scheduleTest_keeps_directorySound hs

theorem endArmed_keeps_directorySound {s : State} (hs : directorySound s) (r : JobResult) (f : Option FitFault) :
    directorySound (endArmed r f s) := by
  unfold endArmed
  split
  · exact hs
  · exact scheduleTest_keeps_directorySound (endArmedJob_keeps_directorySound hs r f)

theorem endImaging_keeps_directorySound {s : State} (hs : directorySound s) (r : JobResult) :
    directorySound (endImaging r s) := by
  unfold endImaging
  split
  · exact hs
  · exact endArmed_keeps_directorySound hs r none

/-! ## The judgement of a fill (R97) -/

theorem judgeFill_keeps_directorySound {s : State} (hs : directorySound s) (f : Fill) : directorySound (judgeFill f s) := by
  unfold judgeFill
  dsimp only
  split
  · exact directorySound_of_view_eq (directoryView_startImaging _) (directorySound_of_view_eq (s := s) rfl hs)
  · refine endArmed_keeps_directorySound ?_ _ _
    exact directorySound_of_view_eq (s := s) rfl hs

theorem fillDone_keeps_directorySound {s : State} (hs : directorySound s) (stale : Bool) (bs : List Byte) :
    directorySound (fillDone stale bs s) := by
  have hpump (t : State) : directoryView (fillPump t) = directoryView t := by simp [directoryView]
  have htaken (f : Fill) : directorySound (takeFill f bs s) := directorySound_of_view_eq (s := s) rfl hs
  unfold fillDone
  dsimp only
  split
  · exact directorySound_of_view_eq (hpump s) hs
  · split
    · exact hs
    · split
      · exact htaken _
      · split
        · exact judgeFill_keeps_directorySound (htaken _) _
        · exact directorySound_of_view_eq (hpump _) (htaken _)

/-! ## Head return records (R161 to R171) -/

theorem finishTest_keeps_directorySound {s : State} (hs : directorySound s) (code : Byte) (fields : List Byte) :
    directorySound (finishTest code fields s) := by
  unfold finishTest
  split
  · exact hs
  · exact scheduleTest_keeps_directorySound (directorySound_of_view_eq (s := s) rfl hs)

theorem checkHead_keeps_directorySound {s : State} (hs : directorySound s) (r : HeadRecord) :
    directorySound (checkHead r s) := by
  unfold checkHead
  split
  · exact endImaging_keeps_directorySound hs _
  · exact hs

theorem takeHeadState_keeps_directorySound {s : State} (hs : directorySound s) (r : HeadRecord) :
    directorySound (takeHeadState r s) := by
  unfold takeHeadState
  dsimp only
  split
  · exact hs
  · refine scheduleTest_keeps_directorySound (directorySound_of_view_eq (s := s) ?_ hs)
    (repeat' split) <;> rfl

theorem directoryView_judgeRecord (r : HeadRecord) (v : Revolution) (job : Nat) (s : State) :
    directoryView (judgeRecord r v job s) = directoryView s := by simp [directoryView]

theorem takeRecord_keeps_directorySound {s : State} (hs : directorySound s) (r : HeadRecord) :
    directorySound (takeRecord r s) := by
  have hstate := takeHeadState_keeps_directorySound (checkHead_keeps_directorySound
    (directorySound_of_view_eq (t := { s with imp := { s.imp with recordTaken := true } }) rfl hs) r) r
  unfold takeRecord
  dsimp only
  split
  · exact finishTest_keeps_directorySound hstate _ _
  · exact directorySound_of_view_eq (directoryView_judgeRecord ..) hstate

/-! ## The index (R150) -/

theorem directoryView_closeRevolution (s : State) : directoryView (closeRevolution s) = directoryView s := by
  simp [directoryView]

theorem directoryView_beginRevolution (d : Decision) (n : Nat) (live : Bool) (s : State) :
    directoryView (beginRevolution d n live s) = directoryView s := rfl

theorem directoryView_beginExpose (s : State) : directoryView (beginExpose s) = directoryView s := by
  unfold beginExpose
  simp [directoryView]

theorem decideEnd_keeps_directorySound {s : State} (hs : directorySound s) (r : JobResult) :
    directorySound (decideEnd r s) := by
  refine endImaging_keeps_directorySound ?_ r
  exact directorySound_of_view_eq (s := s) rfl hs

theorem decideDwell_keeps_directorySound {s : State} (hs : directorySound s) : directorySound (decideDwell s) := by
  unfold decideDwell
  dsimp only
  split
  · split
    · exact directorySound_of_view_eq (s := s) rfl hs
    · refine decideEnd_keeps_directorySound ?_ _
      exact directorySound_of_view_eq (s := s) rfl hs
  · exact directorySound_of_view_eq (s := s) rfl hs

theorem decideImaging_keeps_directorySound {s : State} (hs : directorySound s) (j : Job) :
    directorySound (decideImaging j s) := by
  have hexpose {t : State} (ht : directoryView t = directoryView s) : directorySound (beginExpose t) :=
    directorySound_of_view_eq ((directoryView_beginExpose t).trans ht) hs
  unfold decideImaging
  dsimp only
  split
  · exact directorySound_of_view_eq (directoryView_beginRevolution ..) hs
  · split
    · exact decideEnd_keeps_directorySound hs _
    · split
      · exact decideEnd_keeps_directorySound hs _
      · split
        · exact hexpose rfl
        · split
          · exact hexpose rfl
          · exact decideDwell_keeps_directorySound hs

theorem decideIdle_keeps_directorySound {s : State} (hs : directorySound s) : directorySound (decideIdle s) := by
  unfold decideIdle
  split
  · exact directorySound_of_view_eq (s := s) rfl hs
  · exact directorySound_of_view_eq (s := s) rfl hs

theorem abandonIfFourth_keeps_directorySound {s : State} (hs : directorySound s) : directorySound (abandonIfFourth s) := by
  unfold abandonIfFourth
  split
  · split
    · exact finishTest_keeps_directorySound hs _ _
    · exact hs
  · exact hs

theorem indexEvent_keeps_directorySound {s : State} (hs : directorySound s) : directorySound (indexEvent s) := by
  have hclosed : directorySound (hmonIndex (closeRevolution s)) :=
    directorySound_of_view_eq (t := hmonIndex (closeRevolution s)) (directoryView_closeRevolution s) hs
  refine abandonIfFourth_keeps_directorySound ?_
  unfold decideRevolution
  split
  · exact decideImaging_keeps_directorySound hclosed _
  · exact decideIdle_keeps_directorySound hclosed

/-! ## The slot clock (R148, R172 to R174) -/

theorem reportClockLoss_keeps_directorySound {s : State} (hs : directorySound s) (clock : ClockName) :
    directorySound (reportClockLoss clock s) := by
  unfold reportClockLoss
  split
  · exact hs
  · exact directorySound_of_view_eq (s := endImaging .clockLost s) rfl (endImaging_keeps_directorySound hs _)

theorem directoryView_markOverdue (s : State) : directoryView (markOverdue s) = directoryView s := by simp [directoryView]

theorem directoryView_impSlot (s : State) : directoryView (impSlot s) = directoryView s := by simp [directoryView]

theorem markLost_keeps_directorySound {s : State} (hs : directorySound s) : directorySound (markLost s) := by
  refine reportClockLoss_keeps_directorySound ?_ _
  exact directorySound_of_view_eq (s := s) rfl hs

theorem directorySound_ite {s t : State} {p : Prop} [Decidable p] (hs : directorySound s) (ht : directorySound t) :
    directorySound (if p then s else t) := by
  split
  · exact hs
  · exact ht

theorem hmonSlot_keeps_directorySound {s : State} (hs : directorySound s) : directorySound (hmonSlot s) := by
  have hcounted : directorySound { s with hmon := { s.hmon with slotCount := countSlot s.hmon.slotCount } } :=
    directorySound_of_view_eq (s := s) rfl hs
  have hmarked : directorySound (markOverdue { s with hmon := { s.hmon with slotCount := countSlot s.hmon.slotCount } }) :=
    directorySound_of_view_eq (directoryView_markOverdue _) hcounted
  refine directorySound_ite hs (directorySound_ite (markLost_keeps_directorySound ?_) ?_)
  · exact directorySound_ite hmarked hcounted
  · exact directorySound_ite hmarked hcounted

theorem slotEvent_keeps_directorySound {s : State} (hs : directorySound s) : directorySound (slotEvent s) :=
  hmonSlot_keeps_directorySound (directorySound_of_view_eq (directoryView_impSlot s) hs)

/-! ## Bytes of the link (R4 to R8) -/

theorem acceptFrame_keeps_directorySound {s : State} (hs : directorySound s) (f : Frame) :
    directorySound (acceptFrame f s) := by
  have hvalid : directorySound { s with lp := s.lp.validFrame f } := directorySound_of_view_eq (s := s) rfl hs
  unfold acceptFrame
  dsimp only
  split
  · exact scheduleTest_keeps_directorySound hvalid
  · exact hvalid

theorem receiveByte_keeps_directorySound {s : State} (hs : directorySound s) (b : Byte) :
    directorySound (receiveByte b s) := by
  unfold receiveByte
  dsimp only
  split
  · split
    · exact directorySound_of_view_eq (s := s) rfl hs
    · exact hs
  · split
    · exact directorySound_of_view_eq (s := s) rfl hs
    · split
      · split
        · exact acceptFrame_keeps_directorySound hs _
        · exact directorySound_of_view_eq (s := s) rfl hs
      · exact directorySound_of_view_eq (s := s) rfl hs

end Sys2Proof.Machine

/-! Every command of the link keeps the directory's laws. -/

namespace Sys2Proof.Machine

/-! ## Commands that leave the directory alone, or leave it to their parts -/

/-- A command that its owner runs with the chunk buffer empty, which is when commands are taken (R11, R29). -/
def KeepsDirectory (run : Frame → State → State) : Prop :=
  ∀ f s, s.prx.chunk = none → directorySound s → directorySound (run f s)

/-- An outcome whose state, where it has one, meets the directory's laws. -/
def leadsSound (o : Host.Outcome State Fault Refusal) : Prop := ∀ t, o = .next t → directorySound t

theorem leadsSound_next {s : State} (hs : directorySound s) : leadsSound (.next s) := fun _ ht =>
  Host.Outcome.next.inj ht ▸ hs

theorem KeepsDirectory.serve {p : Frame → Bool} {run : Frame → State → State} (hrun : KeepsDirectory run) {s : State}
    (hs : directorySound s) : leadsSound (serve p run s) := by
  intro t ht
  rcases serve_cases ht with rfl | ⟨f, rest, htakes, -, rfl⟩
  · exact hs
  · obtain ⟨-, hchunk, -⟩ := htakes
    exact hrun f _ hchunk (directorySound_of_view_eq (s := s) rfl hs)

theorem answer_keepsDirectory (code : Byte) : KeepsDirectory (fun f s => answer f code [] s) :=
  fun f _ _ hs => answer_keeps_directorySound hs f code []

theorem KeepsDirectory.whenReady {run : Frame → State → State} (hrun : KeepsDirectory run) :
    KeepsDirectory (whenReady run) := by
  intro f s hchunk hs
  unfold Machine.whenReady
  split
  · exact answer_keeps_directorySound hs ..
  · exact hrun f s hchunk hs

/-- A command that leaves alone what the directory's laws read. -/
theorem keepsDirectory_of_view {run : Frame → State → State} (hrun : ∀ f s, directoryView (run f s) = directoryView s) :
    KeepsDirectory run := fun f s _ hs => directorySound_of_view_eq (hrun f s) hs

theorem runStatus_keepsDirectory : KeepsDirectory runStatus := keepsDirectory_of_view fun f s => by simp [directoryView]

theorem runPageQuery_keepsDirectory : KeepsDirectory runPageQuery :=
  keepsDirectory_of_view fun f s => by simp [directoryView]

theorem runScreenTile_keepsDirectory : KeepsDirectory runScreenTile :=
  keepsDirectory_of_view fun f s => by simp [directoryView]

theorem runScreenQuery_keepsDirectory : KeepsDirectory runScreenQuery :=
  keepsDirectory_of_view fun f s => by simp [directoryView]

theorem runPlateQuery_keepsDirectory : KeepsDirectory runPlateQuery :=
  keepsDirectory_of_view fun f s => by simp [directoryView]

theorem runPlateList_keepsDirectory : KeepsDirectory runPlateList :=
  keepsDirectory_of_view fun f s => by simp [directoryView]

theorem runHeadSetup_keepsDirectory : KeepsDirectory runHeadSetup :=
  keepsDirectory_of_view fun f s => by simp [directoryView]

theorem runChannelClear_keepsDirectory : KeepsDirectory runChannelClear :=
  keepsDirectory_of_view fun f s => by simp [directoryView]

theorem runMonitorTest_keepsDirectory : KeepsDirectory runMonitorTest :=
  keepsDirectory_of_view fun f s => by simp [directoryView]

theorem runConfigure_keepsDirectory : KeepsDirectory runConfigure :=
  keepsDirectory_of_view fun f s => by simp [directoryView]

/-! ## The page commands (R21 to R62) -/

theorem chunkOf_none {s : State} (hchunk : s.prx.chunk = none) (h : Nat) : chunkOf s h = none := by
  simp [chunkOf, hchunk]

theorem runPageBand_keepsDirectory : KeepsDirectory runPageBand :=
  fun _ _ hchunk hs => runPageBand_keeps_directorySound hs hchunk

/-- R23: no reception of the key is open once the older one is closed, and the laws hold. -/
theorem closeOlder_keeps_directorySound {s : State} (hs : directorySound s) (hchunk : s.prx.chunk = none) (k : PageKey) :
    directorySound (closeOlder (olderReception s k) s) ∧ ∀ g, (entry (closeOlder (olderReception s k) s) g).state =
      .receiving → (entry (closeOlder (olderReception s k) s) g).key ≠ k := by
  cases holder : olderReception s k with
  | none =>
    refine ⟨hs, fun g hstate hkey => ?_⟩
    have hg : g < s.pdir.entries.length := by
      by_contra hge
      rw [closeOlder, entry_default (Nat.le_of_not_lt hge)] at hstate
      cases hstate
    have hno := List.findIdx?_eq_none_iff.1 holder _ (List.mem_of_getElem? (getElem?_of_lt hg))
    simp only [closeOlder] at hstate hkey
    simp [hstate, hkey] at hno
  | some h =>
    obtain ⟨hh, hmatch, -⟩ := List.findIdx?_eq_some_iff_getElem.1 holder
    have hentry : s.pdir.entries[h] = entry s h := (entry_of_getElem? (List.getElem?_eq_getElem hh)).symm
    rw [hentry, Bool.and_eq_true, beq_iff_eq, beq_iff_eq] at hmatch
    obtain ⟨hstate, hkey⟩ := hmatch
    obtain ⟨hall, hkeys⟩ := (directorySound_iff s).1 hs
    obtain ⟨p, hp⟩ := (hall h).received hstate
    have hone : ∀ (i : Nat) (c : Context), s.prx.contexts[i]? = some (some c) → c.handle = h → i = p.1 :=
      fun i c hc hch => congrArg Prod.fst ((hall h).one (show (i, c) ∈ servants s.prx.contexts h from ⟨hc, hch⟩) hp)
    have hentries : (closeOlder (some h) s).pdir.entries = s.pdir.entries.set h Entry.empty := by
      rw [closeOlder_eq hh (contextOf_of_mem (hall h).one hp), (releaseEntry_unserved ?unserved).1]
      case unserved => exact contextOf_freed rfl hone
      exact List.set_set ..
    refine ⟨closeReception_keeps_directorySound hs .closed true hstate (chunkOf_none hchunk h), fun g hg hgk => ?_⟩
    rw [entry_of_entries hentries hh] at hg hgk
    split at hg
    · cases hg
    · rename_i hgh
      rw [if_neg hgh] at hgk
      exact hgh ((hkeys g h (hgk.trans hkey.symm)).2 hg hstate)

theorem runPageOpen_keepsDirectory : KeepsDirectory runPageOpen := by
  intro f s hchunk hs
  unfold runPageOpen
  split
  · exact answer_keeps_directorySound hs ..
  · rename_i x _
    split
    · exact answer_keeps_directorySound hs ..
    · split
      · exact answer_keeps_directorySound hs ..
      · dsimp only
        split
        · split
          · rename_i hcreate
            obtain ⟨hclosed, hkey⟩ := closeOlder_keeps_directorySound hs hchunk x.key
            exact scheduleTest_keeps_directorySound
              (answer_keeps_directorySound (createEntry_keeps_directorySound hclosed hcreate hkey) ..)
          · exact answer_keeps_directorySound hs ..
        · exact answer_keeps_directorySound hs ..

theorem runPageClose_keepsDirectory : KeepsDirectory runPageClose := by
  intro f s hchunk hs
  unfold runPageClose
  split
  · exact answer_keeps_directorySound hs ..
  · rename_i h _
    split
    · rename_i hclosable
      have hopen : (entry s h).state = .receiving ∨ contextOf s h ≠ none := by
        simpa [closable, Option.isSome_iff_ne_none] using hclosable
      exact testIfEntriesChanged_keeps_directorySound
        (answer_keeps_directorySound (closeEntry_keeps_directorySound hs .closed hopen (chunkOf_none hchunk h)) ..) _
    · exact answer_keeps_directorySound hs ..

theorem runPageDrop_keepsDirectory : KeepsDirectory runPageDrop := by
  intro f s _ hs
  unfold runPageDrop
  split
  · exact answer_keeps_directorySound hs ..
  · rename_i h _ _ _
    exact directorySound_ite (answer_keeps_directorySound hs ..) (directorySound_ite (answer_keeps_directorySound hs ..)
      (testIfEntriesChanged_keeps_directorySound
        (answer_keeps_directorySound (releaseEntry_keeps_directorySound hs h .dropped) ..) s))

/-! ## The screens and the plate queue (R86 to R92, R124, R139 to R141) -/

theorem runScreenBegin_keepsDirectory : KeepsDirectory runScreenBegin := by
  intro f s _ hs
  unfold runScreenBegin
  split
  · exact answer_keeps_directorySound hs ..
  · refine directorySound_ite (answer_keeps_directorySound hs ..)
      (directorySound_ite (scheduleTest_keeps_directorySound ?_) (answer_keeps_directorySound hs ..))
    exact directorySound_of_view_eq (s := s) rfl hs

theorem runScreenEnd_keepsDirectory : KeepsDirectory runScreenEnd := by
  intro f s _ hs
  unfold runScreenEnd
  split
  · exact answer_keeps_directorySound hs ..
  · refine directorySound_ite (answer_keeps_directorySound hs ..) (scheduleTest_keeps_directorySound ?_)
    exact directorySound_of_view_eq (s := s) rfl hs

theorem runPlateQueue_keepsDirectory : KeepsDirectory runPlateQueue := by
  intro f s _ hs
  unfold runPlateQueue
  split
  · exact answer_keeps_directorySound hs ..
  · (repeat' refine directorySound_ite (answer_keeps_directorySound hs ..) ?_)
    refine scheduleTest_keeps_directorySound ?_
    exact directorySound_of_view_eq (s := s) rfl hs

theorem cancelQueued_keeps_directorySound {s : State} (hs : directorySound s) (j : Job) :
    directorySound (cancelQueued j s) :=
  scheduleTest_keeps_directorySound (directorySound_of_view_eq (directoryView_archiveJob ..) hs)

theorem cancelJob_keeps_directorySound {s : State} (hs : directorySound s) (j : Job) : directorySound (cancelJob j s) := by
  unfold cancelJob
  cases j.state with
  | imaging => exact directorySound_of_view_eq (s := s) rfl hs
  | arming => exact endArmed_keeps_directorySound hs ..
  | queued | finished | failed | cancelled => exact cancelQueued_keeps_directorySound hs j

theorem runPlateCancel_keepsDirectory : KeepsDirectory runPlateCancel := by
  intro f s _ hs
  unfold runPlateCancel
  split
  · exact answer_keeps_directorySound hs ..
  · exact cancelJob_keeps_directorySound (answer_keeps_directorySound hs ..) _

/-! ## RESTART (R197) -/

/-- A directory with every entry EMPTY, every context free and no chunk meets the laws. -/
theorem directorySound_of_blank {s : State} (hempty : ∀ h, entry s h = Entry.empty)
    (hfree : ∀ o ∈ s.prx.contexts, o = none) (hchunk : s.prx.chunk = none) : directorySound s := by
  have hnobody (h : Nat) : servants s.prx.contexts h = ∅ := Set.eq_empty_iff_forall_notMem.2 fun p hp => by
    cases hfree _ (List.mem_of_getElem? hp.1)
  refine (directorySound_iff s).2 ⟨fun h => ?_, fun g h _ => ⟨fun hg => ?_, fun hg => ?_⟩⟩
  · rw [handleView, hempty, hnobody, chunkOf_none hchunk]
    exact sound_empty
  · rw [hempty] at hg
    cases hg
  · rw [hempty] at hg
    cases hg

theorem directorySound_restartPart (s : State) : directorySound (restartPart s) := by
  refine directorySound_of_blank (fun h => entry_reset h) (fun o ho => ?_) rfl
  obtain ⟨-, -, rfl⟩ := List.mem_map.1 ho
  rfl

theorem runRestart_keepsDirectory : KeepsDirectory runRestart := by
  intro f s _ hs
  unfold runRestart
  split
  · split
    · exact answer_keeps_directorySound hs ..
    · exact answer_keeps_directorySound (directorySound_restartPart s) ..
  · exact answer_keeps_directorySound hs ..

end Sys2Proof.Machine

/-! Every event of the parts keeps the directory's laws, and so does every step (R26, R50 to R52, R57). -/

namespace Sys2Proof.Machine

/-! ## Completions of the store's operations (R77) -/

/-- The client of a completion keeps the laws. -/
def KeptBy (client : State → State) : Prop := ∀ s, directorySound s → directorySound (client s)

theorem keptBy_of_view {client : State → State} (hclient : ∀ s, directoryView (client s) = directoryView s) :
    KeptBy client := fun s hs => directorySound_of_view_eq (hclient s) hs

/-- A completion keeps the laws, whichever of the arbiter and the client comes first (R77). -/
theorem completion_keeps_directorySound {client : State → State} (hclient : KeptBy client) (o : EndOrder) {s : State}
    (hs : directorySound s) : directorySound (completion o client s) := by
  cases o with
  | endFirst =>
    refine hclient _ ?_
    exact directorySound_of_view_eq (s := s) rfl hs
  | askFirst =>
    refine directorySound_of_view_eq (s := client { s with psc := { s.psc with inFlight := .ending } }) rfl (hclient _ ?_)
    exact directorySound_of_view_eq (s := s) rfl hs

theorem finishWrite_leadsSound {client : State → State} (hclient : KeptBy client) (o : EndOrder) (addr : Nat)
    (bs : List Byte) {s : State} (hs : directorySound s) : leadsSound (finishWrite o addr bs client s) := by
  refine leadsSound_next (completion_keeps_directorySound hclient o ?_)
  exact directorySound_of_view_eq (s := s) rfl hs

theorem finishRead_leadsSound {client : List Byte → State → State} (hclient : ∀ bs, KeptBy (client bs)) (o : EndOrder)
    (addr len : Nat) {s : State} (hs : directorySound s) : leadsSound (finishRead o addr len client s) :=
  leadsSound_next (completion_keeps_directorySound (hclient _) o hs)

/-- R29: a link-write burst's end, of a chunk with bursts to come, of its last burst, or left behind (R46). -/
theorem prxBurstDone_keptBy (stale : Bool) : KeptBy (prxBurstDone stale) := by
  intro s hs
  have hpump : directorySound (prxPump s) := directorySound_of_view_eq (directoryView_prxPump s) hs
  cases stale with
  | true => exact hpump
  | false =>
    cases hk : s.prx.chunk with
    | none => simpa [prxBurstDone, hk] using hs
    | some k =>
      by_cases htodo : k.todo = []
      · exact lastBurst_keeps_directorySound hs hk htodo
      · simpa [prxBurstDone, hk, htodo] using hpump

theorem prxCompletion_keptBy (stale : Bool) : KeptBy (prxCompletion stale) := fun s hs =>
  testIfEntriesChanged_keeps_directorySound (prxBurstDone_keptBy stale s hs) s

section
variable {s : State} (hs : directorySound s) (o : EndOrder)
include hs

theorem execLinkWriteBurstDone_leadsSound : leadsSound (execLinkWriteBurstDone o s) := by
  unfold execLinkWriteBurstDone
  split
  · exact finishWrite_leadsSound (prxCompletion_keptBy _) o _ _ hs
  · exact leadsSound_next hs

theorem execTileWriteBurstDone_leadsSound : leadsSound (execTileWriteBurstDone o s) := by
  unfold execTileWriteBurstDone
  split
  · exact finishWrite_leadsSound (keptBy_of_view fun t => by simp [directoryView]) o _ _ hs
  · exact leadsSound_next hs

theorem execRuWriteBurstDone_leadsSound : leadsSound (execRuWriteBurstDone o s) := by
  unfold execRuWriteBurstDone
  split
  · exact finishWrite_leadsSound (keptBy_of_view fun t => by simp [directoryView]) o _ _ hs
  · exact leadsSound_next hs

theorem execFillBurstDone_leadsSound : leadsSound (execFillBurstDone o s) := by
  unfold execFillBurstDone
  split
  · exact finishRead_leadsSound (fun bs _ ht => fillDone_keeps_directorySound ht _ bs) o _ _ hs
  · exact leadsSound_next hs

theorem execRuReadBurstDone_leadsSound : leadsSound (execRuReadBurstDone o s) := by
  unfold execRuReadBurstDone
  split
  · exact finishRead_leadsSound (fun bs => keptBy_of_view fun t => by simp [directoryView]) o _ _ hs
  · exact leadsSound_next hs

theorem execFetchArrival_leadsSound : leadsSound (execFetchArrival o s) := by
  unfold execFetchArrival
  split
  · exact finishRead_leadsSound (fun bs => keptBy_of_view fun t => by simp [directoryView]) o _ _ hs
  · exact leadsSound_next hs

end

/-! ## Events of the store, the contexts and the link -/

section
variable {s : State} (hs : directorySound s)
include hs

/-- R65, R82: a refresh that comes late spoils the store and keeps the laws. -/
theorem mergeRefresh_keeps_directorySound : directorySound (mergeRefresh s) := by
  refine testIfEntriesChanged_keeps_directorySound (damageStore_keeps_directorySound ?_) s
  exact directorySound_of_view_eq (s := s) rfl hs

theorem execRefreshDue_leadsSound : leadsSound (execRefreshDue s) := by
  have hask : directorySound (ask .refresh .refresh s) := directorySound_of_view_eq (s := s) rfl hs
  unfold execRefreshDue
  (repeat' split)
  · exact leadsSound_next hs
  · exact leadsSound_next (mergeRefresh_keeps_directorySound hs)
  · exact leadsSound_next hs
  · exact leadsSound_next hask

theorem execRefreshOperationDone_leadsSound : leadsSound (execRefreshOperationDone s) := by
  have hend : directorySound (endOperation s) := directorySound_of_view_eq (s := s) rfl hs
  unfold execRefreshOperationDone
  split
  · exact leadsSound_next hend
  · exact leadsSound_next hs

/-- R39: the expiry of a running context. Its entry has no chunk in the chunk buffer, since a chunk stops the timer. -/
theorem expireReception_keeps_directorySound {i : Nat} {c : Context} (hc : (i, c) ∈ servants s.prx.contexts c.handle)
    (hrunning : c.running = true) : directorySound (expireReception c s) := by
  have hsound := ((directorySound_iff s).1 hs).1 c.handle
  have hnone : chunkOf s c.handle = none := Option.eq_none_iff_forall_ne_some.2 fun k hk => by
    obtain ⟨p, hp, hstopped, -⟩ := hsound.chunk k hk
    rw [hsound.one hp hc, hrunning] at hstopped
    cases hstopped
  have hstate : (entry s c.handle).state = .receiving ∨ (entry s c.handle).state = .damaged :=
    (hsound.fits _ hc).1.imp And.left And.left
  have hempty : (entry s c.handle).state ≠ .empty := by
    rcases hstate with hst | hst <;> simp [hst]
  have hcontext : contextOf s c.handle ≠ none := by
    rw [contextOf_of_mem hsound.one hc]
    exact Option.some_ne_none i
  have hmarked : directorySound (setEntry c.handle { entry s c.handle with timeout := true } s) :=
    setEntry_fields_keeps_directorySound hs hempty rfl rfl rfl rfl rfl
  exact testIfEntriesChanged_keeps_directorySound
    (closeEntry_keeps_directorySound hmarked .timedOut (.inr hcontext) hnone) s

theorem execReceptionTimeout_leadsSound (ctx : Nat) : leadsSound (execReceptionTimeout ctx s) := by
  unfold execReceptionTimeout
  split
  · exact leadsSound_next hs
  · split
    · rename_i c hc
      split
      · rename_i hrunning
        have hmem : s.prx.contexts[ctx]? = some (some c) := by
          rw [contextAt, List.getD_eq_getElem?_getD, Option.getD_eq_iff] at hc
          simpa using hc
        exact leadsSound_next (expireReception_keeps_directorySound hs ⟨hmem, rfl⟩ hrunning)
      · exact leadsSound_next hs
    · exact leadsSound_next hs

theorem execFrameTimerExpiry_leadsSound : leadsSound (execFrameTimerExpiry s) := by
  have hdiscard : directorySound (discardFrame s) := directorySound_of_view_eq (s := s) rfl hs
  unfold execFrameTimerExpiry
  (repeat' split)
  · exact leadsSound_next hs
  · exact leadsSound_next hs
  · exact leadsSound_next hdiscard

theorem execWatchdogExpiry_leadsSound : leadsSound (execWatchdogExpiry s) := by
  unfold execWatchdogExpiry
  split
  · exact leadsSound_next hs
  · refine leadsSound_next ?_
    exact directorySound_of_view_eq (s := s) rfl hs

theorem execBeginTransmission_leadsSound : leadsSound (execBeginTransmission s) := by
  unfold execBeginTransmission
  split
  · exact leadsSound_next hs
  · split
    all_goals
      refine leadsSound_next ?_
      exact directorySound_of_view_eq (s := s) rfl hs

theorem execFrameSent_leadsSound : leadsSound (execFrameSent s) := by
  unfold execFrameSent
  split
  · exact leadsSound_next hs
  · refine leadsSound_next ?_
    exact directorySound_of_view_eq (s := s) rfl hs

theorem execFrameReceived_leadsSound (b : Byte) : leadsSound (execFrameReceived b s) := by
  unfold execFrameReceived
  split
  · exact leadsSound_next hs
  · exact leadsSound_next (receiveByte_keeps_directorySound hs b)

theorem execByteReceived_leadsSound (b : Byte) : leadsSound (execByteReceived b s) := by
  unfold execByteReceived
  split
  · exact leadsSound_next hs
  · exact leadsSound_next (receiveByte_keeps_directorySound hs b)

/-! ## Events of the head and of the drum -/

theorem execSlotClk_leadsSound : leadsSound (execSlotClk s) := by
  unfold execSlotClk
  split
  · exact leadsSound_next hs
  · exact leadsSound_next (slotEvent_keeps_directorySound hs)

theorem execIndexOverdue_leadsSound : leadsSound (execIndexOverdue s) := by
  unfold execIndexOverdue
  split
  · exact leadsSound_next (slotEvent_keeps_directorySound hs)
  · exact leadsSound_next hs

theorem execIndexLost_leadsSound : leadsSound (execIndexLost s) := by
  unfold execIndexLost
  split
  · exact leadsSound_next (slotEvent_keeps_directorySound hs)
  · exact leadsSound_next hs

theorem execDrumIndex_leadsSound : leadsSound (execDrumIndex s) := by
  unfold execDrumIndex
  split
  · exact leadsSound_next hs
  · exact leadsSound_next (indexEvent_keeps_directorySound hs)

theorem execMonitorTestAbandon_leadsSound : leadsSound (execMonitorTestAbandon s) := by
  unfold execMonitorTestAbandon
  split
  · exact leadsSound_next (indexEvent_keeps_directorySound hs)
  · exact leadsSound_next hs

theorem execClockLossExpiry_leadsSound : leadsSound (execClockLossExpiry s) := by
  unfold execClockLossExpiry
  split
  · exact leadsSound_next hs
  · exact leadsSound_next (finishTest_keeps_directorySound (reportClockLoss_keeps_directorySound hs _) _ _)

theorem execHeadReturnRecord_leadsSound (r : HeadRecord) : leadsSound (execHeadReturnRecord r s) := by
  unfold execHeadReturnRecord
  split
  · exact leadsSound_next hs
  · exact leadsSound_next (takeRecord_keeps_directorySound hs r)

end

/-- The part held in reset has the directory of the reset state (R196). -/
theorem heldInReset_directorySound (s : State) : directorySound (heldInReset s) :=
  directorySound_of_view_eq (s := State.reset) rfl directorySound_reset

/-! ## Every command -/

theorem exec_leadsSound {s : State} (hs : directorySound s) (c : Instr) : leadsSound (exec c s) := by
  cases c with
  | hardwareReset => exact leadsSound_next (heldInReset_directorySound s)
  | resetRelease =>
    refine leadsSound_next ?_
    exact directorySound_of_view_eq (s := s) rfl hs
  | tagZero => exact (answer_keepsDirectory _).serve hs
  | unknownKind => exact (answer_keepsDirectory _).serve hs
  | status => exact runStatus_keepsDirectory.serve hs
  | configure => exact runConfigure_keepsDirectory.serve hs
  | restart => exact runRestart_keepsDirectory.serve hs
  | pageOpen => exact runPageOpen_keepsDirectory.whenReady.serve hs
  | pageBand => exact runPageBand_keepsDirectory.whenReady.serve hs
  | pageClose => exact runPageClose_keepsDirectory.whenReady.serve hs
  | pageQuery => exact runPageQuery_keepsDirectory.whenReady.serve hs
  | pageDrop => exact runPageDrop_keepsDirectory.whenReady.serve hs
  | screenBegin => exact runScreenBegin_keepsDirectory.whenReady.serve hs
  | screenTile => exact runScreenTile_keepsDirectory.whenReady.serve hs
  | screenEnd => exact runScreenEnd_keepsDirectory.whenReady.serve hs
  | screenQuery => exact runScreenQuery_keepsDirectory.whenReady.serve hs
  | plateQueue => exact runPlateQueue_keepsDirectory.whenReady.serve hs
  | plateCancel => exact runPlateCancel_keepsDirectory.whenReady.serve hs
  | plateQuery => exact runPlateQuery_keepsDirectory.whenReady.serve hs
  | plateList => exact runPlateList_keepsDirectory.whenReady.serve hs
  | headSetup => exact runHeadSetup_keepsDirectory.serve hs
  | channelClear => exact runChannelClear_keepsDirectory.whenReady.serve hs
  | monitorTest => exact runMonitorTest_keepsDirectory.whenReady.serve hs
  | frameReceived b => exact execFrameReceived_leadsSound hs b
  | byteReceived b => exact execByteReceived_leadsSound hs b
  | frameTimerExpiry => exact execFrameTimerExpiry_leadsSound hs
  | watchdogExpiry => exact execWatchdogExpiry_leadsSound hs
  | beginTransmission => exact execBeginTransmission_leadsSound hs
  | frameSent => exact execFrameSent_leadsSound hs
  | linkWriteBurstDone o => exact execLinkWriteBurstDone_leadsSound hs o
  | receptionTimeout ctx => exact execReceptionTimeout_leadsSound hs ctx
  | tileWriteBurstDone o => exact execTileWriteBurstDone_leadsSound hs o
  | fillBurstDone o => exact execFillBurstDone_leadsSound hs o
  | ruReadBurstDone o => exact execRuReadBurstDone_leadsSound hs o
  | ruWriteBurstDone o => exact execRuWriteBurstDone_leadsSound hs o
  | refreshDue => exact execRefreshDue_leadsSound hs
  | refreshOperationDone => exact execRefreshOperationDone_leadsSound hs
  | slotClk => exact execSlotClk_leadsSound hs
  | fetchArrival o => exact execFetchArrival_leadsSound hs o
  | indexOverdue => exact execIndexOverdue_leadsSound hs
  | indexLost => exact execIndexLost_leadsSound hs
  | drumIndex => exact execDrumIndex_leadsSound hs
  | monitorTestAbandon => exact execMonitorTestAbandon_leadsSound hs
  | clockLossExpiry => exact execClockLossExpiry_leadsSound hs
  | headReturnRecord r => exact execHeadReturnRecord_leadsSound hs r

/-- Settles O54: a step runs one command on the state with the queue's rest, which `directorySound` does not read, and
every command keeps the laws, handle by handle. -/
theorem stepKeepsTheDirectorySound : Obligations.StepKeepsTheDirectorySound := by
  intro s t hs hstep
  unfold step at hstep
  split at hstep
  · rwa [← Host.Outcome.next.inj hstep]
  · rename_i rest _
    exact exec_leadsSound (s := { s with pending := rest }) (directorySound_of_view_eq (s := s) rfl hs) _ t hstep

end Sys2Proof.Machine

/-! The retirement of entries one after another (R52 to R54): the entries that it leaves, and the chunk in the
chunk buffer. -/

namespace Sys2Proof.Machine

/-! ## The chunk buffer and PSC (R46, R54) -/

/-- The state with the chunk buffer emptied (R46): PRX's request withdrawn, its burst in flight left to end. -/
def withoutChunk (s : State) : State := { s with psc := s.psc.dropped .prxWrite, prx := { s.prx with chunk := none } }

/-- The chunk buffer holds what it held, and of PSC nothing but the pool is changed. -/
def SameChunk (s t : State) : Prop := t.prx.chunk = s.prx.chunk ∧ t.psc.poolAside s.psc

/-- Under a condition, and only under it, the chunk buffer is emptied. -/
def EmptiesChunkIff (p : Prop) (s t : State) : Prop := (p → SameChunk (withoutChunk s) t) ∧ (¬p → SameChunk s t)

theorem SameChunk.refl (s : State) : SameChunk s s := ⟨rfl, poolAside_refl _⟩

theorem SameChunk.trans {s t u : State} (hst : SameChunk s t) (htu : SameChunk t u) : SameChunk s u :=
  ⟨htu.1.trans hst.1, poolAside_trans htu.2 hst.2⟩

theorem dropped_poolAside {p q : Psc} (c : Client) (h : p.poolAside q) : (p.dropped c).poolAside (q.dropped c) := by
  cases q
  cases h
  simp [Psc.poolAside, dropped_eq]

theorem dropped_dropped (p : Psc) (c : Client) : (p.dropped c).dropped c = p.dropped c := by
  simp only [dropped_eq, List.filter_filter, Bool.and_self]
  cases p.inFlight with
  | busy op => by_cases hc : op.client = c <;> simp [hc]
  | idle => rfl
  | ending => rfl

theorem SameChunk.withoutChunk {s t : State} (h : SameChunk s t) : SameChunk (withoutChunk s) (withoutChunk t) :=
  ⟨rfl, dropped_poolAside _ h.2⟩

theorem withoutChunk_withoutChunk (s : State) : withoutChunk (withoutChunk s) = withoutChunk s := by
  simp only [withoutChunk, dropped_dropped]

theorem EmptiesChunkIff.congr {p q : Prop} {s t : State} (h : EmptiesChunkIff p s t) (hpq : p ↔ q) :
    EmptiesChunkIff q s t := by rwa [← hpq]

theorem EmptiesChunkIff.of_sameChunk {p : Prop} {s t u v : State} (hst : SameChunk s t) (h : EmptiesChunkIff p t u)
    (huv : SameChunk u v) : EmptiesChunkIff p s v :=
  ⟨fun hp => (hst.withoutChunk.trans (h.1 hp)).trans huv, fun hp => (hst.trans (h.2 hp)).trans huv⟩

/-- The chunk buffer is emptied by the first of two changes or by the second. -/
theorem EmptiesChunkIff.trans {p q : Prop} {s t u : State} (hst : EmptiesChunkIff p s t) (htu : EmptiesChunkIff q t u) :
    EmptiesChunkIff (p ∨ q) s u := by
  by_cases hp : p <;> by_cases hq : q
  · have h := (hst.1 hp).withoutChunk.trans (htu.1 hq)
    rw [withoutChunk_withoutChunk] at h
    exact ⟨fun _ => h, fun hno => absurd (.inl hp) hno⟩
  · exact ⟨fun _ => (hst.1 hp).trans (htu.2 hq), fun hno => absurd (.inl hp) hno⟩
  · exact ⟨fun _ => (hst.2 hp).withoutChunk.trans (htu.1 hq), fun hno => absurd (.inr hq) hno⟩
  · exact ⟨fun hor => absurd hor (not_or.2 ⟨hp, hq⟩), fun _ => (hst.2 hp).trans (htu.2 hq)⟩

/-- The chunk buffer holds a chunk of the entry. -/
def HoldsChunkOf (s : State) (h : Nat) : Prop := ∃ k, s.prx.chunk = some k ∧ k.handle = h

theorem emptyChunkOf_emptiesChunk (h : Nat) (s : State) : EmptiesChunkIff (HoldsChunkOf s h) s (emptyChunkOf h s) := by
  refine ⟨fun ⟨k, hk, hh⟩ => ?_, fun hno => ?_⟩
  · rw [emptyChunkOf_own hk hh]
    exact SameChunk.refl _
  · rw [emptyChunkOf_other fun k hk hh => hno ⟨k, hk, hh⟩]
    exact SameChunk.refl _

theorem endRepair_emptiesChunk {h : Nat} {s : State} (hh : h < s.pdir.entries.length) (note : Option PageEvent) :
    EmptiesChunkIff (HoldsChunkOf s h) s (endRepair h note s) := by
  refine (emptyChunkOf_emptiesChunk h s).of_sameChunk (.refl s) ?_
  rw [endRepair_eq hh]
  exact ⟨rfl, (returnChains_spec _ _).1⟩

theorem releaseEntry_emptiesChunk (h : Nat) (cause : ReleaseCause) (s : State) :
    EmptiesChunkIff (HoldsChunkOf s h) s (releaseEntry h cause s) := by
  refine (emptyChunkOf_emptiesChunk h s).of_sameChunk (.refl s) ?_
  rw [(releaseEntry_eq h cause s).2]
  exact ⟨rfl, (returnChains_spec _ _).1⟩

/-! ## The retirement of one entry (R52 to R54) -/

/-- R54: the chunk in the chunk buffer is of an entry of the list that is under repair or not bound. -/
def RetirementsDropChunk (s : State) (l : List Nat) : Prop :=
  ∃ k, s.prx.chunk = some k ∧ k.handle ∈ l ∧ (contextOf s k.handle ≠ none ∨ (entry s k.handle).refs = 0)

theorem retirementsDropChunk_singleton {s : State} {g : Nat} : RetirementsDropChunk s [g] ↔
    HoldsChunkOf s g ∧ (contextOf s g ≠ none ∨ (entry s g).refs = 0) := by
  constructor
  · rintro ⟨k, hk, hmem, hdrop⟩
    obtain rfl := List.mem_singleton.1 hmem
    exact ⟨⟨k, hk, rfl⟩, hdrop⟩
  · rintro ⟨⟨k, hk, rfl⟩, hdrop⟩
    exact ⟨k, hk, List.mem_singleton.2 rfl, hdrop⟩

theorem HoldsChunkOf.congr {s t : State} (h : t.prx.chunk = s.prx.chunk) (g : Nat) :
    HoldsChunkOf t g ↔ HoldsChunkOf s g := by simp only [HoldsChunkOf, h]

theorem retiredEntry_emptiesChunk {by_ g : Nat} {s : State} (hg : g < s.pdir.entries.length) :
    EmptiesChunkIff (HoldsChunkOf s g ∧ contextOf s g ≠ none) s (retiredEntry by_ g s) := by
  refine EmptiesChunkIff.of_sameChunk (u := repairEndedFirst g none s) (.refl s) ?_ ⟨rfl, poolAside_refl _⟩
  unfold repairEndedFirst
  split
  · rename_i hnone
    exact ⟨fun ⟨_, hsome⟩ => absurd hnone hsome, fun _ => .refl s⟩
  · rename_i hsome
    exact (endRepair_emptiesChunk hg none).congr (and_iff_left hsome).symm

theorem retire_emptiesChunk {by_ g : Nat} {s : State} (hg : g < s.pdir.entries.length) (hne : g ≠ by_) :
    EmptiesChunkIff (RetirementsDropChunk s [g]) s (retire by_ g s) := by
  have hretired := retiredEntry_emptiesChunk (by_ := by_) hg
  rw [retire_eq hg hne]
  refine EmptiesChunkIff.congr
    (p := (HoldsChunkOf s g ∧ contextOf s g ≠ none) ∨ (HoldsChunkOf s g ∧ (entry s g).refs = 0)) ?_ ((retirementsDropChunk_singleton.trans and_or_left).symm)
  split
  · rename_i hfree
    refine (hretired.trans (releaseEntry_emptiesChunk g _ _)).congr ?_
    by_cases hdropped : HoldsChunkOf s g ∧ contextOf s g ≠ none
    · exact iff_of_true (.inl hdropped) (.inl hdropped)
    · rw [HoldsChunkOf.congr (hretired.2 hdropped).1, and_iff_left hfree]
  · rename_i hbound
    exact hretired.congr (or_iff_left fun ⟨_, hfree⟩ => hbound hfree).symm

theorem repairEndedFirst_changedAt {h : Nat} {s : State} (hh : h < s.pdir.entries.length) (note : Option PageEvent) :
    ChangedAt h s (repairEndedFirst h note s) := by
  unfold repairEndedFirst
  split
  · exact fun _ _ => rfl
  · exact endRepair_changedAt hh note

theorem retiredEntry_changedAt {by_ g : Nat} {s : State} (hg : g < s.pdir.entries.length) :
    ChangedAt g s (retiredEntry by_ g s) := by
  have hview : directoryView (retiredEntry by_ g s) = directoryView (setEntry g
      { entry (repairEndedFirst g none s) g with state := .superseded } (repairEndedFirst g none s)) := rfl
  exact ((repairEndedFirst_changedAt hg none).trans (setEntry_changedAt g _ _)).trans (changedAt_of_view_eq hview g)

theorem retire_changedAt {by_ g : Nat} {s : State} (hg : g < s.pdir.entries.length) (hne : g ≠ by_) :
    ChangedAt g s (retire by_ g s) := by
  rw [retire_eq hg hne]
  split
  · exact (retiredEntry_changedAt hg).trans (releaseEntry_changedAt g _ _)
  · exact retiredEntry_changedAt hg

theorem entry_releaseEntry_self (h : Nat) (cause : ReleaseCause) (s : State) :
    entry (releaseEntry h cause s) h = Entry.empty := by
  rw [(releaseEntry_eq h cause s).2]
  by_cases hh : h < s.pdir.entries.length
  · exact (entry_of_entries (s := s) rfl hh).trans (if_pos rfl)
  · refine entry_default ?_
    simpa using hh

/-- R54: a retired entry that is not bound is EMPTY. -/
theorem entry_retire_free {by_ g : Nat} {s : State} (hg : g < s.pdir.entries.length) (hne : g ≠ by_)
    (hfree : (entry s g).refs = 0) : entry (retire by_ g s) g = Entry.empty := by
  rw [retire_eq hg hne, if_pos hfree, entry_releaseEntry_self]

/-- R53: a retired entry that is bound, and not under repair, is SUPERSEDED and otherwise as it was. -/
theorem entry_retire_bound {by_ g : Nat} {s : State} (hg : g < s.pdir.entries.length) (hne : g ≠ by_)
    (hbound : (entry s g).refs ≠ 0) (hnone : contextOf s g = none) :
    entry (retire by_ g s) g = { entry s g with state := .superseded } := by
  have hfirst : repairEndedFirst g none s = s := if_pos hnone
  rw [retire_eq hg hne, if_neg hbound]
  simp only [retiredEntry, hfirst]
  exact (entry_of_entries (s := s) rfl hg).trans (if_pos rfl)

theorem ChangedAt.contextOf_eq_none {h g : Nat} {s t : State} (hst : ChangedAt h s t) (hg : g ≠ h) :
    contextOf t g = none ↔ contextOf s g = none := by
  have hservants : servants t.prx.contexts g = servants s.prx.contexts g := congrArg HandleView.servants (hst g hg)
  rw [Machine.contextOf_eq_none, Machine.contextOf_eq_none, hservants]

/-! ## Retirements one after another (R52 to R54) -/

/-- The entries of a list retired in its order by the close of `by_`. -/
def retireAll (by_ : Nat) (l : List Nat) (s : State) : State := l.foldl (fun t g => retire by_ g t) s

/-- What the retirement of a list of entries leaves. -/
structure RetiresAll (l : List Nat) (s u : State) : Prop where
  others : ∀ g, g ∉ l → entry u g = entry s g
  free : ∀ g, g ∈ l → (entry s g).refs = 0 → entry u g = Entry.empty
  bound : ∀ g, g ∈ l → (entry s g).refs ≠ 0 → contextOf s g = none → entry u g = { entry s g with state := .superseded }
  chunk : EmptiesChunkIff (RetirementsDropChunk s l) s u

/-- A chunk that the first retirement leaves is dropped by the later ones when it would be dropped from the start. -/
theorem retirementsDropChunk_cons {g : Nat} {l : List Nat} {s t : State} (hst : ChangedAt g s t) (hgl : g ∉ l)
    (hchunk : ¬RetirementsDropChunk s [g] → t.prx.chunk = s.prx.chunk) :
    RetirementsDropChunk s [g] ∨ RetirementsDropChunk t l ↔ RetirementsDropChunk s (g :: l) := by
  have hlater {k : Nat} (hk : k ∈ l) : (contextOf t k ≠ none ∨ (entry t k).refs = 0) ↔
      (contextOf s k ≠ none ∨ (entry s k).refs = 0) := by
    have hkg : k ≠ g := fun h => hgl (h ▸ hk)
    rw [ne_eq, ne_eq, hst.contextOf_eq_none hkg, hst.entry hkg]
  by_cases hfirst : RetirementsDropChunk s [g]
  · obtain ⟨k, hk, hmem, hdrop⟩ := hfirst
    exact iff_of_true (.inl ⟨k, hk, hmem, hdrop⟩) ⟨k, hk, List.mem_cons.2 (.inl (List.mem_singleton.1 hmem)), hdrop⟩
  · rw [or_iff_right hfirst]
    constructor
    · rintro ⟨k, hk, hmem, hdrop⟩
      exact ⟨k, hchunk hfirst ▸ hk, List.mem_cons_of_mem _ hmem, (hlater hmem).1 hdrop⟩
    · rintro ⟨k, hk, hmem, hdrop⟩
      rcases List.mem_cons.1 hmem with hkg | hmem
      · exact absurd ⟨k, hk, List.mem_singleton.2 hkg, hdrop⟩ hfirst
      · exact ⟨k, (hchunk hfirst).trans hk, hmem, (hlater hmem).2 hdrop⟩

theorem retireAll_retires {by_ : Nat} : ∀ {l : List Nat} {s : State}, l.Nodup →
    (∀ g ∈ l, g < s.pdir.entries.length ∧ g ≠ by_) → RetiresAll l s (retireAll by_ l s)
  | [], s, _, _ => ⟨fun _ _ => rfl, by simp, by simp, ⟨by rintro ⟨k, -, hmem, -⟩; simp at hmem, fun _ => .refl s⟩⟩
  | g :: l, s, hnodup, hl => by
    obtain ⟨hgl, hnodup⟩ := List.nodup_cons.1 hnodup
    obtain ⟨hg, hne⟩ := hl g List.mem_cons_self
    have hchanged := retire_changedAt hg hne
    have hempties := retire_emptiesChunk hg hne
    have hlater {k : Nat} (hk : k ∈ l) : k ≠ g := fun h => hgl (h ▸ hk)
    have ih := retireAll_retires (by_ := by_) (s := retire by_ g s) hnodup fun k hk => by
      simpa using hl k (List.mem_cons_of_mem _ hk)
    refine ⟨fun k hk => ?_, fun k hk hfree => ?_, fun k hk hbound hnone => ?_, ?_⟩
    · exact (ih.others k (List.not_mem_of_not_mem_cons hk)).trans (hchanged.entry (List.ne_of_not_mem_cons hk))
    · rcases List.mem_cons.1 hk with rfl | hk
      · exact (ih.others k hgl).trans (entry_retire_free hg hne hfree)
      · exact ih.free k hk (by rwa [hchanged.entry (hlater hk)])
    · rcases List.mem_cons.1 hk with rfl | hk
      · exact (ih.others k hgl).trans (entry_retire_bound hg hne hbound hnone)
      · have hentry := hchanged.entry (hlater hk)
        have hnone' := (hchanged.contextOf_eq_none (hlater hk)).2 hnone
        exact (ih.bound k hk (by rwa [hentry]) hnone').trans (by rw [hentry])
    · exact (hempties.trans ih.chunk).congr (retirementsDropChunk_cons hchanged hgl fun hno => (hempties.2 hno).1)

end Sys2Proof.Machine

/-! The end of a reception where other versions of its key are held (R51 to R54): the newer version supersedes the closing
entry, or the closing entry retires the older ones. -/

namespace Sys2Proof.Machine

/-! ## The entries that a close retires (R52) -/

/-- R52: another closed version of the key of an entry. -/
def Rival (s : State) (h g : Nat) : Prop :=
  g ≠ h ∧ (entry s g).key = (entry s h).key ∧ ((entry s g).state = .complete ∨ (entry s g).state = .damaged)

/-- R51: another version of the key of an entry, with a higher version number, that is open or closed. -/
def NewerVersionHeld (s : State) (h : Nat) : Prop :=
  ∃ g, g ≠ h ∧ (entry s g).key = (entry s h).key ∧ (entry s h).version < (entry s g).version ∧
    ((entry s g).state = .receiving ∨ (entry s g).state = .complete ∨ (entry s g).state = .damaged)

theorem Rival.lt_length {s : State} {h g : Nat} (hg : Rival s h g) : g < s.pdir.entries.length :=
  handle_lt_of_closed (Entry.closed_iff.2 hg.2.2)

theorem Rival.congr {s t : State} {h g : Nat} (hh : (entry t h).key = (entry s h).key)
    (hg : g ≠ h → entry t g = entry s g) : Rival t h g ↔ Rival s h g :=
  and_congr_right fun hne => by rw [hh, hg hne]

theorem retireIfOlder_of_rival {s : State} {h g : Nat} (hg : Rival s h g) : retireIfOlder h s g = retire h g s :=
  if_pos ⟨hg.1, Entry.closed_iff.2 hg.2.2, hg.2.1⟩

theorem retireIfOlder_of_not_rival {s : State} {h g : Nat} (hg : ¬Rival s h g) : retireIfOlder h s g = s :=
  if_neg fun ⟨hne, hclosed, hkey⟩ => hg ⟨hne, hkey, Entry.closed_iff.1 hclosed⟩

theorem foldl_retireIfOlder {h : Nat} (r : Nat → Bool) : ∀ {l : List Nat} {s : State}, l.Nodup →
    (∀ g ∈ l, r g = true ↔ Rival s h g) → l.foldl (retireIfOlder h) s = retireAll h (l.filter r) s
  | [], _, _, _ => rfl
  | g :: l, s, hnodup, hr => by
    obtain ⟨hgl, hnodup⟩ := List.nodup_cons.1 hnodup
    have hlater {k : Nat} (hk : k ∈ l) : k ≠ g := fun h => hgl (h ▸ hk)
    rw [List.foldl_cons]
    by_cases hg : Rival s h g
    · have hchanged := retire_changedAt hg.lt_length hg.1
      have hrival {k : Nat} (hk : k ∈ l) : Rival (retire h g s) h k ↔ Rival s h k :=
        Rival.congr (by rw [hchanged.entry hg.1.symm]) fun _ => hchanged.entry (hlater hk)
      rw [retireIfOlder_of_rival hg, List.filter_cons_of_pos ((hr g List.mem_cons_self).2 hg)]
      exact foldl_retireIfOlder r hnodup fun k hk => (hr k (List.mem_cons_of_mem _ hk)).trans (hrival hk).symm
    · rw [retireIfOlder_of_not_rival hg, List.filter_cons_of_neg (mt (hr g List.mem_cons_self).1 hg)]
      exact foldl_retireIfOlder r hnodup fun k hk => hr k (List.mem_cons_of_mem _ hk)

/-- R52, R53: the close of an entry retires its rivals in handle order. -/
theorem supersede_eq {s : State} {h : Nat} {rivals : List Nat} (hsorted : rivals.Pairwise (· < ·))
    (hrivals : ∀ g, g ∈ rivals ↔ Rival s h g) : supersede h s = retireAll h rivals s := by
  have hfilter : (List.range s.pdir.entries.length).filter (fun g => decide (g ∈ rivals)) = rivals := by
    refine List.Pairwise.eq_of_mem_iff (List.pairwise_lt_range.filter _) hsorted fun g => ?_
    simp only [List.mem_filter, List.mem_range, decide_eq_true_eq, and_iff_right_iff_imp]
    exact fun hg => ((hrivals g).1 hg).lt_length
  rw [supersede, foldl_retireIfOlder (fun g => decide (g ∈ rivals)) List.nodup_range
    fun g _ => (decide_eq_true_iff).trans (hrivals g), hfilter]

/-- The rivals of an entry in handle order. -/
theorem exists_rivals (s : State) (h : Nat) :
    ∃ rivals : List Nat, rivals.Pairwise (· < ·) ∧ ∀ g, g ∈ rivals ↔ Rival s h g := by
  classical
  refine ⟨(List.range s.pdir.entries.length).filter (fun g => decide (Rival s h g)), List.pairwise_lt_range.filter _,
    fun g => ?_⟩
  simp only [List.mem_filter, List.mem_range, decide_eq_true_eq, and_iff_right_iff_imp]
  exact Rival.lt_length

theorem supersede_retires {s : State} {h : Nat} {rivals : List Nat} (hsorted : rivals.Pairwise (· < ·))
    (hrivals : ∀ g, g ∈ rivals ↔ Rival s h g) : RetiresAll rivals s (supersede h s) := by
  rw [supersede_eq hsorted hrivals]
  refine retireAll_retires (hsorted.imp Nat.ne_of_lt) fun g hg => ?_
  have hrival := (hrivals g).1 hg
  exact ⟨hrival.lt_length, hrival.1⟩

theorem newerHeld_iff_newerVersionHeld (s : State) (h : Nat) : newerHeld s h = true ↔ NewerVersionHeld s h := by
  rw [newerHeld_iff]
  have hcurrent (g : Nat) : (entry s g).current = true ↔
      (entry s g).state = .receiving ∨ (entry s g).state = .complete ∨ (entry s g).state = .damaged := by
    simp [Entry.current, or_assoc]
  constructor
  · rintro ⟨g, -, hne, hcur, hkey, hversion⟩
    exact ⟨g, hne, hkey, hversion, (hcurrent g).1 hcur⟩
  · rintro ⟨g, hne, hkey, hversion, hstate⟩
    refine ⟨g, ?_, hne, (hcurrent g).2 hstate, hkey, hversion⟩
    by_contra hge
    simp [entry_default (Nat.le_of_not_lt hge), Entry.empty] at hstate

/-! ## The end of a reception with other versions held (R35, R39, R51 to R54) -/

/-- A state of the part as a reception ends: LP as given, and the TIMEOUT mark of the closing entry. -/
def endingState (s : State) (h : Nat) (timeout : Bool) (l : Lp) : State :=
  setEntry h { entry s h with timeout := timeout } { s with lp := l }

/-- The state in which the reception of an entry has ended, with its note queued, before any release or retirement. -/
def receptionEnded (s : State) (h : Nat) (ev : PageEvent) (l : Lp) (d : Entry) : State :=
  { s with
    psc := s.psc.returnChains (entry s h).openChains
    pdir := { s.pdir with entries := s.pdir.entries.set h d }
    prx := { s.prx with contexts := freedContexts s h }
    lp := l.queueReport (d.noteOf ev h) }

/-- R46, R54: the close drops the chunk in the chunk buffer: of the closing entry when it is released, and otherwise of
an entry that it retires. -/
def CloseDropsChunk (s : State) (h : Nat) : Prop :=
  ∃ k, s.prx.chunk = some k ∧ ((NewerVersionHeld s h ∧ k.handle = h) ∨
    (¬NewerVersionHeld s h ∧ Rival s h k.handle ∧ (contextOf s k.handle ≠ none ∨ (entry s k.handle).refs = 0)))

section
variable {s : State} {h : Nat} (hh : h < s.pdir.entries.length) (ev : PageEvent) (timeout : Bool) (l : Lp)
include hh

theorem entry_endingState (g : Nat) : entry (endingState s h timeout l) g =
    if g = h then { entry s h with timeout := timeout } else entry s g := entry_set hh

theorem newerVersionHeld_endingState : NewerVersionHeld (endingState s h timeout l) h ↔ NewerVersionHeld s h := by
  refine exists_congr fun g => and_congr_right fun hg => ?_
  rw [entry_endingState hh, entry_endingState hh, if_neg hg, if_pos rfl]

/-- R51: the state of a closing entry, and the steps after its note. -/
theorem closeReception_endingState :
    let e := Entry.ended { entry s h with timeout := timeout }
    let t := endingState s h timeout l
    (NewerVersionHeld s h → closedState (missBands h t) h false = .superseded ∧
      closeReception ev false h t =
        releaseEntry h .superseded (receptionEnded s h ev l { e with state := .superseded })) ∧
    (¬NewerVersionHeld s h → closedState (missBands h t) h false = e.state ∧
      closeReception ev false h t = supersede h (receptionEnded s h ev l e)) := by
  intro e t
  have hself : entry t h = { entry s h with timeout := timeout } :=
    (entry_endingState hh timeout l h).trans (if_pos rfl)
  have hlength : h < t.pdir.entries.length := by simpa [t, endingState, setEntry] using hh
  obtain ⟨hstate, -, hclose⟩ := closeReception_spec ev false h t hlength
  have hnewer : newerHeld t h = true ↔ NewerVersionHeld s h :=
    (newerHeld_iff_newerVersionHeld t h).trans (newerVersionHeld_endingState hh timeout l)
  have hended (st : EntryState) : ({ t with
      psc := t.psc.returnChains (entry t h).openChains
      pdir := { t.pdir with entries := t.pdir.entries.set h ((entry t h).endedAs st) }
      prx := { t.prx with contexts := freedContexts t h }
      lp := t.lp.queueReport (((entry t h).endedAs st).noteOf ev h) } : State) =
        receptionEnded s h ev l { e with state := st } := by
    rw [hself]
    simp only [t, endingState, setEntry, List.set_set]
    rfl
  set st := if false = true ∨ newerHeld t h = true then EntryState.superseded else (entry t h).ended.state with hst
  refine ⟨fun hheld => ?_, fun hheld => ?_⟩
  · rw [show st = .superseded from if_pos (.inr (hnewer.2 hheld))] at hstate hclose
    exact ⟨hstate, hclose.trans ((if_pos rfl).trans (congrArg _ (hended _)))⟩
  · have hst' : st = e.state := by rw [hst, if_neg (by simpa using mt hnewer.1 hheld), hself]
    have hne : e.state ≠ .superseded := by
      rcases (Entry.ended_state { entry s h with timeout := timeout }) with hs | hs <;> simp [e, hs]
    rw [hst'] at hstate hclose
    exact ⟨hstate, hclose.trans ((if_neg hne).trans (congrArg _ (hended _)))⟩

theorem notGood_endingState : (entry (missBands h (endingState s h timeout l)) h).notGood.length =
    (entry s h).ended.damaged := by
  have hself := (entry_endingState hh timeout l h).trans (if_pos rfl)
  obtain ⟨-, hdamaged, -⟩ := closeReception_spec .closed false h (endingState s h timeout l)
    (by simpa [endingState, setEntry] using hh)
  rw [hdamaged, hself]
  rfl

variable (d : Entry)

theorem entry_receptionEnded (g : Nat) : entry (receptionEnded s h ev l d) g = if g = h then d else entry s g :=
  entry_of_entries rfl hh

omit hh in
theorem receptionEnded_sameChunk : SameChunk s (receptionEnded s h ev l d) := ⟨rfl, (returnChains_spec _ _).1⟩

theorem receptionEnded_changedAt : ChangedAt h s (receptionEnded s h ev l d) :=
  changedAt_of_parts (fun g hg => (entry_receptionEnded hh ev l d g).trans (if_neg hg))
    (fun _ hg => servants_freedContexts_other hg) fun _ _ => rfl

theorem rival_receptionEnded (hkey : d.key = (entry s h).key) (g : Nat) :
    Rival (receptionEnded s h ev l d) h g ↔ Rival s h g :=
  Rival.congr (by rw [entry_receptionEnded hh, if_pos rfl, hkey]) (receptionEnded_changedAt hh ev l d).entry

/-- The chunk that a close drops, with no newer version held. -/
theorem retirementsDropChunk_receptionEnded (hnewer : ¬NewerVersionHeld s h) {rivals : List Nat}
    (hrivals : ∀ g, g ∈ rivals ↔ Rival s h g) :
    RetirementsDropChunk (receptionEnded s h ev l d) rivals ↔ CloseDropsChunk s h := by
  have hchanged := receptionEnded_changedAt hh ev l d
  refine exists_congr fun k => and_congr_right fun _ => ?_
  rw [hrivals, or_iff_right (a := NewerVersionHeld s h ∧ _) fun ⟨hheld, _⟩ => hnewer hheld, and_iff_right hnewer]
  refine and_congr_right fun hrival => ?_
  rw [ne_eq, ne_eq, hchanged.contextOf_eq_none hrival.1, hchanged.entry hrival.1]

/-- R46, R54: what the end of a reception does to the chunk buffer and, the pool apart, to PSC. -/
theorem closeReception_emptiesChunk :
    EmptiesChunkIff (CloseDropsChunk s h) s (closeReception ev false h (endingState s h timeout l)) := by
  obtain ⟨hsuperseded, holdest⟩ := closeReception_endingState hh ev timeout l
  by_cases hnewer : NewerVersionHeld s h
  · rw [(hsuperseded hnewer).2]
    refine ((releaseEntry_emptiesChunk h _ _).of_sameChunk (receptionEnded_sameChunk ev l _) (.refl _)).congr ?_
    simp only [CloseDropsChunk, hnewer, true_and, not_true, false_and, or_false]
    rfl
  · obtain ⟨rivals, hsorted, hrivals⟩ := exists_rivals s h
    rw [(holdest hnewer).2]
    have hretires := supersede_retires hsorted fun g => (hrivals g).trans
      (rival_receptionEnded hh ev l (Entry.ended { entry s h with timeout := timeout }) rfl g).symm
    exact (hretires.chunk.of_sameChunk (receptionEnded_sameChunk ev l _) (.refl _)).congr
      (retirementsDropChunk_receptionEnded hh ev l _ hnewer hrivals)

/-- R51: the entries behind a close that a newer version supersedes. -/
theorem entry_closeReception_newer (hnewer : NewerVersionHeld s h) (g : Nat) :
    entry (closeReception ev false h (endingState s h timeout l)) g = if g = h then Entry.empty else entry s g := by
  obtain ⟨hsuperseded, -⟩ := closeReception_endingState hh ev timeout l
  rw [(hsuperseded hnewer).2]
  split
  · rename_i hg
    rw [hg, entry_releaseEntry_self]
  · rename_i hg
    exact ((releaseEntry_changedAt h _ _).entry hg).trans ((receptionEnded_changedAt hh ev l _).entry hg)

/-- R52 to R54: the entries behind a close that retires older versions. -/
theorem entry_closeReception_oldest (hnewer : ¬NewerVersionHeld s h) :
    let u := closeReception ev false h (endingState s h timeout l)
    entry u h = Entry.ended { entry s h with timeout := timeout } ∧
      (∀ g, Rival s h g → (entry s g).refs = 0 → entry u g = Entry.empty) ∧
      (∀ g, Rival s h g → (entry s g).refs ≠ 0 → contextOf s g = none →
        entry u g = { entry s g with state := .superseded }) ∧
      ∀ g, g ≠ h → ¬Rival s h g → entry u g = entry s g := by
  intro u
  obtain ⟨-, holdest⟩ := closeReception_endingState hh ev timeout l
  obtain ⟨rivals, hsorted, hrivals⟩ := exists_rivals s h
  set e := Entry.ended { entry s h with timeout := timeout }
  have hchanged := receptionEnded_changedAt hh ev l e
  have hretires : RetiresAll rivals (receptionEnded s h ev l e) u := by
    rw [show u = _ from (holdest hnewer).2]
    exact supersede_retires hsorted fun g => (hrivals g).trans (rival_receptionEnded hh ev l e rfl g).symm
  refine ⟨?_, fun g hg hfree => ?_, fun g hg hbound hnone => ?_, fun g hg hrival => ?_⟩
  · rw [hretires.others h fun hmem => ((hrivals h).1 hmem).1 rfl, entry_receptionEnded hh, if_pos rfl]
  · exact hretires.free g ((hrivals g).2 hg) (by rwa [hchanged.entry hg.1])
  · have hentry := hchanged.entry hg.1
    rw [hretires.bound g ((hrivals g).2 hg) (by rwa [hentry]) ((hchanged.contextOf_eq_none hg.1).2 hnone), hentry]
  · exact (hretires.others g (mt (hrivals g).1 hrival)).trans (hchanged.entry hg)

theorem closeReception_changes_state (hstate : (entry s h).state = .receiving) :
    (entry (closeReception ev false h (endingState s h timeout l)) h).state ≠ (entry s h).state := by
  rw [hstate]
  by_cases hnewer : NewerVersionHeld s h
  · rw [entry_closeReception_newer hh ev timeout l hnewer, if_pos rfl]
    simp [Entry.empty]
  · rw [(entry_closeReception_oldest hh ev timeout l hnewer).1]
    rcases Entry.ended_state { entry s h with timeout := timeout } with hs | hs <;> simp [hs]

end

/-- What the end of a reception leaves alone. -/
theorem closeReception_frame (s : State) (h : Nat) (ev : PageEvent) (timeout : Bool) (l : Lp) :
    let u := closeReception ev false h (endingState s h timeout l)
    u.pdir.counter = s.pdir.counter ∧ { u.prx with contexts := s.prx.contexts, chunk := s.prx.chunk } = s.prx ∧
      { u.lp with reports := l.reports, reportsLost := l.reportsLost } = l ∧
      { u with lp := l, prx := s.prx, pdir := s.pdir, psc := s.psc } = { s with lp := l } := by
  simp [endingState, setEntry]

/-- R129: a schedule test follows an event that changes the state of an entry. -/
theorem testIfEntriesChanged_of_state_ne {s u : State} {h : Nat} (hne : (entry u h).state ≠ (entry s h).state) :
    testIfEntriesChanged s u = scheduleTest u := by
  refine if_neg fun hsame => hne ?_
  have hstates (t : State) : (entry t h).state = ((t.pdir.entries.map Entry.state)[h]?).getD .empty := by
    rw [entry, List.getD_eq_getElem?_getD, List.getElem?_map]
    cases t.pdir.entries[h]? <;> rfl
  rw [hstates, ← hsame, ← hstates]

/-- Settles O18. -/
theorem closeAppliesSupersession : Obligations.CloseAppliesSupersession := by
  intro s h hh hstate rival newer dropsChunk ends
  have hends (ev : PageEvent) (timeout : Bool) (l : Lp) : ends ev (Entry.ended { entry s h with timeout := timeout })
      { s with lp := l } (closeReception ev false h (endingState s h timeout l)) := by
    obtain ⟨hsuperseded, holdest⟩ := closeReception_endingState hh ev timeout l
    obtain ⟨hdrops, hkeeps⟩ := closeReception_emptiesChunk hh ev timeout l
    refine ⟨fun hnewer => ⟨(hsuperseded hnewer).2, ?_, fun g hg => ?_⟩, fun hnewer => ⟨fun rivals hsorted hrivals => ?_,
      entry_closeReception_oldest hh ev timeout l hnewer⟩, hdrops, hkeeps, closeReception_frame s h ev timeout l⟩
    · exact (entry_closeReception_newer hh ev timeout l hnewer h).trans (if_pos rfl)
    · exact (entry_closeReception_newer hh ev timeout l hnewer g).trans (if_neg hg)
    · rw [(holdest hnewer).2]
      exact supersede_eq hsorted fun g => (hrivals g).trans
        (rival_receptionEnded hh ev l (Entry.ended { entry s h with timeout := timeout }) rfl g).symm
  refine ⟨fun f rest htakes hkind hready hp hmax => ?_, fun i c hreset hc hrunning hhandle => ?_⟩
  · have hexec : exec .pageClose s = .next (runPageClose f (taken s rest)) := serve_ready htakes hkind hready _
    have hsame : endingState s h (entry s h).timeout (taken s rest).lp = taken s rest := set_entry (taken s rest) h
    have hreceiving : (entry (taken s rest) h).state = .receiving := hstate
    have hopen : closable (taken s rest) h = true := by simp [closable, hreceiving]
    obtain ⟨hsuperseded, holdest⟩ := closeReception_endingState hh .closed (entry s h).timeout (taken s rest).lp
    have hdamaged := notGood_endingState hh (entry s h).timeout (taken s rest).lp
    have hends' := hends .closed (entry s h).timeout (taken s rest).lp
    have hchanged := closeReception_changes_state hh .closed (entry s h).timeout (taken s rest).lp hstate
    rw [hsame] at hsuperseded holdest hdamaged hends' hchanged
    refine ⟨closeReception .closed false h (taken s rest), (closedState (missBands h (taken s rest)) h false).code,
      fun hnewer => by rw [(hsuperseded hnewer).1]; rfl, fun hnewer => by rw [(holdest hnewer).1], ?_, hends'⟩
    rw [hexec, runPageClose, hp, parseClose_u8 hmax]
    simp only [hopen, if_true, closeEntry, hreceiving, closeFields, hdamaged]
    exact congrArg Host.Outcome.next (testIfEntriesChanged_of_state_ne (s := taken s rest) hchanged)
  · refine ⟨_, ?_, hends .timedOut true s.lp⟩
    rw [exec_receptionTimeout hreset hc hrunning]
    subst hhandle
    have hreceiving : (entry (endingState s c.handle true s.lp) c.handle).state = .receiving := by
      rw [entry_endingState hh, if_pos rfl, hstate]
    refine congrArg Host.Outcome.next ?_
    rw [← testIfEntriesChanged_of_state_ne (closeReception_changes_state hh .timedOut true s.lp hstate)]
    exact congrArg (testIfEntriesChanged s) (if_pos hreceiving)

end Sys2Proof.Machine

/-! PAGE.DROP (R60 to R62): its checks in order, and the release of an unbound entry. -/

namespace Sys2Proof.Machine

theorem parseDrop_eq_none {p : List Byte} (h : ¬(p.length = 7 ∧ byteAt p 0 ≤ 63)) : parseDrop p = none := if_neg h

/-- R60 to R62: what the checks of PAGE.DROP lead to. -/
theorem runPageDrop_eq {f : Frame} {s : State} {h v : Nat} {k : PageKey} (hp : parseDrop f.payload = some (h, k, v)) :
    runPageDrop f s =
      if (entry s h).state = .empty ∨ (entry s h).key ≠ k ∨ (entry s h).version ≠ v then answer f 0x06 [] s
      else if (entry s h).refs ≠ 0 then answer f 0x02 (u8 (entry s h).state.code) s
      else testIfEntriesChanged s (answer f 0x00 (u8 h ++ u16 (releaseCount h s)) (releaseEntry h .dropped s)) := by
  rw [runPageDrop, hp]
  rfl

/-- Settles O20. -/
theorem pageDropReleasesTheEntry : Obligations.PageDropReleasesTheEntry := by
  have hexec {s : State} {f : Frame} {rest : List Frame} (htakes : takes s f rest) (hkind : ofKind 0x14 f)
      (hready : s.part = .ready) : exec .pageDrop s = .next (runPageDrop f (taken s rest)) :=
    serve_ready htakes hkind hready _
  refine ⟨fun s f rest htakes hkind hready hbad => ?_, fun s f rest h v k htakes hkind hready hp => ?_⟩
  · rw [hexec htakes hkind hready, runPageDrop, parseDrop_eq_none hbad]
    rfl
  intro e
  have hnamed (hheld : e.state ≠ .empty) (hkey : e.key = k) (hversion : e.version = v) :
      ¬(e.state = .empty ∨ e.key ≠ k ∨ e.version ≠ v) := by simp [*]
  rw [hexec htakes hkind hready, runPageDrop_eq hp]
  refine ⟨fun hwrong => ?_, fun hheld hkey hversion hbound => ?_, fun hheld hkey hversion hfree hlength => ?_⟩
  · exact congrArg Host.Outcome.next (if_pos hwrong)
  · exact congrArg Host.Outcome.next ((if_neg (hnamed hheld hkey hversion)).trans (if_pos hbound))
  · obtain ⟨haside, hcount⟩ := returnChains_spec e.chains s.psc
    refine ⟨hcount, haside, congrArg Host.Outcome.next ?_⟩
    have hchunk : ∀ c, (taken s rest).prx.chunk = some c → c.handle ≠ h := by simp [taken, htakes.2.1]
    obtain ⟨hblocks, hrelease⟩ := releaseEntry_spec h .dropped (taken s rest) hchunk
    refine ((if_neg (hnamed hheld hkey hversion)).trans (if_neg (not_not.2 hfree))).trans ?_
    rw [hblocks, hrelease, state_changed (s := taken s rest) (h := h) (e := Entry.empty) hlength rfl (Ne.symm hheld)]
    simp only [answer, taken, queueReport_taken, Lp.queueReport_replyFinished]
    rfl

end Sys2Proof.Machine

/-! PAGE.QUERY and SCREEN.QUERY (R63, R99): the checks, and the fields of the replies. -/

namespace Sys2Proof.Machine

/-! ## PAGE.QUERY (R63) -/

theorem parsePageQuery_eq_none {p : List Byte} (h : ¬(p.length = 3 ∧ byteAt p 0 ≤ 63)) : parsePageQuery p = none :=
  if_neg h

/-- R63: the count of band records in a PAGE.QUERY reply, and the records after it. -/
theorem listBytes_bandFields (s : State) (h first : Nat) (bands : List BandRecord) :
    listBytes (bandFields s h) ((bands.zipIdx.drop first).take 64) =
      u8 (min 64 (bands.length - first)) ++ ((bands.zipIdx.drop first).take 64).flatMap (bandFields s h) := by
  simp [listBytes]

/-- R63: what the three checks of PAGE.QUERY lead to. -/
theorem runPageQuery_eq {f : Frame} {s : State} {h first : Nat} (hp : parsePageQuery f.payload = some (h, first)) :
    runPageQuery f s =
      if (entry s h).state = .empty then answer f 0x00 (u8 h ++ u8 1) s
      else if (entry s h).bands.length ≤ first then answer f 0x05 [] s
      else answer f 0x00 (entryFields s h first) s := by
  rw [runPageQuery, hp]
  rfl

/-- R63: the reception held, as a pair of a code and a context's number. -/
theorem receptionFields_eq (s : State) (h : Nat) :
    let held : Nat × Nat := match contextOf s h with
      | none => (0, 0)
      | some i => ((match contextAt s i with
          | some c => match c.mode with | .reception => 1 | .repair => 2
          | none => 0), i)
    receptionFields s h = u8 held.1 ++ u8 held.2 := by
  unfold receptionFields
  cases contextOf s h with
  | none => rfl
  | some i =>
    dsimp only
    cases contextAt s i with
    | none => rfl
    | some c =>
      obtain ⟨_, mode, _, _⟩ := c
      cases mode <;> rfl

/-! ## SCREEN.QUERY (R99) -/

theorem parseScreenQuery_eq_none {p : List Byte} (h : ¬(p.length = 1 ∧ byteAt p 0 ≤ 7)) : parseScreenQuery p = none :=
  if_neg h

theorem parseScreenQuery_u8 {t : Nat} (ht : t ≤ 7) : parseScreenQuery (u8 t) = some t := by
  simp [parseScreenQuery, u8, byteAt]
  omega

/-- R99: the flag of the tile cache tag. -/
theorem tagNames_eq (s : State) (t : Nat) :
    tagNames s t = decide (s.sct.tag = some (t, (screenSet s t).generation)) := by
  rw [tagNames, Bool.eq_iff_iff]
  simp

/-- Settles O22. -/
theorem pageAndScreenQueriesAnswer : Obligations.PageAndScreenQueriesAnswer := by
  refine ⟨fun s f rest htakes hkind hready => ?_, fun s f rest htakes hkind hready => ?_⟩
  · have hexec : exec .pageQuery s = .next (runPageQuery f (taken s rest)) := serve_ready htakes hkind hready _
    rw [hexec]
    refine ⟨fun hbad => ?_, fun h first hh hfirst hp => ?_⟩
    · rw [runPageQuery, parsePageQuery_eq_none hbad]
      rfl
    · have hrun := runPageQuery_eq (s := taken s rest) ((parsePageQuery_iff _ _ _).2 ⟨hh, hfirst, hp⟩)
      intro e held
      rw [hrun]
      refine ⟨fun hempty => ?_, fun hheld hpast => ?_, fun hheld hwithin => ?_⟩
      · exact congrArg Host.Outcome.next (if_pos hempty)
      · exact congrArg Host.Outcome.next ((if_neg hheld).trans (if_pos hpast))
      · refine congrArg Host.Outcome.next (((if_neg hheld).trans (if_neg (Nat.not_le.2 hwithin))).trans ?_)
        have hreception : receptionFields (taken s rest) h = u8 held.1 ++ u8 held.2 :=
          receptionFields_eq (taken s rest) h
        rw [entryFields, hreception, listBytes_bandFields]
        simp only [List.append_assoc]
        rfl
  · have hexec : exec .screenQuery s = .next (runScreenQuery f (taken s rest)) := serve_ready htakes hkind hready _
    rw [hexec]
    refine ⟨fun hbad => ?_, fun t ht hp => ?_⟩
    · rw [runScreenQuery, parseScreenQuery_eq_none hbad]
      rfl
    · intro x
      rw [runScreenQuery, hp, parseScreenQuery_u8 ht]
      have hjobs : jobsNaming (taken s rest) t = (s.psch.queue.filter (fun j => j.setIndex == t)).length :=
        List.countP_eq_length_filter
      have htag : tagNames (taken s rest) t = decide (s.sct.tag = some (t, x.generation)) :=
        tagNames_eq (taken s rest) t
      simp only [setFields, hjobs, htag]
      rfl

end Sys2Proof.Machine

/-! The return of a chain to the free pool (R72), and the arbiter (R76 to R78, R81). -/

namespace Sys2Proof.Machine

/-! ## The return of a chain (R72) -/

/-- A block after the first of a linked list is none of those before it, so a block that rejoins the pool leaves the
rest of its chain linked as it was. -/
theorem linked_after_rejoin {p : Psc} {pool : List Nat} {b : Nat} {chain : List Nat} (hp : p.poolIs pool)
    (hnodup : (pool ++ b :: chain).Nodup) : (p.rejoin b).linked chain ↔ p.linked chain := by
  obtain ⟨-, htail, -⟩ := hp
  obtain ⟨-, hchain, hapart⟩ := List.nodup_append.1 hnodup
  refine linked_of_agree fun c hc => ?_
  have hcb : c ≠ b := fun h => (List.nodup_cons.1 hchain).1 (h ▸ hc)
  have hct : p.poolTail ≠ some c := fun h =>
    hapart c (List.mem_of_getLast? (htail.symm.trans h)) c (List.mem_cons_of_mem _ hc) rfl
  rw [rejoin_link, if_neg hcb, if_neg hct]

/-- R72: a block that is neither the one that rejoins the pool nor in the pool keeps its entry of the link table. -/
theorem rejoin_link_outside {p : Psc} {pool : List Nat} {b c : Nat} (hp : p.poolIs pool) (hb : c ≠ b) (hc : c ∉ pool) :
    (p.rejoin b).link c = p.link c := by
  obtain ⟨-, htail, -⟩ := hp
  rw [rejoin_link, if_neg hb, if_neg fun h => hc (List.mem_of_getLast? (htail.symm.trans h))]

/-- What the walk of a chain has done (R72). -/
structure Rejoined (p : Psc) (pool chain : List Nat) (q : Psc × Nat) : Prop where
  count : q.2 = chain.length
  inPool : q.1.poolIs (pool ++ chain)
  aside : q.1.poolAside p
  outside : ∀ b, b ∉ pool ++ chain → q.1.link b = p.link b

/-- R72: the walk, block by block: each rejoins the pool behind those before it. -/
theorem walk_rejoined : ∀ {chain : List Nat} {b f : Nat} {p : Psc} {pool : List Nat}, p.poolIs pool →
    p.linked (b :: chain) → (pool ++ b :: chain).Nodup → (b :: chain).length ≤ f →
    Rejoined p pool (b :: chain) (Psc.walk f b p)
  | chain, b, 0, _, _, _, _, _, hf => absurd hf (by simp)
  | chain, b, f + 1, p, pool, hp, hlinked, hnodup, hf => by
    have hb : b ∉ pool := fun h => (List.nodup_append.1 hnodup).2.2 b h b List.mem_cons_self rfl
    have hpool := rejoin_poolIs hp hb
    unfold Psc.walk
    cases chain with
    | nil =>
      rw [show p.link b = none from hlinked]
      refine ⟨rfl, hpool, rejoin_poolAside.2 (poolAside_refl p), fun c hc => ?_⟩
      simp only [List.mem_append, List.mem_singleton, not_or] at hc
      exact rejoin_link_outside hp hc.2 hc.1
    | cons n chain =>
      obtain ⟨hnext, hrest⟩ := hlinked
      rw [hnext]
      have ih := walk_rejoined (f := f) hpool ((linked_after_rejoin hp hnodup).2 hrest) (by simpa using hnodup)
        (Nat.le_of_succ_le_succ hf)
      refine ⟨congrArg (· + 1) ih.count, by simpa using ih.inPool,
        poolAside_trans ih.aside (rejoin_poolAside.2 (poolAside_refl p)), fun c hc => ?_⟩
      have hc' : c ∉ pool ++ [b] ++ n :: chain := by simpa using hc
      simp only [List.mem_append, List.mem_cons, not_or] at hc
      exact (ih.outside c hc').trans (rejoin_link_outside hp hc.2.1 hc.1)

/-- R72: the return of a linked chain. -/
theorem returnChain_rejoined {p : Psc} {pool chain : List Nat} (hp : p.poolIs pool) (hlinked : p.linked chain)
    (hnodup : (pool ++ chain).Nodup) (hlength : chain.length ≤ 65536) :
    Rejoined p pool chain (p.returnChain chain.head?) := by
  cases chain with
  | nil => exact ⟨rfl, by rwa [List.append_nil], poolAside_refl p, fun _ _ => rfl⟩
  | cons b chain => exact walk_rejoined hp hlinked hnodup hlength

/-- Settles O50: by induction on the chain, each block rejoins the pool behind those before it. -/
theorem chainRejoinsThePoolInOrder : Obligations.ChainRejoinsThePoolInOrder := by
  intro p pool chain hp hlinked hnodup hlength
  obtain ⟨hcount, hpool, haside, houtside⟩ := returnChain_rejoined hp hlinked hnodup hlength
  exact ⟨hcount, hpool, haside, houtside⟩

/-! ## The arbiter (R76 to R78, R81) -/

theorem request_idle {p : Psc} (h : p.inFlight = .idle) (op : Op) : p.request op = { p with inFlight := .busy op } := by
  simp only [Psc.request, h]

theorem request_waits {p : Psc} (h : p.inFlight ≠ .idle) (op : Op) :
    p.request op = { p with waiting := p.waiting ++ [op] } := by
  unfold Psc.request
  split
  · rename_i hidle
    exact absurd hidle h
  · rfl

theorem endOperation_idle {p : Psc} (h : p.waiting = []) : p.endOperation = { p with inFlight := .idle } := by
  simp only [Psc.endOperation, Psc.nextOwner, h, bestOf]

/-- R77: the next owner, the oldest of the highest-ranked class, begins, and the others wait on in their order. -/
theorem endOperation_next {p : Psc} {pre post : List Op} {op : Op} (h : p.waiting = pre ++ op :: post)
    (hpre : ∀ q ∈ pre, op.client.rank < q.client.rank) (hpost : ∀ q ∈ post, op.client.rank ≤ q.client.rank) :
    p.endOperation = { p with inFlight := .busy op, waiting := pre ++ post } := by
  have hnot : op ∉ pre := fun hmem => Nat.lt_irrefl _ (hpre op hmem)
  have herase : p.waiting.erase op = pre ++ post := by
    rw [h, List.erase_append_right _ hnot, List.erase_cons_head]
  simp only [Psc.endOperation, Psc.nextOwner, h, bestOf_split hpre hpost]
  rw [← h, herase]

theorem bne_eq_decide_ne (c : Client) : (fun o : Op => o.client != c) = fun o => decide (o.client ≠ c) := by
  funext o
  by_cases h : o.client = c <;> simp [h]

theorem dropped_own {p : Psc} {c : Client} {op : Op} (h : p.inFlight = .busy op) (hc : op.client = c) :
    p.dropped c = { p with
      waiting := p.waiting.filter (fun o => o.client ≠ c)
      inFlight := .busy { op with stale := true } } := by
  rw [dropped_eq, h, ← bne_eq_decide_ne]
  simp only [if_pos hc]

theorem dropped_other {p : Psc} {c : Client} (h : ∀ op, p.inFlight = .busy op → op.client ≠ c) :
    p.dropped c = { p with waiting := p.waiting.filter (fun o => o.client ≠ c) } := by
  rw [dropped_eq, ← bne_eq_decide_ne]
  cases hf : p.inFlight with
  | busy op => simp only [if_neg (h op hf)]
  | idle => rfl
  | ending => rfl

theorem refreshWaiting_iff (s : State) : refreshWaiting s = true ↔ ∃ p ∈ s.psc.waiting, p.client = .refresh := by
  simp [refreshWaiting]

/-- Settles O48: each operation of the arbiter by the lemma that says what it leaves. -/
theorem arbiterServesTheHighestClass : Obligations.ArbiterServesTheHighestClass := by
  refine ⟨fun p op => ⟨fun h => request_idle h op, fun q h => request_waits (by simp [h]) op,
      fun h => request_waits (by simp [h]) op⟩,
    fun p => ⟨endOperation_idle, fun pre op post => endOperation_next⟩,
    fun p c => ⟨fun op => dropped_own, dropped_other⟩, by decide, fun s stale h => ?_, fun s => ⟨fun h => ?_, fun n h hnone => ?_⟩⟩
  · simp only [exec, execRefreshOperationDone, h]
    rfl
  · simp only [exec, execRefreshDue, h]
  · have hwaiting : refreshWaiting s = false := by
      rw [← Bool.not_eq_true, refreshWaiting_iff]
      rintro ⟨p, hp, hc⟩
      exact hnone p hp hc
    simp only [exec, execRefreshDue, h, hwaiting]
    rfl

end Sys2Proof.Machine

/-! A merged refresh (R65, R66, R82). -/

namespace Sys2Proof.Machine

/-! ## A merged refresh (R65, R82) -/

theorem Entry.marked_of_none_good {e : Entry} (h : e.goodBands = 0) : e.marked = e := by
  have hbands : e.bands.map BandRecord.spoiled = e.bands := by
    refine (List.map_congr_left fun r hr => ?_).trans (List.map_id _)
    have hgood : ¬ r.state = .good := by simpa using List.countP_eq_zero.1 h r hr
    exact if_neg hgood
  unfold Entry.marked
  rw [h, if_neg fun hc => hc.2 rfl]
  exact congrArg (fun l : List BandRecord => { e with bands := l }) hbands

/-- R65: an entry after a merged refresh. -/
def Entry.afterMerge (e : Entry) : Entry :=
  if e.state = .empty then e else if e.refs ≠ 0 then { e with storeSuspect := true } else e.marked

/-- R65: a merged refresh has a note for the entry. -/
def storeNoted (s : State) (h : Nat) : Bool :=
  (entry s h).state != .empty && (entry s h).refs == 0 && (entry s h).goodBands != 0

/-- R65: PDIR queues the entry's STORE_DAMAGED note. -/
def queueStoreNote (s : State) (l : Lp) (h : Nat) : Lp :=
  l.queueReport ((entry s h).marked.noteOf (.storeDamaged (entry s h).goodBands) h)

theorem damageEntry_eq {h : Nat} {s : State} (hh : h < s.pdir.entries.length) :
    damageEntry s h = { s with
      pdir := { s.pdir with entries := s.pdir.entries.set h (entry s h).afterMerge }
      lp := if storeNoted s h then queueStoreNote s s.lp h else s.lp } := by
  have hself : s.pdir.entries.set h (entry s h) = s.pdir.entries := by simp [entry, hh]
  unfold damageEntry Entry.afterMerge storeNoted queueStoreNote
  by_cases hempty : (entry s h).state = .empty
  · simp [hempty, hself]
  · by_cases hrefs : (entry s h).refs = 0
    · rw [markStore_eq hh]
      by_cases hgood : (entry s h).goodBands = 0
      · simp [hempty, hrefs, hgood, Entry.marked_of_none_good hgood, hself]
      · simp [hempty, hrefs, hgood]
    · simp [hempty, hrefs, setEntry]

/-- The state once PDIR has marked the first n entries of a merged refresh. -/
def damagedTo (s : State) (n : Nat) : State := { s with
  pdir := { s.pdir with entries := (s.pdir.entries.take n).map Entry.afterMerge ++ s.pdir.entries.drop n }
  lp := ((List.range n).filter (storeNoted s)).foldl (queueStoreNote s) s.lp }

theorem set_map_take_append_drop {α : Type} (f : α → α) {l : List α} {n : Nat} (hn : n < l.length) :
    ((l.take n).map f ++ l.drop n).set n (f l[n]) = (l.take (n + 1)).map f ++ l.drop (n + 1) := by
  have hlength : ((l.take n).map f).length = n := by simp; omega
  rw [List.set_append, if_neg (by omega), hlength, Nat.sub_self, List.drop_eq_getElem_cons hn, List.set_cons_zero,
    List.take_succ_eq_append_getElem hn, List.map_append, List.append_assoc]
  rfl

theorem entry_damagedTo {s : State} {n : Nat} (hn : n < s.pdir.entries.length) : entry (damagedTo s n) n = entry s n := by
  have hlength : ((s.pdir.entries.take n).map Entry.afterMerge).length = n := by simp; omega
  simp only [entry, damagedTo, List.getD_eq_getElem?_getD]
  rw [List.getElem?_append_right (by omega), hlength, Nat.sub_self, List.getElem?_drop, Nat.add_zero]

theorem damageEntry_damagedTo {s : State} {n : Nat} (hn : n < s.pdir.entries.length) :
    damageEntry (damagedTo s n) n = damagedTo s (n + 1) := by
  have hentry : entry s n = s.pdir.entries[n] := by simp [entry, hn]
  have hnoted : storeNoted (damagedTo s n) n = storeNoted s n := by simp only [storeNoted, entry_damagedTo hn]
  have hnote (l : Lp) : queueStoreNote (damagedTo s n) l n = queueStoreNote s l n := by
    simp only [queueStoreNote, entry_damagedTo hn]
  rw [damageEntry_eq (by simp [damagedTo]; omega), entry_damagedTo hn, hnoted, hnote, hentry]
  simp only [damagedTo, set_map_take_append_drop Entry.afterMerge hn]
  rw [List.range_succ, List.filter_append, List.foldl_append]
  by_cases hwith : storeNoted s n = true <;> simp [hwith]

/-- R65: a merged refresh marks the entries in handle order. -/
theorem damageStore_eq (s : State) : damageStore s = damagedTo s s.pdir.entries.length := by
  have hprefix : ∀ n ≤ s.pdir.entries.length, (List.range n).foldl damageEntry s = damagedTo s n := by
    intro n
    induction n with
    | zero => intro _; simp [damagedTo]
    | succ n ih =>
      intro hn
      rw [List.range_succ, List.foldl_append, ih (by omega)]
      exact damageEntry_damagedTo hn
  exact hprefix _ (Nat.le_refl _)

/-- Settles O49: the branch of the interval, and what a merged refresh makes of the entries. -/
theorem mergedRefreshDamagesTheStore : Obligations.MergedRefreshDamagesTheStore := by
  intro s n hinterval hwaiting
  have hbusy : refreshWaiting s = true := (refreshWaiting_iff s).2 hwaiting
  have hdue : exec .refreshDue s = if n < 13 then .next (mergeRefresh s) else .next s := by
    simp only [exec, execRefreshDue, hinterval, hbusy, if_true]
  refine ⟨fun hn => by rw [hdue, if_neg (by omega)], fun hn => ?_⟩
  have hmerged := damageStore_eq (spoilStore { s with psc := { s.psc with refreshMerged := true } })
  simp only [damagedTo, spoilStore, List.take_length, List.drop_length, List.append_nil] at hmerged
  rw [hdue, if_pos hn, mergeRefresh, testIfEntriesChanged, spoilStore, hmerged]
  rfl

end Sys2Proof.Machine

/-! What is to be shown of a law of the store, the block links and the directory, so that every command keeps it: the law
holds after the few operations that move blocks, entries or contexts, and all other parts of a command leave alone
what it reads (R26, R67 to R74). -/

namespace Sys2Proof.Machine

/-! ## What the store's laws read -/

/-- What the laws of the store, of the block links and of the directory read of the state. -/
structure StoreView where
  part : PartState
  directory : DirectoryView
  dram : List Host.Cell
  freeIndex : Nat
  storeMiB : Option Nat
  poolSize : Nat
  links : List (Nat × Nat)
  poolHead : Option Nat
  poolTail : Option Nat
  freeCount : Nat

def storeView (s : State) : StoreView where
  part := s.part
  directory := directoryView s
  dram := s.dram
  freeIndex := s.freeIndex
  storeMiB := s.psc.storeMiB
  poolSize := s.psc.poolSize
  links := s.psc.links
  poolHead := s.psc.poolHead
  poolTail := s.psc.poolTail
  freeCount := s.psc.freeCount

/-- A law of what the store view shows, kept by each operation that moves blocks, entries or contexts. Commands are taken
with the chunk buffer empty (R11, R29), a page is bound while its entry is closed (R131), and a context times out
while its timer runs (R39). -/
structure StoreLaw (P : State → Prop) : Prop where
  congr : ∀ {s t : State}, storeView t = storeView s → P s → P t
  bind : ∀ {s : State} {h : Nat}, P s → (entry s h).closed = true → P (bindEntry s h)
  unbind : ∀ {s : State} (h : Nat), P s → P (unbindEntry s h)
  burst : ∀ {s : State} (stale : Bool), P s → P (prxBurstDone stale s)
  opened : ∀ {s t : State} {x : ParcelHeader} {h : Nat}, P s → s.prx.chunk = none →
    createEntry x (closeOlder (olderReception s x.key) s) = some (h, t) → P t
  band : ∀ {s : State} (f : Frame), P s → s.prx.chunk = none → P (runPageBand f s)
  closed : ∀ {s : State} {h : Nat}, P s → s.prx.chunk = none → closable s h = true → P (closeEntry .closed h s)
  expired : ∀ {s : State} {i : Nat} {c : Context}, P s → s.prx.contexts[i]? = some (some c) → c.running = true →
    P (closeEntry .timedOut c.handle (setEntry c.handle { entry s c.handle with timeout := true } s))
  dropped : ∀ {s : State} {h : Nat}, P s → (entry s h).state ≠ .empty → P (releaseEntry h .dropped s)
  configured : ∀ {s : State} (f : Frame), P s → P (runConfigure f s)
  restarted : ∀ {s : State}, P s → s.part = .ready → P (restartPart s)

/-- A binding leaves closed entries closed. -/
theorem bindEntry_closed {s : State} {g h : Nat} (hh : (entry s h).closed = true) (hg : (entry s g).closed = true) :
    (entry (bindEntry s h) g).closed = true := by
  have hlt := handle_lt_of_closed hh
  rw [bindEntry_eq hlt]
  by_cases hgh : g = h
  · have hstate : (entry (repairEndedFirst h (some .repairEnded) s) h).state = (entry s h).state := by
      unfold repairEndedFirst
      split
      · rfl
      · rw [entry_of_entries (endRepair_entries hlt _) hlt, if_pos rfl]
        rfl
    rw [hgh, entry_setEntry_self (by rwa [length_repairEndedFirst]), Entry.closed_iff, hstate]
    exact Entry.closed_iff.1 hh
  · rwa [entry_setEntry_other hgh, (entry_repairEndedFirst hlt).2 g hgh]

theorem holds_ite {P : State → Prop} {s t : State} {p : Prop} [Decidable p] (hs : P s) (ht : P t) :
    P (if p then s else t) := by
  split
  · exact hs
  · exact ht

/-! ## The schedule (R129 to R135) -/

section
variable {P : State → Prop} (hP : StoreLaw P)
include hP

theorem StoreLaw.answer {s : State} (hs : P s) (f : Frame) (code : Byte) (fields : List Byte) :
    P (answer f code fields s) := hP.congr (s := s) rfl hs

theorem StoreLaw.endArmedJob {s : State} (hs : P s) (r : JobResult) (f : Option FitFault) : P (endArmedJob r f s) := by
  have hunbind (j : Job) {t : State} (ht : P t) : P (unbindJob j t) :=
    List.foldlRecOn _ _ ht fun _ hu h _ => hP.unbind h hu
  have harchive (j : Job) (l : List Defect) {t : State} (ht : P t) : P (archiveJob j l t) :=
    hP.congr (by simp [storeView, directoryView]) ht
  unfold Machine.endArmedJob
  dsimp only
  split
  · exact hs
  · split
    · exact harchive _ _ (hunbind _ (hP.congr (by simp [storeView, directoryView]) hs))
    · exact harchive _ _ (hunbind _ (hP.congr (by simp [storeView, directoryView]) hs))

theorem StoreLaw.bindEntries {l : List Nat} {s : State} (hs : P s) (hl : ∀ h ∈ l, (entry s h).closed = true) :
    P (l.foldl bindEntry s) := by
  induction l generalizing s with
  | nil => exact hs
  | cons h l ih =>
    have hh := hl h (List.mem_cons_self ..)
    exact ih (hP.bind hs hh) fun g hg => bindEntry_closed hh (hl g (List.mem_cons_of_mem _ hg))

theorem StoreLaw.bindJob {s : State} (hs : P s) {j : Job} (hall : ∀ t ∈ j.slots, (resolve s t.key).isSome = true) :
    P (bindJob j s) := by
  refine hP.congr (s := (j.slots.map (fun t => (resolvedPage s t).1)).dedup.foldl bindEntry s)
    (by simp [Machine.bindJob, storeView, directoryView]) (hP.bindEntries hs fun h hh => ?_)
  obtain ⟨t, ht, rfl⟩ := List.mem_map.1 (List.mem_dedup.1 hh)
  obtain ⟨h, hh⟩ := Option.isSome_iff_exists.1 (hall t ht)
  simp only [resolvedPage, hh, Option.getD_some]
  exact resolve_closed hh

theorem StoreLaw.scheduleFrom (n : Nat) : ∀ {s : State}, P s → P (scheduleFrom n s) := by
  induction n with
  | zero => exact fun hs => hs
  | succ n ih =>
    intro s hs
    unfold Machine.scheduleFrom
    split
    · exact hs
    · split
      · exact hs
      · rename_i j hj
        have harmed : P (beginArming j s) := hP.congr (by simp [storeView, directoryView]) hs
        split
        · exact ih (hP.endArmedJob harmed _ _)
        · refine hP.congr (s := Machine.bindJob j (beginArming j s)) (by simp [storeView, directoryView])
            (hP.bindJob harmed fun t ht => ?_)
          have hresolve : resolve (beginArming j s) t.key = resolve s t.key := by simp [resolve]
          rw [hresolve]
          exact eligible_resolves (List.find?_some hj) t ht

theorem StoreLaw.scheduleTest {s : State} (hs : P s) : P (scheduleTest s) := hP.scheduleFrom _ hs

theorem StoreLaw.testIfEntriesChanged {s : State} (hs : P s) (before : State) : P (testIfEntriesChanged before s) :=
  holds_ite hs (hP.scheduleTest hs)

theorem StoreLaw.endArmed {s : State} (hs : P s) (r : JobResult) (f : Option FitFault) : P (endArmed r f s) := by
  unfold Machine.endArmed
  split
  · exact hs
  · exact hP.scheduleTest (hP.endArmedJob hs r f)

theorem StoreLaw.endImaging {s : State} (hs : P s) (r : JobResult) : P (endImaging r s) := by
  unfold Machine.endImaging
  split
  · exact hs
  · exact hP.endArmed hs r none

/-! ## The judgement of a fill (R97) -/

theorem StoreLaw.judgeFill {s : State} (hs : P s) (f : Fill) : P (judgeFill f s) := by
  have hdone (x : Sct) : P { s with sct := x } := hP.congr (s := s) rfl hs
  have hstart {t : State} (ht : P t) : P (startImaging t) := hP.congr (by simp [storeView, directoryView]) ht
  unfold Machine.judgeFill
  dsimp only
  split
  · exact hstart (hdone _)
  · exact hP.endArmed (hdone _) _ _

theorem StoreLaw.fillDone {s : State} (hs : P s) (stale : Bool) (bs : List Byte) : P (fillDone stale bs s) := by
  have hpump {t : State} (ht : P t) : P (fillPump t) := hP.congr (by simp [storeView, directoryView]) ht
  have htaken (f : Fill) : P (takeFill f bs s) := hP.congr (s := s) rfl hs
  unfold Machine.fillDone
  dsimp only
  split
  · exact hpump hs
  · split
    · exact hs
    · split
      · exact htaken _
      · split
        · exact hP.judgeFill (htaken _) _
        · exact hpump (htaken _)

/-! ## Head return records (R161 to R171) -/

theorem StoreLaw.finishTest {s : State} (hs : P s) (code : Byte) (fields : List Byte) : P (finishTest code fields s) := by
  unfold Machine.finishTest
  split
  · exact hs
  · refine hP.scheduleTest ?_
    exact hP.congr (s := s) rfl hs

theorem StoreLaw.checkHead {s : State} (hs : P s) (r : HeadRecord) : P (checkHead r s) := by
  unfold Machine.checkHead
  split
  · exact hP.endImaging hs _
  · exact hs

theorem StoreLaw.takeHeadState {s : State} (hs : P s) (r : HeadRecord) : P (takeHeadState r s) := by
  unfold Machine.takeHeadState
  dsimp only
  split
  · exact hs
  · refine hP.scheduleTest (hP.congr (s := s) ?_ hs)
    (repeat' split) <;> rfl

theorem StoreLaw.takeRecord {s : State} (hs : P s) (r : HeadRecord) : P (takeRecord r s) := by
  have htaken : P { s with imp := { s.imp with recordTaken := true } } := hP.congr (s := s) rfl hs
  have hstate := hP.takeHeadState (hP.checkHead htaken r) r
  unfold Machine.takeRecord
  dsimp only
  split
  · exact hP.finishTest hstate _ _
  · exact hP.congr (by simp [storeView, directoryView]) hstate

/-! ## The index and the slot clock (R148, R150, R172 to R174) -/

theorem StoreLaw.decideEnd {s : State} (hs : P s) (r : JobResult) : P (decideEnd r s) := by
  refine hP.endImaging ?_ r
  exact hP.congr (s := s) rfl hs

theorem StoreLaw.decideDwell {s : State} (hs : P s) : P (decideDwell s) := by
  have himp (x : Imp) : P { s with imp := x } := hP.congr (s := s) rfl hs
  unfold Machine.decideDwell
  dsimp only
  split
  · split
    · exact himp _
    · exact hP.decideEnd (himp _) _
  · exact himp _

theorem StoreLaw.decideImaging {s : State} (hs : P s) (j : Job) : P (decideImaging j s) := by
  have hexpose {t : State} (ht : storeView t = storeView s) : P (beginExpose t) := by
    refine hP.congr (Eq.trans ?_ ht) hs
    unfold beginExpose
    simp [storeView, directoryView]
  unfold Machine.decideImaging
  dsimp only
  split
  · exact hP.congr (s := s) rfl hs
  · split
    · exact hP.decideEnd hs _
    · exact holds_ite (hP.decideEnd hs _)
        (holds_ite (hexpose rfl) (holds_ite (hexpose rfl) (hP.decideDwell hs)))

theorem StoreLaw.abandonIfFourth {s : State} (hs : P s) : P (abandonIfFourth s) := by
  unfold Machine.abandonIfFourth
  split
  · exact holds_ite (hP.finishTest hs _ _) hs
  · exact hs

theorem StoreLaw.indexEvent {s : State} (hs : P s) : P (indexEvent s) := by
  have hclosed : P (hmonIndex (closeRevolution s)) := hP.congr (s := s) (by simp [storeView, directoryView]) hs
  refine hP.abandonIfFourth ?_
  unfold decideRevolution
  split
  · exact hP.decideImaging hclosed _
  · refine hP.congr ?_ hclosed
    unfold decideIdle
    split <;> rfl

theorem StoreLaw.reportClockLoss {s : State} (hs : P s) (clock : ClockName) : P (reportClockLoss clock s) := by
  unfold Machine.reportClockLoss
  split
  · exact hs
  · exact hP.congr (s := Machine.endImaging .clockLost s) rfl (hP.endImaging hs _)

theorem StoreLaw.hmonSlot {s : State} (hs : P s) : P (hmonSlot s) := by
  have hcounted : P { s with hmon := { s.hmon with slotCount := countSlot s.hmon.slotCount } } :=
    hP.congr (s := s) rfl hs
  have hmarked := hP.congr (t := markOverdue { s with hmon := { s.hmon with slotCount := countSlot s.hmon.slotCount } })
    (by simp [storeView, directoryView]) hcounted
  have hlost {t : State} (ht : P t) : P (markLost t) := by
    refine hP.reportClockLoss ?_ _
    exact hP.congr (s := t) rfl ht
  exact holds_ite hs (holds_ite (hlost (holds_ite hmarked hcounted))
    (holds_ite hmarked hcounted))

theorem StoreLaw.slotEvent {s : State} (hs : P s) : P (slotEvent s) :=
  hP.hmonSlot (hP.congr (by simp [storeView, directoryView]) hs)

/-! ## Bytes of the link (R4 to R8) -/

theorem StoreLaw.acceptFrame {s : State} (hs : P s) (f : Frame) : P (acceptFrame f s) := by
  have hvalid : P { s with lp := s.lp.validFrame f } := hP.congr (s := s) rfl hs
  exact holds_ite (hP.scheduleTest hvalid) hvalid

theorem StoreLaw.receiveByte {s : State} (hs : P s) (b : Byte) : P (receiveByte b s) := by
  have hlp (l : Lp) : P { s with lp := l } := hP.congr (s := s) rfl hs
  unfold Machine.receiveByte
  dsimp only
  split
  · exact holds_ite (hlp _) hs
  · refine holds_ite (hlp _) (holds_ite ?_ (hlp _))
    exact holds_ite (hP.acceptFrame hs _) (hlp _)

end

end Sys2Proof.Machine


/-! Every command keeps a law of the store: the commands of the link, the events, and the step's one command. -/

namespace Sys2Proof.Machine

/-! ## Commands of the link -/

/-- A command that its owner runs with the chunk buffer empty, which is when commands are taken (R11, R29). -/
def KeepsLaw (P : State → Prop) (run : Frame → State → State) : Prop :=
  ∀ f s, s.prx.chunk = none → P s → P (run f s)

/-- An outcome whose state, where it has one, meets the law. -/
def leadsTo (P : State → Prop) (o : Host.Outcome State Fault Refusal) : Prop := ∀ t, o = .next t → P t

theorem leadsTo_next {P : State → Prop} {s : State} (hs : P s) : leadsTo P (.next s) := fun _ ht =>
  Host.Outcome.next.inj ht ▸ hs

section
variable {P : State → Prop} (hP : StoreLaw P)
include hP

theorem StoreLaw.serve {p : Frame → Bool} {run : Frame → State → State} (hrun : KeepsLaw P run) {s : State} (hs : P s) :
    leadsTo P (serve p run s) := by
  intro t ht
  rcases serve_cases ht with rfl | ⟨f, rest, htakes, -, rfl⟩
  · exact hs
  · obtain ⟨-, hchunk, -⟩ := htakes
    exact hrun f _ hchunk (hP.congr (s := s) rfl hs)

theorem StoreLaw.whenReady {run : Frame → State → State} (hrun : KeepsLaw P run) : KeepsLaw P (whenReady run) := by
  intro f s hchunk hs
  unfold Machine.whenReady
  split
  · exact hP.answer hs ..
  · exact hrun f s hchunk hs

/-- A command that leaves alone what the laws read. -/
theorem StoreLaw.keeps_of_view {run : Frame → State → State} (hrun : ∀ f s, storeView (run f s) = storeView s) :
    KeepsLaw P run := fun f s _ hs => hP.congr (hrun f s) hs

theorem StoreLaw.runPageOpen : KeepsLaw P runPageOpen := by
  intro f s hchunk hs
  unfold Machine.runPageOpen
  split
  · exact hP.answer hs ..
  · split
    · exact hP.answer hs ..
    · split
      · exact hP.answer hs ..
      · dsimp only
        split
        · split
          · rename_i hcreate
            exact hP.scheduleTest (hP.answer (hP.opened hs hchunk hcreate) ..)
          · exact hP.answer hs ..
        · exact hP.answer hs ..

theorem StoreLaw.runPageClose : KeepsLaw P runPageClose := by
  intro f s hchunk hs
  unfold Machine.runPageClose
  split
  · exact hP.answer hs ..
  · split
    · rename_i hclosable
      exact hP.testIfEntriesChanged (hP.answer (hP.closed hs hchunk hclosable) ..) _
    · exact hP.answer hs ..

theorem StoreLaw.runPageDrop : KeepsLaw P runPageDrop := by
  intro f s _ hs
  unfold Machine.runPageDrop
  split
  · exact hP.answer hs ..
  · dsimp only
    split
    · exact hP.answer hs ..
    · rename_i hnamed
      obtain ⟨hempty, -⟩ := not_or.1 hnamed
      exact holds_ite (hP.answer hs ..) (hP.testIfEntriesChanged (hP.answer (hP.dropped hs hempty) ..) s)

theorem StoreLaw.runScreenBegin : KeepsLaw P runScreenBegin := by
  intro f s _ hs
  unfold Machine.runScreenBegin
  split
  · exact hP.answer hs ..
  · refine holds_ite (hP.answer hs ..) (holds_ite (hP.scheduleTest ?_) (hP.answer hs ..))
    exact hP.congr (s := s) rfl hs

theorem StoreLaw.runScreenEnd : KeepsLaw P runScreenEnd := by
  intro f s _ hs
  unfold Machine.runScreenEnd
  split
  · exact hP.answer hs ..
  · refine holds_ite (hP.answer hs ..) (hP.scheduleTest ?_)
    exact hP.congr (s := s) rfl hs

theorem StoreLaw.runPlateQueue : KeepsLaw P runPlateQueue := by
  intro f s _ hs
  unfold Machine.runPlateQueue
  split
  · exact hP.answer hs ..
  · (repeat' refine holds_ite (hP.answer hs ..) ?_)
    refine hP.scheduleTest ?_
    exact hP.congr (s := s) rfl hs

theorem StoreLaw.cancelJob {s : State} (hs : P s) (j : Job) : P (cancelJob j s) := by
  have hqueued : P (cancelQueued j s) := hP.scheduleTest (hP.congr (by simp [storeView, directoryView]) hs)
  unfold Machine.cancelJob
  cases j.state with
  | imaging => exact hP.congr (s := s) rfl hs
  | arming => exact hP.endArmed hs ..
  | queued | finished | failed | cancelled => exact hqueued

theorem StoreLaw.runPlateCancel : KeepsLaw P runPlateCancel := by
  intro f s _ hs
  unfold Machine.runPlateCancel
  split
  · exact hP.answer hs ..
  · exact hP.cancelJob (hP.answer hs ..) _

theorem StoreLaw.runRestart : KeepsLaw P runRestart := by
  intro f s _ hs
  unfold Machine.runRestart
  split
  · split
    · exact hP.answer hs ..
    · rename_i hready
      exact hP.answer (hP.restarted hs hready) ..
  · exact hP.answer hs ..

/-! ## Completions of the store's operations (R77) -/

omit hP in
theorem storeView_endOperation (s : State) : storeView (endOperation s) = storeView s := by
  simp [storeView, directoryView]

theorem StoreLaw.completion {client : State → State} (hclient : ∀ s, P s → P (client s)) (o : EndOrder) {s : State}
    (hs : P s) : P (completion o client s) := by
  cases o with
  | endFirst => exact hclient _ (hP.congr (storeView_endOperation s) hs)
  | askFirst =>
    refine hP.congr (storeView_endOperation _) (hclient _ ?_)
    exact hP.congr (s := s) rfl hs

theorem StoreLaw.client_of_view {client : State → State} (hclient : ∀ s, storeView (client s) = storeView s) (s : State)
    (hs : P s) : P (client s) := hP.congr (hclient s) hs

theorem StoreLaw.prxCompletion (stale : Bool) (s : State) (hs : P s) : P (prxCompletion stale s) :=
  hP.testIfEntriesChanged (hP.burst stale hs) s

theorem StoreLaw.finishRead {client : List Byte → State → State} (hclient : ∀ bs s, P s → P (client bs s)) (o : EndOrder)
    (addr len : Nat) {s : State} (hs : P s) : leadsTo P (finishRead o addr len client s) :=
  leadsTo_next (hP.completion (hclient _) o hs)

theorem StoreLaw.finishWrite {client : State → State} (hclient : ∀ s, P s → P (client s)) (o : EndOrder) (addr : Nat)
    (bs : List Byte) {s : State} (hs : P (writeBytes addr bs s)) : leadsTo P (finishWrite o addr bs client s) :=
  leadsTo_next (hP.completion hclient o hs)

end

/-- The completion of a write burst (R29, R90, R111). -/
def endsWriteBurst (c : Instr) : Prop :=
  ∃ o, c = .linkWriteBurstDone o ∨ c = .tileWriteBurstDone o ∨ c = .ruWriteBurstDone o

/-! ## Every command -/

/-- Every command keeps a law of the store, where its own effect on the stored bytes keeps it: a hardware reset, a write
burst's end and a merged refresh. -/
theorem StoreLaw.exec_keeps {P : State → Prop} (hP : StoreLaw P) {s : State} (hs : P s) (c : Instr)
    (hreset : c = .hardwareReset → P (heldInReset s)) (hwrite : endsWriteBurst c → ∀ a bs, P (writeBytes a bs s))
    (hmerge : c = .refreshDue → P (damageStore (spoilStore { s with psc := { s.psc with refreshMerged := true } }))) :
    leadsTo P (exec c s) := by
  have hview {run : Frame → State → State} (h : ∀ f s, storeView (run f s) = storeView s) (p : Frame → Bool) :
      leadsTo P (Machine.serve p run s) := hP.serve (hP.keeps_of_view h) hs
  have hkept {t : State} (h : storeView t = storeView s) : leadsTo P (.next t) := leadsTo_next (hP.congr h hs)
  have hif {p : Prop} [Decidable p] {a b : Host.Outcome State Fault Refusal} (ha : leadsTo P a) (hb : leadsTo P b) :
      leadsTo P (if p then a else b) := by
    split
    · exact ha
    · exact hb
  cases c with
  | hardwareReset => exact leadsTo_next (hreset rfl)
  | resetRelease => exact hkept rfl
  | tagZero => exact hview (run := fun f t => Machine.answer f rBadField [] t) (fun _ _ => rfl) _
  | unknownKind => exact hview (run := fun f t => Machine.answer f rUnknownKind [] t) (fun _ _ => rfl) _
  | status => exact hview (fun f s => by simp [storeView, directoryView]) _
  | configure => exact hP.serve (fun f _ _ ht => hP.configured f ht) hs
  | restart => exact hP.serve hP.runRestart hs
  | pageOpen => exact hP.serve (hP.whenReady hP.runPageOpen) hs
  | pageBand => exact hP.serve (hP.whenReady fun f _ hchunk ht => hP.band f ht hchunk) hs
  | pageClose => exact hP.serve (hP.whenReady hP.runPageClose) hs
  | pageDrop => exact hP.serve (hP.whenReady hP.runPageDrop) hs
  | screenBegin => exact hP.serve (hP.whenReady hP.runScreenBegin) hs
  | screenEnd => exact hP.serve (hP.whenReady hP.runScreenEnd) hs
  | plateQueue => exact hP.serve (hP.whenReady hP.runPlateQueue) hs
  | plateCancel => exact hP.serve (hP.whenReady hP.runPlateCancel) hs
  | pageQuery | screenTile | screenQuery | plateQuery | plateList | channelClear | monitorTest =>
    exact hP.serve (hP.whenReady (hP.keeps_of_view fun f s => by simp [storeView, directoryView])) hs
  | headSetup => exact hview (fun f s => by simp [storeView, directoryView]) _
  | frameReceived b => exact hif (leadsTo_next hs) (leadsTo_next (hP.receiveByte hs b))
  | byteReceived b => exact hif (leadsTo_next hs) (leadsTo_next (hP.receiveByte hs b))
  | frameTimerExpiry =>
    simp only [exec, execFrameTimerExpiry]
    split
    · exact leadsTo_next hs
    · exact hif (leadsTo_next hs) (hkept rfl)
  | watchdogExpiry => exact hif (leadsTo_next hs) (hkept rfl)
  | beginTransmission =>
    simp only [exec, execBeginTransmission]
    (repeat' split) <;> exact hkept rfl
  | frameSent => exact hif (leadsTo_next hs) (hkept rfl)
  | linkWriteBurstDone o =>
    simp only [exec, execLinkWriteBurstDone]
    split
    · exact hP.finishWrite (hP.prxCompletion _) o _ _ (hwrite ⟨o, .inl rfl⟩ _ _)
    · exact leadsTo_next hs
  | tileWriteBurstDone o =>
    simp only [exec, execTileWriteBurstDone]
    split
    · exact hP.finishWrite (hP.client_of_view fun t => by simp [storeView, directoryView]) o _ _
        (hwrite ⟨o, .inr (.inl rfl)⟩ _ _)
    · exact leadsTo_next hs
  | ruWriteBurstDone o =>
    simp only [exec, execRuWriteBurstDone]
    split
    · exact hP.finishWrite (hP.client_of_view fun t => by simp [storeView, directoryView]) o _ _
        (hwrite ⟨o, .inr (.inr rfl)⟩ _ _)
    · exact leadsTo_next hs
  | fillBurstDone o =>
    simp only [exec, execFillBurstDone]
    split
    · exact hP.finishRead (fun bs t ht => hP.fillDone ht _ bs) o _ _ hs
    · exact leadsTo_next hs
  | ruReadBurstDone o =>
    simp only [exec, execRuReadBurstDone]
    split
    · exact hP.finishRead (fun bs => hP.client_of_view fun t => by simp [storeView, directoryView]) o _ _ hs
    · exact leadsTo_next hs
  | fetchArrival o =>
    simp only [exec, execFetchArrival]
    split
    · exact hP.finishRead (fun bs => hP.client_of_view fun t => by simp [storeView, directoryView]) o _ _ hs
    · exact leadsTo_next hs
  | receptionTimeout ctx =>
    refine hif (leadsTo_next hs) ?_
    split
    · rename_i c hc
      split
      · rename_i hrunning
        exact leadsTo_next (hP.testIfEntriesChanged (hP.expired hs (contextAt_eq_some.1 hc) hrunning) s)
      · exact leadsTo_next hs
    · exact leadsTo_next hs
  | refreshDue =>
    simp only [exec, execRefreshDue]
    split
    · exact leadsTo_next hs
    · exact hif (hif (leadsTo_next (hP.testIfEntriesChanged (hmerge rfl) s)) (leadsTo_next hs))
        (hkept (by simp [storeView, directoryView]))
  | refreshOperationDone =>
    simp only [exec, execRefreshOperationDone]
    split
    · exact hkept (storeView_endOperation s)
    · exact leadsTo_next hs
  | slotClk => exact hif (leadsTo_next hs) (leadsTo_next (hP.slotEvent hs))
  | indexOverdue => exact hif (leadsTo_next (hP.slotEvent hs)) (leadsTo_next hs)
  | indexLost => exact hif (leadsTo_next (hP.slotEvent hs)) (leadsTo_next hs)
  | drumIndex => exact hif (leadsTo_next hs) (leadsTo_next (hP.indexEvent hs))
  | monitorTestAbandon => exact hif (leadsTo_next (hP.indexEvent hs)) (leadsTo_next hs)
  | clockLossExpiry => exact hif (leadsTo_next hs) (leadsTo_next (hP.finishTest (hP.reportClockLoss hs _) _ _))
  | headReturnRecord r => exact hif (leadsTo_next hs) (leadsTo_next (hP.takeRecord hs r))

end Sys2Proof.Machine


/-! The stored bytes: which commands write them, and that every command completes (R67, R75, R78). -/

namespace Sys2Proof.Machine

/-! ## What the parts of a command do to the stored bytes -/

/-- The store holds the bytes of a store, and draws its unassured bytes where that does. -/
def sameBytes (s t : State) : Prop := t.dram = s.dram ∧ t.freeIndex = s.freeIndex

theorem sameBytes.readByte {s t : State} (h : sameBytes s t) (a : Nat) : readByte t a = readByte s a := by
  obtain ⟨hdram, hindex⟩ := h
  exact readByte_congr hdram hindex a

theorem sameBytes_closeOlder {s t : State} (h : sameBytes s t) (older : Option Nat) : sameBytes s (closeOlder older t) := by
  unfold closeOlder
  split
  · simpa [sameBytes] using h
  · exact h

/-- No operation that moves blocks, entries or contexts moves a stored byte (R67, R72). -/
theorem storeLaw_sameBytes (s : State) : StoreLaw (sameBytes s) where
  congr hv h := by
    simp only [storeView, StoreView.mk.injEq] at hv
    obtain ⟨-, -, hdram, hindex, -⟩ := hv
    exact h.imp hdram.trans hindex.trans
  bind h _ := by simpa [sameBytes] using h
  unbind _ h := by simpa [sameBytes] using h
  burst _ h := by simpa [sameBytes] using h
  opened h _ hcreate := by
    simpa only [sameBytes, createEntry_keeps hcreate] using sameBytes_closeOlder h _
  band _ h _ := by simpa [sameBytes] using h
  closed h _ _ := by simpa [sameBytes] using h
  expired h _ _ := by simpa [sameBytes] using h
  dropped h _ := by simpa [sameBytes] using h
  configured _ h := by simpa [sameBytes] using h
  restarted h _ := by simpa [sameBytes] using h

/-- R75: the end of a write burst stores its bytes and no others, whoever's it is. -/
theorem completion_stores {client : State → State} (hclient : ∀ r s, sameBytes r s → sameBytes r (client s))
    (o : EndOrder) (a : Nat) (bs : List Byte) (s : State) :
    let t := completion o client (writeBytes a bs s)
    (∀ i b, bs[i]? = some b → readByte t (a + i) = b) ∧
      ∀ addr, addr < a ∨ a + bs.length ≤ addr → readByte t addr = readByte s addr := by
  have hbytes := (storeLaw_sameBytes (writeBytes a bs s)).completion (hclient _) o ⟨rfl, rfl⟩
  exact ⟨fun i b hi => (hbytes.readByte _).trans (readByte_inside hi),
    fun addr haddr => (hbytes.readByte _).trans (readByte_outside haddr)⟩

/-! ## Every command completes -/

theorem serve_completes (p : Frame → Bool) (run : Frame → State → State) (s : State) : ∃ t, serve p run s = .next t := by
  unfold serve
  split
  · exact ⟨_, rfl⟩
  · exact ⟨_, rfl⟩

/-- R75: no command of the machine fails or is refused. -/
theorem exec_completes (c : Instr) (s : State) : ∃ t, exec c s = .next t := by
  cases c with
  | hardwareReset | resetRelease => exact ⟨_, rfl⟩
  | tagZero | unknownKind | status | configure | restart | pageOpen | pageBand | pageClose | pageQuery | pageDrop |
    screenBegin | screenTile | screenEnd | screenQuery | plateQueue | plateCancel | plateQuery | plateList | headSetup |
    channelClear | monitorTest => exact serve_completes ..
  | frameReceived | byteReceived | frameTimerExpiry | watchdogExpiry | beginTransmission | frameSent |
    linkWriteBurstDone | receptionTimeout | tileWriteBurstDone | fillBurstDone | ruReadBurstDone | ruWriteBurstDone |
    refreshDue | refreshOperationDone | slotClk | fetchArrival | indexOverdue | indexLost | drumIndex |
    monitorTestAbandon | clockLossExpiry | headReturnRecord =>
    simp only [exec, execFrameReceived, execByteReceived, execFrameTimerExpiry, execWatchdogExpiry, execBeginTransmission,
      execFrameSent, execLinkWriteBurstDone, execReceptionTimeout, execTileWriteBurstDone, execFillBurstDone,
      execRuReadBurstDone, execRuWriteBurstDone, execRefreshDue, execRefreshOperationDone, execSlotClk, execFetchArrival,
      execIndexOverdue, execIndexLost, execDrumIndex, execMonitorTestAbandon, execClockLossExpiry, execHeadReturnRecord,
      finishWrite, finishRead]
    (repeat' split) <;> exact ⟨_, rfl⟩

/-- Settles O47: a write burst's end by the law that its client keeps, and any other command by the same law. -/
theorem burstsMoveTheirBytes : Obligations.BurstsMoveTheirBytes := by
  refine ⟨fun s o a bs stale p hp hflight => ?_, exec_completes, fun c s t hexec hreset hrefresh hwrite => ?_⟩
  · rcases List.mem_cons.1 hp with rfl | hp
    · refine ⟨_, by simp only [exec, execLinkWriteBurstDone, hflight]; rfl,
        completion_stores (fun r t => (storeLaw_sameBytes r).prxCompletion stale t) o a bs s⟩
    · rcases List.mem_cons.1 hp with rfl | hp
      · exact ⟨_, by simp only [exec, execTileWriteBurstDone, hflight]; rfl,
          completion_stores (fun r t ht => by simpa [sameBytes] using ht) o a bs s⟩
      · obtain rfl := List.mem_singleton.1 hp
        exact ⟨_, by simp only [exec, execRuWriteBurstDone, hflight]; rfl,
          completion_stores (fun r t ht => by simpa [sameBytes] using ht) o a bs s⟩
  · have hkept : sameBytes s t := (storeLaw_sameBytes s).exec_keeps ⟨rfl, rfl⟩ c (fun h => absurd h hreset)
      (fun h => ?_) (fun h => absurd h hrefresh) t hexec
    · exact ⟨hkept.1, hkept.readByte⟩
    · obtain ⟨o, h⟩ := h
      obtain ⟨hlink, htile, hru⟩ := hwrite o
      exact (h.elim hlink fun h => h.elim htile hru).elim

end Sys2Proof.Machine


/-! What no command but its own rule's changes (R83, R92, R146, R165, R192, R193). -/

namespace Sys2Proof.Machine

/-! ## What the rules give to certain commands alone -/

/-- The parts of the state that change only at the commands whose rules say so. -/
structure RuleView where
  pending : List Instr
  part : PartState
  head : Nat × Nat × Swath × Nat × Nat × Nat
  windows : List (Nat × Nat × Bool)
  measured : Nat
  generations : List Nat
  merged : Bool
  configured : Option Nat × Option Nat × Option Nat × Nat × Nat × Option Nat

/-- A channel's window and enable. -/
def Channel.window (c : Channel) : Nat × Nat × Bool := (c.low, c.high, c.enabled)

def ruleView (s : State) : RuleView where
  pending := s.pending
  part := s.part
  head := (s.imp.nrev, s.imp.lead, s.imp.swath, s.imp.half, s.imp.dwellLimit, s.imp.watermark)
  windows := s.hmon.channels.map Channel.window
  measured := s.hmon.nrev
  generations := s.sct.sets.map ScreenSet.generation
  merged := s.psc.refreshMerged
  configured := (s.psc.storeMiB, s.psc.refreshInterval, s.prx.timeout, s.lp.watchdogPeriod, s.hmon.tolerance,
    s.hmon.clockLoss)

theorem screenSet_generation (s : State) (k : Nat) :
    (screenSet s k).generation = (ruleView s).generations.getD k (ScreenSet.empty 0).generation := by
  rw [ruleView, List.getD_map]
  rfl

/-- Where the settings are left alone, the swath, the windows, the waiting commands and REFRESH_MERGED remain to be seen. -/
theorem ruleView_of_settingsView {s t : State} (hsettings : settingsView t = settingsView s) (hpending : t.pending = s.pending)
    (hswath : t.imp.swath = s.imp.swath)
    (hwindows : t.hmon.channels.map Channel.window = s.hmon.channels.map Channel.window)
    (hmerged : t.psc.refreshMerged = s.psc.refreshMerged) : ruleView t = ruleView s := by
  have hgenerations : t.sct.sets.map ScreenSet.generation = s.sct.sets.map ScreenSet.generation := by
    have h := congrArg (fun v => v.sets.map Prod.snd) hsettings
    simp only [settingsView, List.map_map] at h
    exact h
  simp only [settingsView, SettingsView.mk.injEq] at hsettings
  simp only [ruleView, hsettings, hpending, hswath, hwindows, hmerged, hgenerations]

/-! ## Operations that leave the view alone -/

theorem windows_setChannel {k : Nat} {c : Channel} {s : State} (h : c.window = (channelAt s k).window) :
    (setChannel k c s).hmon.channels.map Channel.window = s.hmon.channels.map Channel.window := map_set_of_getD _ h

/-- R167: the judging of a reading leaves the windows and enables alone. -/
theorem windows_judgeReading (r : HeadRecord) (v : Revolution) (job : Nat) (s : State) (k : Nat) :
    (judgeReading r v job s k).hmon.channels.map Channel.window = s.hmon.channels.map Channel.window := by
  unfold judgeReading
  dsimp only
  split
  · rfl
  · split
    · split
      · split
        · exact windows_setChannel rfl
        · rfl
      · split
        · exact windows_setChannel rfl
        · exact windows_setChannel rfl
      · rfl
    · rfl

theorem ruleView_judgeReading (r : HeadRecord) (v : Revolution) (job : Nat) (s : State) (k : Nat) :
    ruleView (judgeReading r v job s k) = ruleView s :=
  ruleView_of_settingsView (settingsView_judgeReading ..) (by simp) (by simp) (windows_judgeReading ..) (by simp)

theorem ruleView_takeRecord (r : HeadRecord) (s : State) : ruleView (takeRecord r s) = ruleView s := by
  have hjudged (v : Revolution) (job : Nat) (t : State) :
      ruleView ((List.range 32).foldl (judgeReading r v job) t) = ruleView t :=
    foldl_keeps ruleView _ (ruleView_judgeReading r v job) _ t
  have hhanded (v : Revolution) (t : State) : ruleView ((List.range 32).foldl (handChannel v) t) = ruleView t :=
    foldl_keeps ruleView _ (fun t k => by simp [ruleView]) _ t
  have hstate : ruleView (takeHeadState r (checkHead r { s with imp := { s.imp with recordTaken := true } })) =
      ruleView s := by simp [ruleView]
  unfold takeRecord judgeRecord
  dsimp only
  split
  · simp [ruleView]
  · (repeat' split) <;> simp only [hjudged, hhanded, hstate]

theorem ruleView_fillDone (stale : Bool) (bs : List Byte) (s : State) : ruleView (fillDone stale bs s) = ruleView s :=
  ruleView_of_settingsView (settingsView_fillDone ..) (by simp) (by simp) (by simp) (by simp)

theorem ruleView_receiveByte (b : Byte) (s : State) : ruleView (receiveByte b s) = ruleView s :=
  ruleView_of_settingsView (settingsView_receiveByte ..) (by simp) (by simp) (by simp) (by simp)

theorem ruleView_slotEvent (s : State) : ruleView (slotEvent s) = ruleView s := by simp [ruleView]

theorem ruleView_decideImaging (j : Job) (s : State) : ruleView (decideImaging j s) = ruleView s := by
  have hend (r : JobResult) : ruleView (decideEnd r s) = ruleView s := by simp [ruleView]
  have hexpose (t : State) : ruleView (beginExpose t) = ruleView t := by
    unfold beginExpose
    simp [ruleView]
  have hbegin (d : Decision) (n : Nat) (live : Bool) : ruleView (beginRevolution d n live s) = ruleView s := rfl
  have hring (k : Nat) (r : RingState) : ruleView (setRing k r s) = ruleView s := by simp [ruleView]
  have hdwell : ruleView (decideDwell s) = ruleView s := by simp [ruleView]
  unfold decideImaging
  dsimp only
  (repeat' split) <;> simp only [hend, hbegin, hexpose, hring, hdwell]

theorem ruleView_decideRevolution (s : State) : ruleView (decideRevolution s) = ruleView s := by
  unfold decideRevolution
  split
  · exact ruleView_decideImaging _ s
  · simp [ruleView]

/-- From an index on, HMON measures against the stored Nrev (R146, R172). -/
theorem ruleView_indexEvent (s : State) : ruleView (indexEvent s) = { ruleView s with measured := s.imp.nrev } := by
  have habandon (t : State) : ruleView (abandonIfFourth t) = ruleView t := by simp [ruleView]
  rw [indexEvent, habandon, ruleView_decideRevolution]
  simp [ruleView, hmonIndex]

theorem ruleView_completion {client : State → State} (hclient : ∀ s, ruleView (client s) = ruleView s) (o : EndOrder)
    (s : State) : ruleView (completion o client s) = ruleView s := by
  have hend (t : State) : ruleView (endOperation t) = ruleView t := by simp [ruleView]
  cases o with
  | endFirst => exact (hclient _).trans (hend s)
  | askFirst => exact (hend _).trans (hclient _)

/-! ## Commands of the link -/

theorem ruleView_runPageOpen (f : Frame) (s : State) : ruleView (runPageOpen f s) = ruleView s :=
  ruleView_of_settingsView (runPageOpen_leavesSettings f s) (by simp) (by simp) (by simp) (by simp)

theorem ruleView_runScreenTile (f : Frame) (s : State) : ruleView (runScreenTile f s) = ruleView s :=
  ruleView_of_settingsView (runScreenTile_leavesSettings f s) (by simp) (by simp) (by simp) (by simp)

/-- R170: a cleared channel keeps its window and enable. -/
theorem ruleView_runChannelClear (f : Frame) (s : State) : ruleView (runChannelClear f s) = ruleView s := by
  refine ruleView_of_settingsView (runChannelClear_leavesSettings f s) (by simp) (by simp) ?_ (by simp)
  have hwindow (m : Word) (k : Nat) (c : Channel) : (clearChannel m k c).window = c.window := by
    unfold clearChannel
    split <;> rfl
  unfold runChannelClear
  split
  · rfl
  · refine List.ext_getElem? fun k => ?_
    cases hk : s.hmon.channels[k]? <;> simp [clearChannels, answer, hk, hwindow]

/-- R87: SCREEN.BEGIN keeps its set's generation. -/
theorem ruleView_runScreenBegin (f : Frame) (s : State) : ruleView (runScreenBegin f s) = ruleView s := by
  have htest (t : State) : ruleView (scheduleTest t) = ruleView t := by simp [ruleView]
  unfold runScreenBegin
  split
  · rfl
  · dsimp only
    split
    · rfl
    · split
      · rw [htest]
        exact congrArg (fun l => { ruleView s with generations := l })
          (map_set_of_getD (x := loadingSet _ (screenSet s _)) ScreenSet.generation rfl)
      · rfl

/-- R91, R92: SCREEN.END gives generations alone. -/
theorem ruleView_runScreenEnd (f : Frame) (s : State) : ∃ l,
    ruleView (runScreenEnd f s) = { ruleView s with generations := l } := by
  have htest (t : State) : ruleView (scheduleTest t) = ruleView t := by simp [ruleView]
  unfold runScreenEnd
  split
  · exact ⟨_, rfl⟩
  · dsimp only
    split
    · exact ⟨_, rfl⟩
    · exact ⟨_, htest _⟩

/-- R146: HEAD.SETUP gives the head's settings and the windows alone. -/
theorem ruleView_runHeadSetup (f : Frame) (s : State) : ∃ x l,
    ruleView (runHeadSetup f s) = { ruleView s with head := x, windows := l } := by
  unfold runHeadSetup
  split
  · exact ⟨_, _, rfl⟩
  · (repeat' split) <;> exact ⟨_, _, rfl⟩

/-- R193, R194: CONFIGURE leads to READY and gives its own values, also where it empties the sets. -/
theorem ruleView_applySettings (x : Settings) (s : State) : ruleView (applySettings x s) =
    { ruleView s with part := .ready, configured := (ruleView (applySettings x s)).configured } := by
  have hempty : (emptySets s).sct.sets.map ScreenSet.generation = s.sct.sets.map ScreenSet.generation := by
    simp [emptySets, Function.comp_def, ScreenSet.empty]
  unfold applySettings Psc.configure
  dsimp only
  split
  · exact congrArg (fun l => RuleView.mk _ _ _ _ _ l _ _) hempty
  · rfl

/-- R193: CONFIGURE is answered alone, or puts its values into use. -/
theorem ruleView_runConfigure (f : Frame) (s : State) : ∃ p y,
    ruleView (runConfigure f s) = { ruleView s with part := p, configured := y } ∧ (p = s.part ∨ p = .ready) := by
  have hanswer (code : Byte) : ruleView (answer f code [] s) =
      { ruleView s with part := s.part, configured := (ruleView s).configured } := rfl
  unfold runConfigure
  split
  · exact ⟨_, _, hanswer _, .inl rfl⟩
  · split
    · exact ⟨_, _, hanswer _, .inl rfl⟩
    · split
      · rename_i x _ _ _
        exact ⟨_, _, ruleView_applySettings x.clamped s, .inr rfl⟩
      · exact ⟨_, _, hanswer _, .inl rfl⟩

/-- R197: RESTART clears REFRESH_MERGED alone. -/
theorem ruleView_restartPart (s : State) : ruleView (restartPart s) = { ruleView s with merged := false } := by
  have hmerged (p : Psc) : p.restart.refreshMerged = false := by
    unfold Psc.restart
    cases p.storeMiB <;> rfl
  have hgeneration (x : ScreenSet) : x.restart.generation = x.generation := by
    unfold ScreenSet.restart
    split <;> rfl
  unfold restartPart
  dsimp only
  split <;>
    simp [ruleView, Lp.restart, Hmon.restart, Psc.restart_storeMiB, Psc.restart_refreshInterval, hmerged, hgeneration,
      Function.comp_def, Channel.window]

theorem ruleView_runRestart (f : Frame) (s : State) : ∃ m, ruleView (runRestart f s) = { ruleView s with merged := m } := by
  unfold runRestart
  split
  · split
    · exact ⟨_, rfl⟩
    · exact ⟨_, ruleView_restartPart s⟩
  · exact ⟨_, rfl⟩

/-! ## Every command -/

/-- A command changes what the rules give to certain commands only where it is one of them. -/
structure ObeysRules (c : Instr) (v w : RuleView) : Prop where
  pending : w.pending = v.pending
  ready : c ≠ .hardwareReset → v.part = .ready → w.part = .ready
  head : c ≠ .hardwareReset → c ≠ .headSetup → w.head = v.head ∧ w.windows = v.windows
  measured : c ≠ .hardwareReset → c ≠ .drumIndex → c ≠ .monitorTestAbandon → w.measured = v.measured
  generations : c ≠ .hardwareReset → c ≠ .screenEnd → w.generations = v.generations
  merged : c ≠ .hardwareReset → c ≠ .restart → v.merged = true → w.merged = true
  configured : c ≠ .hardwareReset → c ≠ .configure → w.configured = v.configured

theorem ObeysRules.of_eq {c : Instr} {v w : RuleView} (h : w = v) : ObeysRules c v w := by
  subst h
  exact ⟨rfl, fun _ h => h, fun _ _ => ⟨rfl, rfl⟩, fun _ _ _ => rfl, fun _ _ => rfl, fun _ _ h => h, fun _ _ => rfl⟩

/-- An outcome whose state, where it has one, obeys the rules. -/
def leadsObeying (c : Instr) (s : State) (o : Host.Outcome State Fault Refusal) : Prop :=
  ∀ t, o = .next t → ObeysRules c (ruleView s) (ruleView t)

theorem leadsObeying_next {c : Instr} {s t : State} (h : ObeysRules c (ruleView s) (ruleView t)) :
    leadsObeying c s (.next t) := fun _ he => Host.Outcome.next.inj he ▸ h

theorem leadsObeying_ite {c : Instr} {s t u : State} {p : Prop} [Decidable p] (ht : ruleView t = ruleView s)
    (hu : ruleView u = ruleView s) : leadsObeying c s (if p then .next t else .next u) := by
  split
  · exact leadsObeying_next (.of_eq ht)
  · exact leadsObeying_next (.of_eq hu)

theorem leadsObeying_serve {c : Instr} {p : Frame → Bool} {run : Frame → State → State}
    (hrun : ∀ f s, ObeysRules c (ruleView s) (ruleView (run f s))) (s : State) : leadsObeying c s (serve p run s) := by
  intro t he
  rcases serve_cases he with rfl | ⟨f, rest, -, -, rfl⟩
  · exact .of_eq rfl
  · exact hrun f (taken s rest)

theorem leadsObeying_whenReady {c : Instr} {p : Frame → Bool} {run : Frame → State → State}
    (hrun : ∀ f s, ObeysRules c (ruleView s) (ruleView (run f s))) (s : State) :
    leadsObeying c s (serve p (whenReady run) s) := by
  refine leadsObeying_serve (fun f t => ?_) s
  unfold whenReady
  split
  · exact .of_eq rfl
  · exact hrun f t

theorem leadsObeying_finishWrite {c : Instr} {client : State → State} (hclient : ∀ s, ruleView (client s) = ruleView s)
    (o : EndOrder) (a : Nat) (bs : List Byte) (s : State) : leadsObeying c s (finishWrite o a bs client s) :=
  leadsObeying_next (.of_eq (ruleView_completion hclient o _))

theorem leadsObeying_finishRead {c : Instr} {client : List Byte → State → State}
    (hclient : ∀ bs s, ruleView (client bs s) = ruleView s) (o : EndOrder) (a n : Nat) (s : State) :
    leadsObeying c s (finishRead o a n client s) := leadsObeying_next (.of_eq (ruleView_completion (hclient _) o s))

/-- R146, R172: an index gives the measured Nrev alone. -/
theorem indexEvent_obeysRules {c : Instr} (hc : c = .drumIndex ∨ c = .monitorTestAbandon) (s : State) :
    ObeysRules c (ruleView s) (ruleView (indexEvent s)) := by
  rw [ruleView_indexEvent]
  exact ⟨rfl, fun _ h => h, fun _ _ => ⟨rfl, rfl⟩, fun _ hd hm => (hc.elim hd hm).elim, fun _ _ => rfl, fun _ _ h => h,
    fun _ _ => rfl⟩

/-- R82, R83: a refresh due can set REFRESH_MERGED, and gives nothing else. -/
theorem mergeRefresh_obeysRules (s : State) : ObeysRules .refreshDue (ruleView s) (ruleView (mergeRefresh s)) := by
  have hview : ruleView (mergeRefresh s) = { ruleView s with merged := true } := by
    simp only [mergeRefresh]
    simp [ruleView]
  rw [hview]
  exact ⟨rfl, fun _ h => h, fun _ _ => ⟨rfl, rfl⟩, fun _ _ _ => rfl, fun _ _ => rfl, fun _ _ _ => rfl, fun _ _ => rfl⟩

theorem exec_obeysRules (c : Instr) (s : State) : leadsObeying c s (exec c s) := by
  have hview {run : Frame → State → State} (h : ∀ f s, ruleView (run f s) = ruleView s) (f : Frame) (t : State) :
      ObeysRules c (ruleView t) (ruleView (run f t)) := .of_eq (h f t)
  have hkept {t : State} (h : ruleView t = ruleView s) : leadsObeying c s (.next t) := leadsObeying_next (.of_eq h)
  cases c with
  | hardwareReset =>
    exact leadsObeying_next ⟨rfl, fun h => absurd rfl h, fun h => absurd rfl h, fun h => absurd rfl h,
      fun h => absurd rfl h, fun h => absurd rfl h, fun h => absurd rfl h⟩
  | resetRelease => exact hkept rfl
  | tagZero => exact leadsObeying_serve (run := fun f t => answer f rBadField [] t) (fun _ _ => .of_eq rfl) s
  | unknownKind => exact leadsObeying_serve (run := fun f t => answer f rUnknownKind [] t) (fun _ _ => .of_eq rfl) s
  | status => exact leadsObeying_serve (hview fun f t => by simp [ruleView]) s
  | configure =>
    refine leadsObeying_serve (fun f t => ?_) s
    obtain ⟨p, y, hy, hp⟩ := ruleView_runConfigure f t
    rw [hy]
    exact ⟨rfl, fun _ h => hp.elim (fun hp => hp.trans h) id, fun _ _ => ⟨rfl, rfl⟩, fun _ _ _ => rfl, fun _ _ => rfl,
      fun _ _ h => h, fun _ h => absurd rfl h⟩
  | restart =>
    refine leadsObeying_serve (fun f t => ?_) s
    obtain ⟨m, hm⟩ := ruleView_runRestart f t
    rw [hm]
    exact ⟨rfl, fun _ h => h, fun _ _ => ⟨rfl, rfl⟩, fun _ _ _ => rfl, fun _ _ => rfl, fun _ h => absurd rfl h,
      fun _ _ => rfl⟩
  | headSetup =>
    refine leadsObeying_serve (fun f t => ?_) s
    obtain ⟨x, l, hx⟩ := ruleView_runHeadSetup f t
    rw [hx]
    exact ⟨rfl, fun _ h => h, fun _ h => absurd rfl h, fun _ _ _ => rfl, fun _ _ => rfl, fun _ _ h => h, fun _ _ => rfl⟩
  | screenEnd =>
    refine leadsObeying_whenReady (fun f t => ?_) s
    obtain ⟨l, hl⟩ := ruleView_runScreenEnd f t
    rw [hl]
    exact ⟨rfl, fun _ h => h, fun _ _ => ⟨rfl, rfl⟩, fun _ _ _ => rfl, fun _ h => absurd rfl h, fun _ _ h => h,
      fun _ _ => rfl⟩
  | pageOpen => exact leadsObeying_whenReady (hview ruleView_runPageOpen) s
  | screenTile => exact leadsObeying_whenReady (hview ruleView_runScreenTile) s
  | screenBegin => exact leadsObeying_whenReady (hview ruleView_runScreenBegin) s
  | channelClear => exact leadsObeying_whenReady (hview ruleView_runChannelClear) s
  | pageBand | pageClose | pageQuery | pageDrop | screenQuery | plateQueue | plateCancel | plateQuery | plateList |
    monitorTest => exact leadsObeying_whenReady (hview fun f t => by simp [ruleView]) s
  | frameReceived b => exact leadsObeying_ite rfl (ruleView_receiveByte b s)
  | byteReceived b => exact leadsObeying_ite rfl (ruleView_receiveByte b s)
  | frameTimerExpiry =>
    simp only [exec, execFrameTimerExpiry]
    split
    · exact hkept rfl
    · exact leadsObeying_ite rfl rfl
  | watchdogExpiry => exact leadsObeying_ite rfl rfl
  | beginTransmission =>
    simp only [exec, execBeginTransmission]
    (repeat' split) <;> exact hkept rfl
  | frameSent => exact leadsObeying_ite rfl rfl
  | linkWriteBurstDone o =>
    simp only [exec, execLinkWriteBurstDone]
    split
    · exact leadsObeying_finishWrite (fun t => by simp [ruleView]) o _ _ s
    · exact hkept rfl
  | tileWriteBurstDone o =>
    simp only [exec, execTileWriteBurstDone]
    split
    · exact leadsObeying_finishWrite (fun t => by simp [ruleView]) o _ _ s
    · exact hkept rfl
  | ruWriteBurstDone o =>
    simp only [exec, execRuWriteBurstDone]
    split
    · exact leadsObeying_finishWrite (fun t => by simp [ruleView]) o _ _ s
    · exact hkept rfl
  | fillBurstDone o =>
    simp only [exec, execFillBurstDone]
    split
    · exact leadsObeying_finishRead (ruleView_fillDone _) o _ _ s
    · exact hkept rfl
  | ruReadBurstDone o =>
    simp only [exec, execRuReadBurstDone]
    split
    · exact leadsObeying_finishRead (fun bs t => by simp [ruleView]) o _ _ s
    · exact hkept rfl
  | fetchArrival o =>
    simp only [exec, execFetchArrival]
    split
    · exact leadsObeying_finishRead (fun bs t => by simp [ruleView]) o _ _ s
    · exact hkept rfl
  | receptionTimeout ctx =>
    simp only [exec, execReceptionTimeout]
    (repeat' split) <;> exact hkept (by simp [ruleView])
  | refreshDue =>
    simp only [exec, execRefreshDue]
    split
    · exact hkept rfl
    · split
      · split
        · exact leadsObeying_next (mergeRefresh_obeysRules s)
        · exact hkept rfl
      · exact hkept (by simp [ruleView])
  | refreshOperationDone =>
    simp only [exec, execRefreshOperationDone]
    split
    · exact hkept (by simp [ruleView])
    · exact hkept rfl
  | slotClk => exact leadsObeying_ite rfl (ruleView_slotEvent s)
  | indexOverdue => exact leadsObeying_ite (ruleView_slotEvent s) rfl
  | indexLost => exact leadsObeying_ite (ruleView_slotEvent s) rfl
  | drumIndex =>
    simp only [exec, execDrumIndex]
    split
    · exact hkept rfl
    · exact leadsObeying_next (indexEvent_obeysRules (.inl rfl) s)
  | monitorTestAbandon =>
    simp only [exec, execMonitorTestAbandon]
    split
    · exact leadsObeying_next (indexEvent_obeysRules (.inr rfl) s)
    · exact hkept rfl
  | clockLossExpiry => exact leadsObeying_ite rfl (by simp [ruleView])
  | headReturnRecord r => exact leadsObeying_ite rfl (ruleView_takeRecord r s)

/-- Settles O52: every command obeys the rules of what certain commands alone may change. -/
theorem commandsLeaveTheRestAlone : Obligations.CommandsLeaveTheRestAlone := by
  intro c s t hexec
  obtain ⟨hpending, hready, hhead, hmeasured, hgenerations, hmerged, hconfigured⟩ := exec_obeysRules c s t hexec
  refine ⟨hpending, hready, hhead, hmeasured, fun hreset hend k => ?_, hmerged, hconfigured⟩
  rw [screenSet_generation, screenSet_generation, hgenerations hreset hend]

end Sys2Proof.Machine


/-! The block link table stays in canonical form through every operation that writes it (R69), and so do both tables of the
store through every step. -/

namespace Sys2Proof.Machine

/-- The block link table is in canonical form (R69). -/
def linksCanonical (s : State) : Prop := sparseWf s.psc.links = true

theorem linksCanonical_congr {s t : State} (hlinks : t.psc.links = s.psc.links) (h : linksCanonical s) :
    linksCanonical t := (congrArg (fun l => sparseWf l = true) hlinks).mpr h

theorem returnChain_linksCanonical {s : State} (hs : linksCanonical s) (o : Option Nat) :
    linksCanonical (returnChain o s).1 := returnChain_wf hs

/-! ## The ends of receptions and repairs (R35, R44, R52, R59) -/

theorem missBand_linksCanonical {s : State} (hs : linksCanonical s) (h b : Nat) : linksCanonical (missBand h s b) := by
  unfold missBand
  split
  · rename_i r _
    exact holds_ite (linksCanonical_congr (by simp) (returnChain_linksCanonical hs r.head)) hs
  · exact hs

theorem missBands_linksCanonical {s : State} (hs : linksCanonical s) (h : Nat) : linksCanonical (missBands h s) :=
  List.foldlRecOn _ _ hs fun _ ht b _ => missBand_linksCanonical ht h b

theorem emptyChunkOf_linksCanonical {s : State} (hs : linksCanonical s) (h : Nat) : linksCanonical (emptyChunkOf h s) :=
  linksCanonical_congr (by simp) hs

theorem endRepair_linksCanonical {s : State} (hs : linksCanonical s) (h : Nat) (note : Option PageEvent) :
    linksCanonical (endRepair h note s) := by
  have hfreed : linksCanonical (freeContextOf h (missBands h (emptyChunkOf h s))) :=
    linksCanonical_congr (by simp) (missBands_linksCanonical (emptyChunkOf_linksCanonical hs h) h)
  unfold endRepair
  split
  · exact linksCanonical_congr (by simp) hfreed
  · exact hfreed

theorem releaseChains_linksCanonical {s : State} (hs : linksCanonical s) (h : Nat) :
    linksCanonical (releaseChains h s).1 := by
  refine List.foldlRecOn (motive := fun p : State × Nat => linksCanonical p.1) _ _ hs fun p hp b _ => ?_
  unfold releaseBand
  split
  · exact returnChain_linksCanonical hp _
  · exact hp

theorem releaseEntry_linksCanonical {s : State} (hs : linksCanonical s) (h : Nat) (cause : ReleaseCause) :
    linksCanonical (releaseEntry h cause s) := by
  have hfreed : linksCanonical (freeContextOf h (emptyChunkOf h s)) :=
    linksCanonical_congr (by simp) (emptyChunkOf_linksCanonical hs h)
  exact linksCanonical_congr (by simp [releaseEntry]) (releaseChains_linksCanonical hfreed h)

theorem retire_linksCanonical {s : State} (hs : linksCanonical s) (by_ h : Nat) : linksCanonical (retire by_ h s) := by
  rw [retire_unfold]
  have hended : linksCanonical (repairEndedFirst h none s) := holds_ite hs (endRepair_linksCanonical hs h none)
  dsimp only
  split
  · exact releaseEntry_linksCanonical (linksCanonical_congr (by simp) hended) h _
  · exact linksCanonical_congr (by simp) hended

theorem supersede_linksCanonical {s : State} (hs : linksCanonical s) (by_ : Nat) : linksCanonical (supersede by_ s) :=
  List.foldlRecOn _ _ hs fun _ ht h _ => holds_ite (retire_linksCanonical ht by_ h) ht

theorem closeReception_linksCanonical {s : State} (hs : linksCanonical s) (ev : PageEvent) (byOpen : Bool) (h : Nat) :
    linksCanonical (closeReception ev byOpen h s) := by
  have hmissed := missBands_linksCanonical hs h
  unfold closeReception
  dsimp only
  split
  · exact releaseEntry_linksCanonical (linksCanonical_congr (by simp) hmissed) h _
  · exact supersede_linksCanonical (linksCanonical_congr (by simp) hmissed) h

theorem closeEntry_linksCanonical {s : State} (hs : linksCanonical s) (ev : PageEvent) (h : Nat) :
    linksCanonical (closeEntry ev h s) :=
  holds_ite (closeReception_linksCanonical hs ev false h) (endRepair_linksCanonical hs h _)

theorem closeOlder_linksCanonical {s : State} (hs : linksCanonical s) (older : Option Nat) :
    linksCanonical (closeOlder older s) := by
  unfold closeOlder
  split
  · exact closeReception_linksCanonical hs _ _ _
  · exact hs

/-! ## Binding and unbinding (R56, R58) -/

theorem bindEntry_linksCanonical {s : State} (hs : linksCanonical s) (h : Nat) : linksCanonical (bindEntry s h) := by
  unfold bindEntry
  split
  · exact endRepair_linksCanonical hs h _
  · exact hs

theorem unbindEntry_linksCanonical {s : State} (hs : linksCanonical s) (h : Nat) : linksCanonical (unbindEntry s h) := by
  unfold unbindEntry
  dsimp only
  split
  · exact releaseEntry_linksCanonical (linksCanonical_congr (by simp) hs) h _
  · exact linksCanonical_congr (s := s) (by split <;> simp) hs

/-! ## The placing of a chunk (R28, R41) -/

theorem takeBlock_linksCanonical {s t : State} (hs : linksCanonical s) {needed : Bool} {tail new : Option Nat}
    (htake : takeBlock needed tail s = some (new, t)) : linksCanonical t := by
  unfold takeBlock at htake
  split at htake
  · split at htake
    · cases htake
    · rename_i hlend
      have hlent := lend_wf hs hlend
      split at htake
      all_goals
        obtain ⟨-, rfl⟩ := Prod.mk.inj (Option.some.inj htake)
      · exact setLink_wf hlent
      · exact hlent
  · obtain ⟨-, rfl⟩ := Prod.mk.inj (Option.some.inj htake)
    exact hs

theorem placeChunk_linksCanonical {s t : State} (hs : linksCanonical s) {i h b offset : Nat} {last : Bool}
    {bs : List Byte} (hplaced : placeChunk i h b offset last bs s = some t) : linksCanonical t := by
  unfold placeChunk at hplaced
  split at hplaced
  · dsimp only at hplaced
    split at hplaced
    · cases hplaced
    · rename_i htake
      obtain rfl := Option.some.inj hplaced
      exact linksCanonical_congr (by simp) (takeBlock_linksCanonical hs htake)
  · cases hplaced

theorem acceptChunk_linksCanonical {f : Frame} {x : ChunkOperands} {i : Nat} {opened : Bool} {refused s : State}
    (hrefused : linksCanonical refused) (hs : linksCanonical s) : linksCanonical (acceptChunk f x i opened refused s) := by
  unfold acceptChunk
  split
  · rename_i t hplaced
    exact linksCanonical_congr (s := t) rfl (placeChunk_linksCanonical hs hplaced)
  · exact hrefused

theorem openRepair_linksCanonical {s : State} (hs : linksCanonical s) (i h b : Nat) : linksCanonical (openRepair i h b s) := by
  unfold openRepair
  split
  · rename_i r _
    dsimp only
    split <;> exact linksCanonical_congr (by simp) (returnChain_linksCanonical hs r.head)
  · exact hs

theorem runPageBand_linksCanonical {s : State} (hs : linksCanonical s) (f : Frame) : linksCanonical (runPageBand f s) := by
  have hanswer (code : Byte) : linksCanonical (answer f code [] s) := hs
  have hchunk (x : ChunkOperands) (r : BandRecord) : linksCanonical (runChunk f x r s) := by
    refine holds_ite (hanswer _) (holds_ite (hanswer _) ?_)
    split
    · exact hanswer _
    · exact acceptChunk_linksCanonical hs hs
  have hopener (x : ChunkOperands) (r : BandRecord) : linksCanonical (runOpener f x r s) := by
    refine holds_ite (hanswer _) (holds_ite (hanswer _) (holds_ite (hanswer _) ?_))
    split
    · exact hanswer _
    · rename_i i _
      have hopened := openRepair_linksCanonical hs i x.handle x.band
      exact acceptChunk_linksCanonical (linksCanonical_congr (by simp) hopened) hopened
  unfold runPageBand
  split
  · exact hanswer _
  · refine holds_ite (hanswer _) ?_
    split
    · exact hanswer _
    · exact holds_ite (hchunk _ _) (holds_ite (hopener _ _) (hanswer _))

/-! ## CONFIGURE and RESTART (R74) -/

theorem runConfigure_linksCanonical {s : State} (hs : linksCanonical s) (f : Frame) : linksCanonical (runConfigure f s) := by
  have happlied (x : Settings) : linksCanonical (applySettings x s) := by
    unfold applySettings Psc.configure
    dsimp only
    split
    · exact buildPool_wf hs
    · exact hs
  unfold runConfigure
  split
  · exact hs
  · exact holds_ite hs (holds_ite (happlied _) hs)

theorem restartPart_linksCanonical {s : State} (hs : linksCanonical s) : linksCanonical (restartPart s) := by
  have hrestart {p : Psc} (hp : sparseWf p.links = true) : sparseWf p.restart.links = true := by
    unfold Psc.restart
    split
    · exact buildPool_wf hp
    · exact hp
  unfold restartPart
  dsimp only
  refine hrestart ?_
  split
  · simpa [linksCanonical] using hs
  · simpa [linksCanonical] using hs

/-! ## The law -/

/-- R67, R69: the store and the block link table stay in canonical form through all that moves blocks or entries. -/
theorem storeLaw_storeCanonical : StoreLaw storeCanonical where
  congr hv h := by
    simp only [storeView, StoreView.mk.injEq] at hv
    simpa only [storeCanonical, hv] using h
  bind h _ := h.imp (by simp) fun hl => bindEntry_linksCanonical hl _
  unbind _ h := h.imp (by simp) fun hl => unbindEntry_linksCanonical hl _
  burst _ h := h.imp (by simp) fun hl => linksCanonical_congr (by simp) hl
  opened {s t x h} hs _ hcreate := by
    refine hs.imp (fun hd => ?_) fun hl => ?_
    · simpa [createEntry_keeps hcreate] using hd
    · have hclosed := closeOlder_linksCanonical hl (olderReception s x.key)
      exact linksCanonical_congr (by simp only [createEntry_keeps hcreate]) hclosed
  band f h _ := h.imp (by simp) fun hl => runPageBand_linksCanonical hl f
  closed h _ _ := h.imp (by simp) fun hl => closeEntry_linksCanonical hl _ _
  expired h _ _ := h.imp (by simp) fun hl => closeEntry_linksCanonical hl _ _
  dropped h _ := h.imp (by simp) fun hl => releaseEntry_linksCanonical hl _ _
  configured f h := h.imp (by simp) fun hl => runConfigure_linksCanonical hl f
  restarted h _ := h.imp (by simp) restartPart_linksCanonical

/-- R67, R69: every command keeps the canonical form. -/
theorem exec_keeps_storeCanonical {s : State} (hs : storeCanonical s) (c : Instr) : leadsTo storeCanonical (exec c s) := by
  refine storeLaw_storeCanonical.exec_keeps hs c (fun _ => ⟨rfl, rfl⟩) (fun _ a bs => ?_) fun _ => ?_
  · exact hs.imp writeBytes_wf id
  · refine hs.imp (fun hd => ?_) fun hl => linksCanonical_congr (by simp) hl
    simpa using spoilStore_wf (s := { s with psc := { s.psc with refreshMerged := true } }) hd

end Sys2Proof.Machine


/-! The pool law handle by handle (R70 to R74): what it says of one entry's chains, and how it carries over when one
entry and its contexts change. -/

namespace Sys2Proof.Machine

/-! ## The pool law, said of a pool and of the bands' chains -/

/-- The chains of one entry's bands (R69, R73): each band's record holds its chain's head, and a context that covers it the
tail; an EXPECTED or MISSING band has no chain. -/
structure HandleView.Fits (v : HandleView) (chain : Nat → List Nat) : Prop where
  head : ∀ (b : Nat) (r : BandRecord), v.entry.bands[b]? = some r → r.head = (chain b).head?
  bare : ∀ r ∈ v.entry.bands, r.state = .expected ∨ r.state = .missing → r.head = none
  tail : ∀ (b : Nat), b < v.entry.bands.length → ∀ p ∈ v.servants, p.2.covers b = true →
    (p.2.progress b).tail = (chain b).getLast?

/-- The blocks of one entry's chains, band by band. -/
def HandleView.blocks (v : HandleView) (chain : Nat → List Nat) : List Nat :=
  (List.range v.entry.bands.length).flatMap chain

/-- The pool law for a given pool and given chains. -/
structure PoolHolds (s : State) (pool : List Nat) (chain : Nat → Nat → List Nat) : Prop where
  isPool : s.psc.poolIs pool
  linked : ∀ (h b : Nat), b < (entry s h).bands.length → s.psc.linked (chain h b)
  fits : ∀ h, (handleView s h).Fits (chain h)
  blocks : (pool ++ allChains s chain).Perm (List.range' 128 s.psc.poolSize)
  size : s.psc.poolSize ≤ 65536

/-- The store size, its pool size and the part's state agree (R70, R74, R193). -/
def sizeSound (s : State) : Prop :=
  (s.part = .unconfigured → s.psc.storeMiB = none) ∧
    match s.psc.storeMiB with
    | none => s.psc.poolSize = 0
    | some m => 64 ≤ m ∧ m ≤ 1024 ∧ s.psc.poolSize + 128 = m * 64

theorem sizeSound.le {s : State} (h : sizeSound s) : s.psc.poolSize ≤ 65536 := by
  obtain ⟨-, hsize⟩ := h
  split at hsize
  · omega
  · obtain ⟨-, hm, hn⟩ := hsize
    omega

theorem poolSound_iff (s : State) : poolSound s ↔ sizeSound s ∧ ∃ pool chain, PoolHolds s pool chain := by
  constructor
  · rintro ⟨hpart, hsize, hbare, pool, chain, hpool, hbands, hblocks⟩
    have hall : sizeSound s := ⟨hpart, hsize⟩
    refine ⟨hall, pool, chain, hpool, fun h b hb => ?_, fun h => ⟨fun b r hr => ?_, fun r hr hst => ?_, fun b hb p hp => ?_⟩,
      hblocks, hall.le⟩
    · obtain ⟨hlinked, -⟩ := hbands h b _ (List.getElem?_eq_getElem hb)
      exact hlinked
    · obtain ⟨-, hhead, -⟩ := hbands h b r hr
      exact hhead
    · obtain ⟨b, hb⟩ := List.mem_iff_getElem?.1 hr
      exact hbare h b r hb hst
    · obtain ⟨-, -, htail⟩ := hbands h b _ (List.getElem?_eq_getElem hb)
      exact htail p.1 p.2 hp.1 hp.2
  · rintro ⟨⟨hpart, hsize⟩, pool, chain, hholds⟩
    refine ⟨hpart, hsize, fun h b r hr => (hholds.fits h).bare r (List.mem_of_getElem? hr), pool, chain, hholds.isPool,
      fun h b r hr => ?_, hholds.blocks⟩
    have hb : b < (entry s h).bands.length := (List.getElem?_eq_some_iff.1 hr).1
    exact ⟨hholds.linked h b hb, (hholds.fits h).head b r hr,
      fun i c hc hh hcovers => (hholds.fits h).tail b hb (i, c) ⟨hc, hh⟩ hcovers⟩

/-! ## The blocks of one entry, and those of the others -/

/-- The blocks of the chains of every entry but one. -/
def otherBlocks (s : State) (chain : Nat → Nat → List Nat) (h : Nat) : List Nat :=
  ((List.range s.pdir.entries.length).filter (fun g => !decide (g = h))).flatMap fun g => (handleView s g).blocks (chain g)

theorem flatMap_perm_filter {α β : Type} (p : α → Bool) (f : α → List β) (l : List α) :
    (l.flatMap f).Perm ((l.filter p).flatMap f ++ (l.filter (fun x => !p x)).flatMap f) := by
  rw [← List.flatMap_append]
  exact (List.filter_append_perm p l).symm.flatMap_right f

theorem filter_range_eq (n h : Nat) : (List.range n).filter (fun g => decide (g = h)) = if h < n then [h] else [] := by
  induction n with
  | zero => rfl
  | succ n ih =>
    rw [List.range_succ, List.filter_append, ih]
    by_cases hn : n = h
    · subst hn
      simp
    · by_cases hlt : h < n
      · simp [hn, hlt, Nat.lt_succ_of_lt hlt]
      · simp [hn, hlt, show ¬ h < n + 1 by omega]

theorem blocks_out_of_range {s : State} {h : Nat} (hh : s.pdir.entries.length ≤ h) (chain : Nat → List Nat) :
    (handleView s h).blocks chain = [] := by
  rw [HandleView.blocks, handleView, entry_default hh]
  rfl

theorem allChains_perm (s : State) (chain : Nat → Nat → List Nat) (h : Nat) :
    (allChains s chain).Perm ((handleView s h).blocks (chain h) ++ otherBlocks s chain h) := by
  have hsplit := flatMap_perm_filter (fun g => decide (g = h)) (fun g => (handleView s g).blocks (chain g))
    (List.range s.pdir.entries.length)
  rw [filter_range_eq] at hsplit
  have hown : (if h < s.pdir.entries.length then [h] else []).flatMap (fun g => (handleView s g).blocks (chain g)) =
      (handleView s h).blocks (chain h) := by
    split
    · simp
    · rename_i hh
      rw [blocks_out_of_range (Nat.le_of_not_lt hh)]
      rfl
  rw [hown] at hsplit
  exact hsplit

theorem otherBlocks_changedAt {s t : State} {h : Nat} (hchanged : ChangedAt h s t)
    (hlength : t.pdir.entries.length = s.pdir.entries.length) {chain : Nat → Nat → List Nat} {new : Nat → List Nat} :
    otherBlocks t (Function.update chain h new) h = otherBlocks s chain h := by
  unfold otherBlocks
  rw [hlength]
  refine List.flatMap_congr fun g hg => ?_
  have hne : g ≠ h := by simpa using (List.mem_filter.1 hg).2
  rw [hchanged g hne, Function.update_of_ne hne]

theorem mem_otherBlocks {s : State} {chain : Nat → Nat → List Nat} {g h b x : Nat} (hne : g ≠ h)
    (hb : b < (entry s g).bands.length) (hx : x ∈ chain g b) : x ∈ otherBlocks s chain h := by
  have hg : g < s.pdir.entries.length := by
    by_contra hge
    rw [entry_default (Nat.le_of_not_lt hge)] at hb
    exact Nat.not_lt_zero b hb
  exact List.mem_flatMap.2 ⟨g, List.mem_filter.2 ⟨List.mem_range.2 hg, by simpa using hne⟩,
    List.mem_flatMap.2 ⟨b, List.mem_range.2 hb, hx⟩⟩

section
variable {s : State} {pool : List Nat} {chain : Nat → Nat → List Nat} (hs : PoolHolds s pool chain)
include hs

theorem PoolHolds.perm_at (h : Nat) : (pool ++ (handleView s h).blocks (chain h) ++ otherBlocks s chain h).Perm
    (List.range' 128 s.psc.poolSize) := by
  rw [List.append_assoc]
  exact ((allChains_perm s chain h).symm.append_left pool).trans hs.blocks

theorem PoolHolds.nodup_at (h : Nat) : (pool ++ (handleView s h).blocks (chain h) ++ otherBlocks s chain h).Nodup :=
  (hs.perm_at h).nodup_iff.2 List.nodup_range'

/-- R73: the blocks of the pool and of one entry are none of another's. -/
theorem PoolHolds.apart {g h b x : Nat} (hne : g ≠ h) (hb : b < (entry s g).bands.length) (hx : x ∈ chain g b) :
    x ∉ pool ++ (handleView s h).blocks (chain h) := by
  obtain ⟨-, -, hapart⟩ := List.nodup_append.1 (hs.nodup_at h)
  exact fun hmem => hapart x hmem x (mem_otherBlocks hne hb hx) rfl

/-- R70 to R74: the law carries over a change at one entry that keeps the blocks of the pool and of the entry together. -/
theorem PoolHolds.change {t : State} {h : Nat} {pool' : List Nat} {new : Nat → List Nat} (hchanged : ChangedAt h s t)
    (hlength : t.pdir.entries.length = s.pdir.entries.length) (hsize : t.psc.poolSize = s.psc.poolSize)
    (hpool : t.psc.poolIs pool') (hlinked : ∀ b, b < (entry t h).bands.length → t.psc.linked (new b))
    (hfits : (handleView t h).Fits new)
    (hlinks : ∀ x, x ∉ pool ++ (handleView s h).blocks (chain h) → t.psc.link x = s.psc.link x)
    (hblocks : (pool' ++ (handleView t h).blocks new).Perm (pool ++ (handleView s h).blocks (chain h))) :
    PoolHolds t pool' (Function.update chain h new) := by
  refine ⟨hpool, fun g b hb => ?_, fun g => ?_, ?_, hsize ▸ hs.size⟩
  · by_cases hg : g = h
    · subst hg
      rw [Function.update_self]
      exact hlinked b hb
    · rw [hchanged.entry hg] at hb
      rw [Function.update_of_ne hg, linked_of_agree fun x hx => hlinks x (hs.apart hg hb hx)]
      exact hs.linked g b hb
  · by_cases hg : g = h
    · subst hg
      rw [Function.update_self]
      exact hfits
    · rw [Function.update_of_ne hg, hchanged g hg]
      exact hs.fits g
  · have hsplit := allChains_perm t (Function.update chain h new) h
    rw [Function.update_self, otherBlocks_changedAt hchanged hlength] at hsplit
    rw [hsize]
    refine (hsplit.append_left pool').trans ?_
    rw [← List.append_assoc]
    exact (hblocks.append_right _).trans (hs.perm_at h)

end

end Sys2Proof.Machine


/-! Chains return to the pool (R72), and the pool law carries over what returns them: the end of a reception or of a repair,
and a release (R35, R44, R59). -/

namespace Sys2Proof.Machine

/-! ## Chains returned one after another -/

/-- Two states of PSC have the same pool and the same links. -/
def Psc.samePool (p q : Psc) : Prop :=
  p.links = q.links ∧ p.poolHead = q.poolHead ∧ p.poolTail = q.poolTail ∧ p.freeCount = q.freeCount

theorem Psc.samePool.poolIs_iff {p q : Psc} (h : p.samePool q) (l : List Nat) : p.poolIs l ↔ q.poolIs l := by
  obtain ⟨hlinks, hhead, htail, hcount⟩ := h
  exact poolIs_congr hlinks hhead htail hcount

theorem Psc.samePool.linked_iff {p q : Psc} (h : p.samePool q) (l : List Nat) : p.linked l ↔ q.linked l :=
  linked_congr h.1 l

theorem Psc.samePool.link_eq {p q : Psc} (h : p.samePool q) (b : Nat) : p.link b = q.link b :=
  congrArg (sparseGet b) h.1

/-- R72: chains returned one after another rejoin the pool in their order. -/
theorem returnChains_rejoined {l : List (List Nat)} : ∀ {p : Psc} {pool : List Nat}, p.poolIs pool →
    (∀ c ∈ l, p.linked c ∧ c.length ≤ 65536) → (pool ++ l.flatten).Nodup →
    (p.returnChains (l.map List.head?)).poolIs (pool ++ l.flatten) ∧
      ∀ x, x ∉ pool ++ l.flatten → (p.returnChains (l.map List.head?)).link x = p.link x := by
  induction l with
  | nil => exact fun hp _ _ => ⟨by simpa using hp, fun _ _ => rfl⟩
  | cons c l ih =>
    intro p pool hp hl hnodup
    rw [List.flatten_cons, ← List.append_assoc] at hnodup ⊢
    obtain ⟨hlinked, hlength⟩ := hl c (List.mem_cons_self ..)
    obtain ⟨hfirst, -, hapart⟩ := List.nodup_append.1 hnodup
    have hrejoined := returnChain_rejoined hp hlinked hfirst hlength
    have hrest (d : List Nat) (hd : d ∈ l) : (p.returnChain c.head?).1.linked d ∧ d.length ≤ 65536 := by
      obtain ⟨hlinked', hlength'⟩ := hl d (List.mem_cons_of_mem _ hd)
      refine ⟨(linked_of_agree fun x hx => hrejoined.outside x fun hmem => ?_).2 hlinked', hlength'⟩
      exact hapart x hmem x (List.mem_flatten_of_mem hd hx) rfl
    obtain ⟨hpool, hlinks⟩ := ih hrejoined.inPool hrest hnodup
    refine ⟨hpool, fun x hx => (hlinks x hx).trans (hrejoined.outside x fun hmem => hx ?_)⟩
    exact List.mem_append_left _ hmem

/-! ## The chains that an entry gives back -/

theorem flatMap_unless {α β : Type} (p : α → Bool) (f : α → List β) (l : List α) :
    l.flatMap (fun a => if p a then [] else f a) = (l.filter (fun a => !p a)).flatMap f := by
  induction l with
  | nil => rfl
  | cons a l ih => cases hp : p a <;> simp [hp, ih]

/-- The heads of the chains of some bands, band by band. -/
theorem map_filter_eq_range {α β : Type} {l : List α} {p : α → Bool} {f : α → β} {g : Nat → β}
    (hfg : ∀ b a, l[b]? = some a → f a = g b) :
    (l.filter p).map f = ((List.range l.length).filter (fun b => l[b]?.any p)).map g := by
  have hfst : l = l.zipIdx.map Prod.fst := by simp
  have hsnd : List.range l.length = l.zipIdx.map Prod.snd := by simp [List.range_eq_range']
  have hmem {x : α × Nat} (hx : x ∈ l.zipIdx) : l[x.2]? = some x.1 := List.mem_zipIdx_iff_getElem?.1 hx
  rw [hsnd, List.filter_map, List.map_map]
  conv_lhs => rw [hfst, List.filter_map, List.map_map]
  have hfilter : l.zipIdx.filter (p ∘ Prod.fst) = l.zipIdx.filter ((fun b => l[b]?.any p) ∘ Prod.snd) :=
    List.filter_congr fun x hx => by simp [hmem hx]
  rw [hfilter]
  exact List.map_congr_left fun x hx => hfg x.2 x.1 (hmem (List.mem_of_mem_filter hx))

section
variable {s : State} {pool : List Nat} {chain : Nat → Nat → List Nat} (hs : PoolHolds s pool chain)
include hs

theorem PoolHolds.length_le {h b : Nat} (hb : b < (entry s h).bands.length) : (chain h b).length ≤ 65536 := by
  have hsub : (chain h b).Sublist ((handleView s h).blocks (chain h)) := by
    rw [HandleView.blocks, List.flatMap_def]
    exact List.sublist_flatten_of_mem (List.mem_map_of_mem (List.mem_range.2 hb))
  have htotal := (hs.perm_at h).length_eq
  have hsize := hs.size
  have hle := hsub.length_le
  simp only [List.length_append, List.length_range'] at htotal
  omega

/-- R72, R73: the law carries over the return of some of an entry's chains. -/
theorem PoolHolds.returned {t : State} {h : Nat} (hchanged : ChangedAt h s t)
    (hlength : t.pdir.entries.length = s.pdir.entries.length) (hsize : t.psc.poolSize = s.psc.poolSize)
    {p : Psc} (hsame : p.samePool s.psc) (gone : Nat → Bool)
    (hpsc : t.psc = p.returnChains
      (((List.range (entry s h).bands.length).filter gone).map fun b => (chain h b).head?))
    (hbands : (entry t h).bands.length ≤ (entry s h).bands.length)
    (hfits : (handleView t h).Fits fun b => if gone b then [] else chain h b)
    (hkept : (handleView t h).blocks (fun b => if gone b then [] else chain h b) =
      (List.range (entry s h).bands.length).flatMap fun b => if gone b then [] else chain h b) :
    ∃ pool chain, PoolHolds t pool chain := by
  set n := (entry s h).bands.length with hn
  set l := ((List.range n).filter gone).map (chain h) with hl
  have hflat : l.flatten = ((List.range n).filter gone).flatMap (chain h) := (List.flatMap_def ..).symm
  have hperm : (pool ++ l.flatten ++ (handleView t h).blocks (fun b => if gone b then [] else chain h b)).Perm
      (pool ++ (handleView s h).blocks (chain h)) := by
    rw [hkept, flatMap_unless, hflat, List.append_assoc]
    exact (flatMap_perm_filter gone (chain h) (List.range n)).symm.append_left pool
  have hnodup : (pool ++ l.flatten ++ (handleView t h).blocks (fun b => if gone b then [] else chain h b)).Nodup :=
    hperm.nodup_iff.2 (List.nodup_append.1 (hs.nodup_at h)).1
  obtain ⟨hfirst, -, hapart⟩ := List.nodup_append.1 hnodup
  obtain ⟨hpool, hlinks⟩ := returnChains_rejoined (p := p) ((hsame.poolIs_iff pool).2 hs.isPool) (fun c hc => by
    obtain ⟨b, hb, rfl⟩ := List.mem_map.1 hc
    have hlt : b < n := List.mem_range.1 (List.mem_of_mem_filter hb)
    exact ⟨(hsame.linked_iff _).2 (hs.linked h b hlt), hs.length_le hlt⟩) hfirst
  have hmap : l.map List.head? = ((List.range n).filter gone).map fun b => (chain h b).head? := by
    rw [hl, List.map_map]
    rfl
  rw [hmap, ← hpsc] at hpool hlinks
  refine ⟨_, _, hs.change hchanged hlength hsize hpool (fun b hb => ?_) hfits (fun x hx => ?_) hperm⟩
  · split
    · exact trivial
    · rename_i hgone
      refine (linked_of_agree fun x hx => ?_).2 (hs.linked h b (Nat.lt_of_lt_of_le hb hbands))
      refine (hlinks x fun hmem => hapart x hmem x ?_ rfl).trans (hsame.link_eq x)
      exact List.mem_flatMap.2 ⟨b, List.mem_range.2 hb, by rwa [if_neg hgone]⟩
  · refine (hlinks x fun hmem => hx (hperm.mem_iff.1 (List.mem_append_left _ hmem))).trans (hsame.link_eq x)

end

end Sys2Proof.Machine


/-! The pool law through the directory's operations: entries and contexts rewritten with their chains kept, and the ends of
receptions and repairs, releases, bindings and unbindings (R35, R44, R52, R56, R58, R59, R65). -/

namespace Sys2Proof.Machine

/-! ## Rewriting with the chains kept -/

/-- Band records rewritten with their chains: the heads are kept, and no band becomes EXPECTED or MISSING. -/
structure BandsKept (old new : List BandRecord) : Prop where
  length : new.length = old.length
  record : ∀ (b : Nat) (r : BandRecord), new[b]? = some r → ∃ q, old[b]? = some q ∧ r.head = q.head ∧
    (r.state = .expected ∨ r.state = .missing → q.state = .expected ∨ q.state = .missing)

theorem BandsKept.refl (l : List BandRecord) : BandsKept l l := ⟨rfl, fun _ r hr => ⟨r, hr, rfl, id⟩⟩

/-- R34: a judged band keeps its chain. -/
theorem BandsKept.set {l : List BandRecord} {b : Nat} {q r : BandRecord} (hq : l[b]? = some q) (hhead : r.head = q.head)
    (hstate : r.state ≠ .expected ∧ r.state ≠ .missing) : BandsKept l (l.set b r) := by
  refine ⟨List.length_set, fun a x hx => ?_⟩
  rw [List.getElem?_set] at hx
  split at hx
  · rename_i hba
    subst hba
    split at hx
    · obtain rfl := Option.some.inj hx
      exact ⟨q, hq, hhead, fun h => (h.elim hstate.1 hstate.2).elim⟩
    · cases hx
  · exact ⟨x, hx, rfl, id⟩

/-- R65: a spoiled band keeps its chain. -/
theorem BandsKept.spoiled (l : List BandRecord) : BandsKept l (l.map BandRecord.spoiled) := by
  refine ⟨List.length_map _, fun b r hr => ?_⟩
  rw [List.getElem?_map, Option.map_eq_some_iff] at hr
  obtain ⟨q, hq, rfl⟩ := hr
  refine ⟨q, hq, ?_, fun hst => ?_⟩
  · unfold BandRecord.spoiled
    split <;> rfl
  · unfold BandRecord.spoiled at hst
    split at hst
    · simp at hst
    · exact hst

theorem HandleView.Fits.of_kept {v w : HandleView} {chain : Nat → List Nat} (h : v.Fits chain)
    (hbands : BandsKept v.entry.bands w.entry.bands) (hservants : w.servants ⊆ v.servants) : w.Fits chain := by
  refine ⟨fun b r hr => ?_, fun r hr hst => ?_, fun b hb p hp => ?_⟩
  · obtain ⟨q, hq, hhead, -⟩ := hbands.record b r hr
    exact hhead.trans (h.head b q hq)
  · obtain ⟨b, hb⟩ := List.mem_iff_getElem?.1 hr
    obtain ⟨q, hq, hhead, hstate⟩ := hbands.record b r hb
    exact hhead.trans (h.bare q (List.mem_of_getElem? hq) (hstate hst))
  · exact h.tail b (hbands.length ▸ hb) p (hservants hp)

section
variable {s : State} {pool : List Nat} {chain : Nat → Nat → List Nat} (hs : PoolHolds s pool chain)
include hs

/-- The law carries over where the pool, the links and the lengths of the entries stay. -/
theorem PoolHolds.rewritten {t : State} (hsame : t.psc.samePool s.psc) (hsize : t.psc.poolSize = s.psc.poolSize)
    (hlength : t.pdir.entries.length = s.pdir.entries.length)
    (hbands : ∀ g, (entry t g).bands.length = (entry s g).bands.length) (hfits : ∀ g, (handleView t g).Fits (chain g)) :
    PoolHolds t pool chain := by
  refine ⟨(hsame.poolIs_iff pool).2 hs.isPool, fun g b hb => (hsame.linked_iff _).2 (hs.linked g b (hbands g ▸ hb)), hfits,
    ?_, hsize ▸ hs.size⟩
  have hall : allChains t chain = allChains s chain := by simp only [allChains, hlength, hbands]
  rw [hall, hsize]
  exact hs.blocks

theorem PoolHolds.of_view_eq {t : State} (hview : storeView t = storeView s) : PoolHolds t pool chain := by
  simp only [storeView, StoreView.mk.injEq] at hview
  obtain ⟨-, hdirectory, -, -, -, hsize, hlinks, hhead, htail, hcount⟩ := hview
  have hviews (g : Nat) := handleView_of_view_eq hdirectory g
  refine hs.rewritten ⟨hlinks, hhead, htail, hcount⟩ hsize (congrArg (fun v => v.entries.length) hdirectory)
    (fun g => congrArg (fun v => v.entry.bands.length) (hviews g)) fun g => ?_
  rw [hviews]
  exact hs.fits g

theorem PoolHolds.setEntry {h : Nat} {e : Entry} (hbands : BandsKept (entry s h).bands e.bands) :
    PoolHolds (setEntry h e s) pool chain := by
  by_cases hh : h < s.pdir.entries.length
  · refine hs.rewritten ⟨rfl, rfl, rfl, rfl⟩ rfl (by simp) (fun g => ?_) fun g => ?_
    · by_cases hg : g = h
      · rw [hg, entry_setEntry_self hh, hbands.length]
      · rw [entry_setEntry_other hg]
    · by_cases hg : g = h
      · subst hg
        rw [handleView_setEntry hh]
        exact (hs.fits g).of_kept hbands (fun _ hp => hp)
      · rw [setEntry_changedAt h e s g hg]
        exact hs.fits g
  · rwa [setEntry_out_of_range (Nat.le_of_not_lt hh)]

/-- The law carries over the writing of a context that holds the tails of the bands it covers. -/
theorem PoolHolds.setContext {i : Nat} {o : Option Context} (htails : ∀ d, o = some d → ∀ b,
    b < (entry s d.handle).bands.length → d.covers b = true → (d.progress b).tail = (chain d.handle b).getLast?) :
    PoolHolds (setContext i o s) pool chain := by
  refine hs.rewritten ⟨rfl, rfl, rfl, rfl⟩ rfl rfl (fun g => rfl) fun g => ?_
  refine ⟨(hs.fits g).head, (hs.fits g).bare, fun b hb p hp hcovers => ?_⟩
  obtain ⟨hc, hh⟩ := hp
  simp only [Machine.setContext, List.getElem?_set] at hc
  split at hc
  · split at hc
    · subst hh
      exact htails p.2 (Option.some.inj hc) b hb hcovers
    · cases hc
  · exact (hs.fits g).tail b hb p ⟨hc, hh⟩ hcovers

end

end Sys2Proof.Machine


/-! Receptions and repairs end, entries are released, retired, bound and unbound, and the pool law holds (R35, R44, R52, R56,
R58, R59, R65). -/

namespace Sys2Proof.Machine

/-- The pool law holds, and no entry is served by two contexts. -/
structure ChainsHeld (s : State) : Prop where
  holds : ∃ pool chain, PoolHolds s pool chain
  one : ∀ h, (servants s.prx.contexts h).Subsingleton

theorem servants_subsingleton_of_changedAt {s t : State} {h : Nat} (hs : ∀ g, (servants s.prx.contexts g).Subsingleton)
    (hchanged : ChangedAt h s t) (hself : servants t.prx.contexts h = ∅) (g : Nat) :
    (servants t.prx.contexts g).Subsingleton := by
  by_cases hg : g = h
  · rw [hg, hself]
    exact Set.subsingleton_empty
  · rw [show servants t.prx.contexts g = _ from congrArg HandleView.servants (hchanged g hg)]
    exact hs g

/-! ## The ends of receptions and repairs, and releases -/

/-- R35, R44: the open bands' chains return, and no context is left. -/
theorem ChainsHeld.missed {s t : State} {h : Nat} (hs : ChainsHeld s) (hchanged : ChangedAt h s t)
    (hlength : t.pdir.entries.length = s.pdir.entries.length) (hsize : t.psc.poolSize = s.psc.poolSize)
    {p : Psc} (hsame : p.samePool s.psc) (hpsc : t.psc = p.returnChains (entry s h).openChains)
    (hbands : (entry t h).bands = (entry s h).bands.map BandRecord.missed) (hservants : servants t.prx.contexts h = ∅) :
    ChainsHeld t := by
  obtain ⟨⟨pool, chain, hholds⟩, hone⟩ := hs
  have hfits := hholds.fits h
  have hcount : (entry t h).bands.length = (entry s h).bands.length := by rw [hbands, List.length_map]
  have hheads := hpsc.trans (congrArg p.returnChains (map_filter_eq_range (l := (entry s h).bands) (p := BandRecord.isOpen)
    (f := BandRecord.head) (g := fun b => (chain h b).head?) hfits.head))
  have hrecord {b : Nat} {r : BandRecord} (hr : (entry t h).bands[b]? = some r) :
      ∃ q, (entry s h).bands[b]? = some q ∧ q.missed = r := by
    rwa [hbands, List.getElem?_map, Option.map_eq_some_iff] at hr
  refine ⟨hholds.returned hchanged hlength hsize hsame _ hheads (Nat.le_of_eq hcount) ⟨fun b r hr => ?_, fun r hr hst => ?_,
    fun b hb x hx => ?_⟩ (by rw [HandleView.blocks]; exact congrArg (fun n => (List.range n).flatMap _) hcount),
    servants_subsingleton_of_changedAt hone hchanged hservants⟩
  · obtain ⟨q, hq, rfl⟩ := hrecord hr
    by_cases hopen : q.isOpen = true
    · simp [hq, hopen, BandRecord.missed, isOpen_iff.1 hopen]
    · have hclosed : ¬(q.state = .expected ∨ q.state = .arriving) := fun h => hopen (isOpen_iff.2 h)
      simp only [hq, hopen, Option.any_some, Bool.false_eq_true, if_false, BandRecord.missed, if_neg hclosed]
      exact hfits.head b q hq
  · obtain ⟨b, hb⟩ := List.mem_iff_getElem?.1 hr
    obtain ⟨q, hq, rfl⟩ := hrecord hb
    unfold BandRecord.missed at hst ⊢
    split
    · rfl
    · rename_i hclosed
      rw [if_neg hclosed] at hst
      exact hfits.bare q (List.mem_of_getElem? hq) hst
  · rw [show (handleView t h).servants = ∅ from hservants] at hx
    exact hx.elim

theorem samePool_emptyChunkOf (h : Nat) (s : State) : (emptyChunkOf h s).psc.samePool s.psc := by simp [Psc.samePool]

/-- R44: an open repair ends. -/
theorem ChainsHeld.endRepair {s : State} {h : Nat} (hs : ChainsHeld s) (hh : h < s.pdir.entries.length)
    (note : Option PageEvent) : ChainsHeld (endRepair h note s) := by
  have hview := handleView_endRepair hh note (hs.one h)
  refine hs.missed (endRepair_changedAt hh note) (by simp) (by simp) (samePool_emptyChunkOf h s) ?_
    (congrArg (fun v => v.entry.bands) hview) (congrArg HandleView.servants hview)
  rw [endRepair_eq hh note]

/-- R59: an entry is released with every chain. -/
theorem ChainsHeld.releaseEntry {s : State} (hs : ChainsHeld s) (h : Nat) (cause : ReleaseCause) :
    ChainsHeld (releaseEntry h cause s) := by
  have hview := handleView_releaseEntry cause (hs.one h)
  have hchanged := releaseEntry_changedAt h cause s
  obtain ⟨⟨pool, chain, hholds⟩, hone⟩ := hs
  have hbands : (entry (Machine.releaseEntry h cause s) h).bands = [] := congrArg (fun v => v.entry.bands) hview
  have hservants : servants (Machine.releaseEntry h cause s).prx.contexts h = ∅ := congrArg HandleView.servants hview
  refine ⟨hholds.returned (p := (emptyChunkOf h s).psc) hchanged (by simp) (by simp) (samePool_emptyChunkOf h s)
    (fun _ => true) ?_ (by simp [hbands]) ?_ ?_, servants_subsingleton_of_changedAt hone hchanged hservants⟩
  · have hheads := map_filter_eq_range (l := (entry s h).bands) (p := fun _ => true) (f := BandRecord.head)
      (g := fun b => (chain h b).head?) (hholds.fits h).head
    have hall : (List.range (entry s h).bands.length).filter (fun b => (entry s h).bands[b]?.any fun _ => true) =
        (List.range (entry s h).bands.length).filter fun _ => true :=
      List.filter_congr fun b hb => by simp [List.mem_range.1 hb]
    rw [hall, List.filter_true] at hheads
    rw [(releaseEntry_eq h cause s).2, ← hheads]
    rfl
  · rw [hview]
    exact ⟨by simp [Entry.empty], by simp [Entry.empty], by simp [Entry.empty]⟩
  · rw [hview]
    simp [HandleView.blocks, Entry.empty]

theorem ChainsHeld.setEntry {s : State} (hs : ChainsHeld s) {h : Nat} {e : Entry}
    (hbands : BandsKept (entry s h).bands e.bands) : ChainsHeld (setEntry h e s) := by
  obtain ⟨⟨pool, chain, hholds⟩, hone⟩ := hs
  exact ⟨⟨pool, chain, hholds.setEntry hbands⟩, hone⟩

theorem ChainsHeld.setEntry_same {s : State} (hs : ChainsHeld s) {h : Nat} {e : Entry}
    (hbands : e.bands = (entry s h).bands) : ChainsHeld (Machine.setEntry h e s) :=
  hs.setEntry (hbands ▸ BandsKept.refl _)

theorem ChainsHeld.of_view_eq {s t : State} (hs : ChainsHeld s) (hview : storeView t = storeView s) : ChainsHeld t := by
  obtain ⟨⟨pool, chain, hholds⟩, hone⟩ := hs
  refine ⟨⟨pool, chain, hholds.of_view_eq hview⟩, fun h => ?_⟩
  rw [show t.prx.contexts = s.prx.contexts from congrArg (fun v => v.directory.contexts) hview]
  exact hone h

theorem ChainsHeld.noteEntry {s : State} (hs : ChainsHeld s) (ev : PageEvent) (h : Nat) : ChainsHeld (noteEntry ev h s) :=
  hs.of_view_eq rfl

theorem ChainsHeld.repairEndedFirst {s : State} {h : Nat} (hs : ChainsHeld s) (hh : h < s.pdir.entries.length)
    (note : Option PageEvent) : ChainsHeld (repairEndedFirst h note s) := holds_ite hs (hs.endRepair hh note)

/-- R52: a retired entry. -/
theorem ChainsHeld.retire {s : State} {h : Nat} (hs : ChainsHeld s) (hh : h < s.pdir.entries.length) (by_ : Nat) :
    ChainsHeld (retire by_ h s) := by
  rw [retire_unfold]
  have hended := hs.repairEndedFirst hh none
  have hretired := hended.setEntry_same (h := h)
    (e := { entry (Machine.repairEndedFirst h none s) h with state := .superseded }) rfl
  exact holds_ite ((hretired.noteEntry _ h).releaseEntry h .superseded) (hretired.noteEntry _ h)

/-- R52, R53: every older closed version is retired. -/
theorem ChainsHeld.supersede {s : State} (hs : ChainsHeld s) (by_ : Nat) : ChainsHeld (supersede by_ s) := by
  refine List.foldlRecOn (motive := ChainsHeld) _ _ hs fun t ht h _ => ?_
  unfold retireIfOlder
  split
  · rename_i hold
    obtain ⟨-, hclosed, -⟩ := hold
    exact ht.retire (handle_lt_of_closed hclosed) by_
  · exact ht

/-- R35: a reception ends, and what it supersedes is retired. -/
theorem ChainsHeld.closeReception {s : State} {h : Nat} (hs : ChainsHeld s) (hh : h < s.pdir.entries.length)
    (ev : PageEvent) (byOpen : Bool) : ChainsHeld (closeReception ev byOpen h s) := by
  obtain ⟨-, -, hclose⟩ := closeReception_spec ev byOpen h s hh
  rw [hclose]
  have hclosed (e : Entry) (l : Lp) (he : e.bands = (entry s h).bands.map BandRecord.missed) : ChainsHeld { s with
      psc := s.psc.returnChains (entry s h).openChains
      pdir := { s.pdir with entries := s.pdir.entries.set h e }
      prx := { s.prx with contexts := freedContexts s h }
      lp := l } := by
    refine hs.missed (h := h) (p := s.psc) (changedAt_of_parts (fun g hg => ?_) (fun g hg => servants_freedContexts_other hg)
      fun _ _ => rfl) (by simp) ?_ ⟨rfl, rfl, rfl, rfl⟩ rfl ?_ (servants_freedContexts_self (hs.one h))
    · exact (entry_of_entries rfl hh).trans (if_neg hg)
    · obtain ⟨haside, -⟩ := returnChains_spec (entry s h).openChains s.psc
      obtain ⟨-, -, -, hsize, -⟩ := poolAside_fields haside
      exact hsize
    · rw [entry_of_entries rfl hh, if_pos rfl, he]
  exact holds_ite ((hclosed _ _ rfl).releaseEntry h _) ((hclosed _ _ rfl).supersede h)

theorem ChainsHeld.closeEntry {s : State} {h : Nat} (hs : ChainsHeld s) (hh : h < s.pdir.entries.length) (ev : PageEvent) :
    ChainsHeld (closeEntry ev h s) := holds_ite (hs.closeReception hh ev false) (hs.endRepair hh _)

/-- R23: the older reception of a key. -/
theorem ChainsHeld.closeOlder {s : State} (hs : ChainsHeld s) (k : PageKey) :
    ChainsHeld (closeOlder (olderReception s k) s) := by
  cases holder : olderReception s k with
  | none => exact hs
  | some h =>
    obtain ⟨hh, -⟩ := List.findIdx?_eq_some_iff_getElem.1 holder
    exact hs.closeReception hh _ _

/-! ## Binding, unbinding and store damage -/

/-- R56: an entry is bound. -/
theorem ChainsHeld.bindEntry {s : State} {h : Nat} (hs : ChainsHeld s) (hh : h < s.pdir.entries.length) :
    ChainsHeld (bindEntry s h) := by
  rw [bindEntry_eq hh]
  exact (hs.repairEndedFirst hh _).setEntry_same rfl

/-- R65: an entry's GOOD bands are marked. -/
theorem ChainsHeld.markStore {s : State} (hs : ChainsHeld s) (h : Nat) : ChainsHeld (markStore h s) := by
  by_cases hh : h < s.pdir.entries.length
  · rw [markStore_eq hh]
    refine holds_ite hs ?_
    exact (hs.setEntry (e := (entry s h).marked) (BandsKept.spoiled _)).of_view_eq rfl
  · have hnone : (entry s h).bands.countP (fun r => r.state == .good) = 0 := by
      rw [entry_default (Nat.le_of_not_lt hh)]
      rfl
    rwa [show Machine.markStore h s = s from if_pos hnone]

/-- R58, R66: an entry is unbound. -/
theorem ChainsHeld.unbindEntry {s : State} (hs : ChainsHeld s) (h : Nat) : ChainsHeld (unbindEntry s h) := by
  have hfewer := hs.setEntry_same (h := h) (e := { entry s h with refs := (entry s h).refs - 1 }) rfl
  unfold Machine.unbindEntry
  dsimp only
  refine holds_ite (hfewer.releaseEntry h _) (holds_ite (ChainsHeld.markStore ?_ h) hfewer)
  exact hfewer.setEntry_same rfl

/-- R65: a merged refresh's share of an entry. -/
theorem ChainsHeld.damageEntry {s : State} (hs : ChainsHeld s) (h : Nat) : ChainsHeld (damageEntry s h) :=
  holds_ite hs (holds_ite (hs.markStore h) (hs.setEntry_same rfl))

theorem ChainsHeld.damageStore {s : State} (hs : ChainsHeld s) : ChainsHeld (damageStore s) :=
  List.foldlRecOn _ _ hs fun _ ht h _ => ht.damageEntry h

end Sys2Proof.Machine


/-! Bursts end, receptions open, chunks are placed and repairs open, and the pool law holds (R25, R28, R29, R34, R41). -/

namespace Sys2Proof.Machine

/-! ## The end of a burst (R29, R34, R42, R43) -/

theorem Context.progress_without {c : Context} {a b : Nat} (hab : a ≠ b) : (c.without b).progress a = c.progress a := by
  have hfind : (c.bands.filter (fun q => q.band != b)).find? (fun p => p.band == a) =
      c.bands.find? (fun p => p.band == a) := by
    rw [List.find?_filter]
    congr 1
    funext p
    by_cases hp : p.band = a
    · simp [hp, hab]
    · simp [hp]
  simp only [Context.progress, Context.without, hfind]

theorem storeView_prxPump (s : State) : storeView (prxPump s) = storeView s := by
  simp [storeView, directoryView_prxPump]

section
variable {s : State} {pool : List Nat} {chain : Nat → Nat → List Nat} (hs : PoolHolds s pool chain)
include hs

theorem PoolHolds.setChunk (o : Option Chunk) : PoolHolds { s with prx := { s.prx with chunk := o } } pool chain :=
  hs.rewritten ⟨rfl, rfl, rfl, rfl⟩ rfl rfl (fun _ => rfl) fun g => (hs.fits g).of_kept (BandsKept.refl _) fun _ hp => hp

theorem PoolHolds.noteEntry (ev : PageEvent) (h : Nat) : PoolHolds (noteEntry ev h s) pool chain := hs.of_view_eq rfl

/-- R34, R42, R43: a judged band leaves its context and keeps its chain. -/
theorem PoolHolds.completeBand (i h b : Nat) : PoolHolds (completeBand i h b s) pool chain := by
  cases hc : contextAt s i with
  | none => rwa [show Machine.completeBand i h b s = s by simp [Machine.completeBand, hc]]
  | some c =>
    cases hr : bandOf s h b with
    | none => rwa [show Machine.completeBand i h b s = s by simp [Machine.completeBand, hc, hr]]
    | some r =>
      have hleft : PoolHolds (Machine.setContext i (some (c.without b)) s) pool chain := by
        refine hs.setContext fun d hd a ha hcovers => ?_
        obtain rfl := Option.some.inj hd
        obtain ⟨hcovers', hab⟩ := (c.covers_without b a).1 hcovers
        rw [Context.progress_without hab]
        exact (hs.fits c.handle).tail a ha (i, c) ⟨contextAt_eq_some.1 hc, rfl⟩ hcovers'
      cases hmode : c.mode with
      | reception =>
        rw [completeBand_reception hc hr hmode]
        refine hleft.setEntry (BandsKept.set hr rfl ?_)
        cases bandVerdict (c.progress b) r <;> simp [BandRecord.judged]
      | repair =>
        cases hv : bandVerdict (c.progress b) r with
        | some cause =>
          rw [completeBand_damaged_again hc hr hmode hv]
          exact hleft.setEntry (BandsKept.set hr rfl (by simp))
        | none =>
          have hgood {t : State} (ht : PoolHolds t pool chain) (e : Entry) (hband : bandOf t h b = some r)
              (he : e.bands = (entry t h).bands.set b { r with state := .good, cause := none }) :
              PoolHolds (Machine.setEntry h e t) pool chain :=
            ht.setEntry (he ▸ BandsKept.set hband rfl (by simp))
          rw [completeBand_repaired hc hr hmode hv]
          split
          · exact (PoolHolds.setContext (hgood hs _ hr rfl) (by simp)).noteEntry .repaired h
          · exact hgood hleft _ hr rfl

/-- R29: a chunk buffer that has drained. -/
theorem PoolHolds.drainChunk (k : Chunk) : PoolHolds (drainChunk k s) pool chain := by
  have hempty := hs.setChunk none
  unfold Machine.drainChunk
  dsimp only
  split
  · exact hempty
  · rename_i i _
    have hrestarted : PoolHolds (match contextAt { s with prx := { s.prx with chunk := none } } i with
        | some x => Machine.setContext i (some { x with running := true }) { s with prx := { s.prx with chunk := none } }
        | none => { s with prx := { s.prx with chunk := none } }) pool chain := by
      split
      · rename_i c hc
        refine hempty.setContext fun d hd b hb hcovers => ?_
        obtain rfl := Option.some.inj hd
        exact (hempty.fits c.handle).tail b hb (i, c) ⟨contextAt_eq_some.1 hc, rfl⟩ hcovers
      · exact hempty
    exact holds_ite (P := fun t => PoolHolds t pool chain) (hrestarted.completeBand ..) hrestarted

/-- R29, R46: a link-write burst's end. -/
theorem PoolHolds.prxBurstDone (stale : Bool) : PoolHolds (prxBurstDone stale s) pool chain := by
  have hpump := hs.of_view_eq (storeView_prxPump s)
  unfold Machine.prxBurstDone
  refine holds_ite (P := fun t => PoolHolds t pool chain) hpump ?_
  split
  · exact holds_ite (P := fun t => PoolHolds t pool chain) (hs.drainChunk _) hpump
  · exact hs

end

/-! ## The opening of a reception (R25) -/

theorem Context.progress_openedContext (h n b : Nat) : ((openedContext h n).progress b).tail = none := by
  unfold Context.progress openedContext
  cases hfind : ((List.range n).map fun b => (⟨b, 0, none, Scan.start⟩ : BandProgress)).find? (fun p => p.band == b) with
  | none => rfl
  | some p =>
    obtain ⟨a, -, rfl⟩ := List.mem_map.1 (List.mem_of_find?_eq_some hfind)
    rfl

/-- R25: a new entry's bands have no chains. -/
theorem PoolHolds.createEntry {s t : State} {pool : List Nat} {chain : Nat → Nat → List Nat} (hs : PoolHolds s pool chain)
    (hsound : directorySound s) {x : ParcelHeader} {h : Nat} (hcreate : createEntry x s = some (h, t)) :
    ∃ chain, PoolHolds t pool chain := by
  unfold Machine.createEntry at hcreate
  split at hcreate
  · rename_i g i hempty hfree
    obtain ⟨rfl, rfl⟩ := Prod.mk.inj (Option.some.inj hcreate)
    obtain ⟨hg, hstate, -⟩ := List.findIdx?_eq_some_iff_getElem.1 hempty
    obtain ⟨hi, hnone, -⟩ := List.findIdx?_eq_some_iff_getElem.1 hfree
    have hentry : entry s g = Entry.empty := by
      have hst : (entry s g).state = .empty := by
        rw [entry, List.getD_eq_getElem _ _ hg]
        simpa using hstate
      exact (entrySound_empty hst).1 (((directorySound_iff s).1 hsound).1 g).entry
    have hunserved : servants s.prx.contexts g = ∅ := Set.eq_empty_iff_forall_notMem.2 fun p hp => by
      have hfits := ((((directorySound_iff s).1 hsound).1 g).fits p hp).1
      simp [handleView, hentry, Entry.empty] at hfits
    have hold : ∀ d, s.prx.contexts[i]? = some (some d) → d.handle = g := fun d hd => by
      rw [List.getElem?_eq_getElem hi, Option.isNone_iff_eq_none.1 hnone] at hd
      cases hd
    set e := openedEntry x (nextStamp s.pdir.counter)
    set c := openedContext g x.descriptors.length
    set t := Machine.setContext i (some c) (Machine.setEntry g e { s with
      pdir := { s.pdir with counter := nextStamp s.pdir.counter } }) with ht
    have hnew : ∀ d, some c = some d → d.handle = g := fun d hd => Option.some.inj hd ▸ rfl
    have hchanged : ChangedAt g s t := changedAt_of_written hg rfl rfl hold hnew fun _ _ => rfl
    have hview : handleView t g = ⟨e, {p | p.1 = i ∧ some c = some p.2}, chunkOf t g⟩ :=
      handleView_of_written hg rfl rfl hi (by simp [hunserved]) hnew
    refine ⟨_, hs.change (new := fun _ => []) hchanged (by simp [t]) rfl hs.isPool (fun _ _ => trivial) ?_ (fun _ _ => rfl) ?_⟩
    · rw [hview]
      refine ⟨fun b r hr => ?_, fun r hr _ => ?_, fun b _ p hp _ => ?_⟩
      · obtain ⟨d, -, rfl⟩ := List.mem_map.1 (List.mem_of_getElem? hr)
        rfl
      · obtain ⟨d, -, rfl⟩ := List.mem_map.1 hr
        rfl
      · obtain ⟨-, hp⟩ := hp
        rw [← Option.some.inj hp]
        exact Context.progress_openedContext ..
    · have hnothing : (handleView s g).blocks (chain g) = [] := by rw [HandleView.blocks, handleView, hentry]; rfl
      have hnone : (handleView t g).blocks (fun _ => []) = [] := List.flatMap_eq_nil_iff.2 fun _ _ => rfl
      rw [hnothing, hnone]
  · cases hcreate

end Sys2Proof.Machine


/-! A chunk takes a block, and the pool law holds (R28, R71). -/

namespace Sys2Proof.Machine

theorem Context.progress_grown {c : Context} {b : Nat} {p : BandProgress} (hp : p.band = b) (hcovers : c.covers b = true)
    (a : Nat) : (c.grown b p).progress a = if a = b then p else c.progress a := by
  have hfind : ((c.bands.map fun q => if q.band = b then p else q).find? fun q => q.band == a) =
      (c.bands.find? fun q => q.band == a).map fun q => if q.band = b then p else q := by
    rw [List.find?_map]
    congr 2
    funext q
    by_cases hq : q.band = b <;> simp [hq, hp]
  simp only [Context.progress, Context.grown, hfind]
  cases hq : c.bands.find? fun q => q.band == a with
  | none =>
    have hab : a ≠ b := fun hab => by
      subst hab
      obtain ⟨q, hmem, hband⟩ := List.any_eq_true.1 hcovers
      exact List.find?_eq_none.1 hq q hmem hband
    simp [hab]
  | some q =>
    have hband : q.band = a := by simpa using List.find?_some hq
    simp only [Option.map_some, Option.getD_some, hband]

theorem flatMap_ite_eq {α : Type} {n b : Nat} (hb : b < n) (l : List α) :
    (List.range n).flatMap (fun a => if a = b then l else []) = l := by
  have hunless := flatMap_unless (fun a => !decide (a = b)) (fun _ => l) (List.range n)
  simp only [Bool.not_not, filter_range_eq, if_pos hb, List.flatMap_cons, List.flatMap_nil, List.append_nil] at hunless
  refine Eq.trans (List.flatMap_congr fun a _ => ?_) hunless
  by_cases hab : a = b <;> simp [hab]

theorem head?_grown (o new : Option Nat) {l : List Nat} (ho : o = l.head?) : o.or new = (l ++ new.toList).head? := by
  subst ho
  cases l <;> cases new <;> rfl

theorem getLast?_grown (o new : Option Nat) {l : List Nat} (ho : o = l.getLast?) : new.or o = (l ++ new.toList).getLast? := by
  subst ho
  cases new <;> simp

/-- R28, R30: the chain of the band that takes a chunk, with the block lent for it behind. -/
theorem HandleView.Fits.grown {v : HandleView} {chain : Nat → List Nat} (hfits : v.Fits chain) {i b n width : Nat}
    {c : Context} {r : BandRecord} {new : Option Nat} {bs : List Byte} {o : Option (Nat × Bool)} (hc : (i, c) ∈ v.servants)
    (hcovers : c.covers b = true) (hr : v.entry.bands[b]? = some r) (hopen : r.isOpen = true) :
    HandleView.Fits ⟨{ v.entry with bands := v.entry.bands.set b (r.grown n new) },
      {x | x.1 = i ∧ some (c.grown b ((c.progress b).grown b width new bs)) = some x.2}, o⟩
      (fun a => chain a ++ if a = b then new.toList else []) := by
  have hb : b < v.entry.bands.length := (List.getElem?_eq_some_iff.1 hr).1
  refine ⟨fun a q hq => ?_, fun q hq hst => ?_, fun a ha x hx hcovers' => ?_⟩
  · by_cases hab : a = b
    · subst hab
      obtain rfl := Option.some.inj ((List.getElem?_set_self hb).symm.trans hq)
      rw [if_pos rfl]
      exact head?_grown _ _ (hfits.head a r hr)
    · rw [show (v.entry.bands.set b (r.grown n new))[a]? = _ from List.getElem?_set_ne (Ne.symm hab)] at hq
      rw [if_neg hab, List.append_nil]
      exact hfits.head a q hq
  · rcases mem_set_cases hq with hq | rfl
    · exact hfits.bare q hq hst
    · rw [BandRecord.grown_arriving hopen] at hst
      simp at hst
  · obtain ⟨-, hx⟩ := hx
    rw [← Option.some.inj hx] at hcovers' ⊢
    rw [c.covers_grown b ((c.progress b).grown b width new bs) rfl] at hcovers'
    rw [Context.progress_grown (b := b) (p := (c.progress b).grown b width new bs) rfl hcovers]
    have ha' : a < v.entry.bands.length := by simpa using ha
    have hold := hfits.tail a ha' (i, c) hc hcovers'
    by_cases hab : a = b
    · subst hab
      rw [if_pos rfl, if_pos rfl]
      exact getLast?_grown _ _ hold
    · rw [if_neg hab, if_neg hab, List.append_nil]
      exact hold

section
variable {s : State} {pool : List Nat} {chain : Nat → Nat → List Nat} (hs : PoolHolds s pool chain)
include hs

/-- R73: the chains of an entry's bands share no block. -/
theorem PoolHolds.bands_apart {h a b x : Nat} (ha : a < (entry s h).bands.length) (hb : b < (entry s h).bands.length)
    (hne : a ≠ b) (hx : x ∈ chain h a) : x ∉ chain h b := by
  obtain ⟨hown, -, -⟩ := List.nodup_append.1 (hs.nodup_at h)
  obtain ⟨-, hblocks, -⟩ := List.nodup_append.1 hown
  obtain ⟨-, hpairs⟩ := List.nodup_flatMap.1 hblocks
  have hdisjoint {a b : Nat} (ha : a < (entry s h).bands.length) (hb : b < (entry s h).bands.length) (hab : a < b) :
      List.Disjoint (chain h a) (chain h b) := by
    have hpair := List.pairwise_iff_getElem.1 hpairs a b (by rwa [List.length_range]) (by rwa [List.length_range]) hab
    simpa [Function.onFun] using hpair
  rcases Nat.lt_or_gt_of_ne hne with hab | hab
  · exact fun hx' => hdisjoint ha hb hab hx hx'
  · exact fun hx' => hdisjoint hb ha hab hx' hx

theorem PoolHolds.chain_nodup {h b : Nat} (hb : b < (entry s h).bands.length) : (chain h b).Nodup := by
  obtain ⟨hown, -, -⟩ := List.nodup_append.1 (hs.nodup_at h)
  obtain ⟨-, hblocks, -⟩ := List.nodup_append.1 hown
  exact (List.nodup_flatMap.1 hblocks).1 b (List.mem_range.2 hb)

theorem PoolHolds.not_in_pool {h b x : Nat} (hb : b < (entry s h).bands.length) (hx : x ∈ chain h b) : x ∉ pool := by
  obtain ⟨hown, -, -⟩ := List.nodup_append.1 (hs.nodup_at h)
  obtain ⟨-, -, hapart⟩ := List.nodup_append.1 hown
  exact fun hmem => hapart x hmem x (List.mem_flatMap.2 ⟨b, List.mem_range.2 hb, hx⟩) rfl

/-- R28, R71: the law carries over a chunk that goes on in its band's last block or, behind it, in the pool's head block. -/
theorem PoolHolds.chunkHeld {i : Nat} {k : Chunk} {c : Context} {r : BandRecord} {new : Option Nat} {psc : Psc}
    {pool' : List Nat} (hc : (i, c) ∈ servants s.prx.contexts k.handle) (hone : (servants s.prx.contexts k.handle).Subsingleton)
    (hnone : s.prx.chunk = none) (hcovers : c.covers k.band = true) (hr : bandOf s k.handle k.band = some r)
    (hopen : r.isOpen = true) (hpool : psc.poolIs pool') (hnew : pool = new.toList ++ pool')
    (hsize : psc.poolSize = s.psc.poolSize) (hlinked : psc.linked (chain k.handle k.band ++ new.toList))
    (hothers : ∀ x, x ∉ pool → x ∉ chain k.handle k.band → psc.link x = s.psc.link x) :
    ∃ pool chain, PoolHolds (chunkHeld i k c r new psc s) pool chain := by
  set h := k.handle
  set b := k.band
  set t := Machine.chunkHeld i k c r new psc s with ht
  set e : Entry := { entry s h with bands := (entry s h).bands.set b (r.grown k.bytes.length new) } with he
  set d := c.grown b ((c.progress b).grown b (entry s h).width new k.bytes)
  have hb : b < (entry s h).bands.length := (List.getElem?_eq_some_iff.1 hr).1
  have hh : h < s.pdir.entries.length := handle_lt_of_band hr
  have hhandle : ∀ x, some d = some x → x.handle = h := fun x hx => Option.some.inj hx ▸ hc.2
  have hold : ∀ x, s.prx.contexts[i]? = some (some x) → x.handle = h := fun x hx => by
    rw [hc.1] at hx
    exact Option.some.inj (Option.some.inj hx) ▸ hc.2
  have hchanged : ChangedAt h s t := changedAt_of_written hh rfl rfl hold hhandle fun g hg => by
    rw [chunkOf_none hnone]
    exact if_neg (Ne.symm hg)
  have hview : handleView t h = ⟨e, {x | x.1 = i ∧ some d = some x.2}, chunkOf t h⟩ :=
    handleView_of_written hh rfl rfl (List.getElem?_eq_some_iff.1 hc.1).1 (fun x hx => congrArg Prod.fst (hone hx hc)) hhandle
  have hbands : (entry t h).bands.length = (entry s h).bands.length := by
    rw [show entry t h = e from congrArg HandleView.entry hview]
    exact List.length_set
  set chain' : Nat → List Nat := fun a => chain h a ++ if a = b then new.toList else [] with hchain'
  have hperm : (pool' ++ (handleView t h).blocks chain').Perm (pool ++ (handleView s h).blocks (chain h)) := by
    have happend := List.flatMap_append_perm (List.range (entry s h).bands.length) (chain h)
      fun a => if a = b then new.toList else []
    rw [flatMap_ite_eq hb] at happend
    have hblocks : (handleView t h).blocks chain' = (List.range (entry s h).bands.length).flatMap chain' :=
      congrArg (fun n => (List.range n).flatMap chain') hbands
    rw [hblocks, hnew, List.append_assoc]
    refine (happend.symm.append_left pool').trans ?_
    rw [← List.append_assoc]
    exact List.perm_append_comm
  refine ⟨_, _, hs.change hchanged (by simp [t, Machine.chunkHeld]) hsize hpool (fun a ha => ?_)
    (hview ▸ (hs.fits h).grown hc hcovers hr hopen) (fun x hx => ?_) hperm⟩
  · rw [hbands] at ha
    show psc.linked (chain h a ++ if a = b then new.toList else [])
    by_cases hab : a = b
    · rw [if_pos hab, hab]
      exact hlinked
    · rw [if_neg hab, List.append_nil,
        linked_of_agree fun x hx => hothers x (hs.not_in_pool ha hx) (hs.bands_apart ha hb hab hx)]
      exact hs.linked h a ha
  · obtain ⟨hp, hown⟩ := not_or.1 (List.mem_append.not.1 hx)
    exact hothers x hp fun hmem => hown (List.mem_flatMap.2 ⟨b, List.mem_range.2 hb, hmem⟩)

/-- R28, R71: the law carries over the placing of a chunk of an open band. -/
theorem PoolHolds.placeChunk {t : State} {i h b offset : Nat} {last : Bool} {bs : List Byte} {c : Context} {r : BandRecord}
    (hc : (i, c) ∈ servants s.prx.contexts h) (hone : (servants s.prx.contexts h).Subsingleton)
    (hnone : s.prx.chunk = none) (hcovers : c.covers b = true) (hr : bandOf s h b = some r) (hopen : r.isOpen = true)
    (hplaced : placeChunk i h b offset last bs s = some t) : ∃ pool chain, PoolHolds t pool chain := by
  have hb : b < (entry s h).bands.length := (List.getElem?_eq_some_iff.1 hr).1
  have htail : (c.progress b).tail = (chain h b).getLast? := (hs.fits h).tail b hb (i, c) hc hcovers
  have hpump {u : State} (hu : ∃ pool chain, PoolHolds u pool chain) : ∃ pool chain, PoolHolds (prxPump u) pool chain := by
    obtain ⟨pool, chain, hu⟩ := hu
    exact ⟨pool, chain, hu.of_view_eq (storeView_prxPump u)⟩
  cases hneeded : needsBlock offset bs.length with
  | false =>
    have htake : takeBlock (needsBlock offset bs.length) (c.progress b).tail s = some (none, s) := by rw [hneeded]; rfl
    rw [placeChunk_eq (contextAt_eq_some.2 hc.1) hr htake] at hplaced
    obtain rfl := Option.some.inj hplaced
    refine hpump (hs.chunkHeld hc hone hnone hcovers hr hopen hs.isPool rfl rfl ?_ fun _ _ _ => rfl)
    rw [Option.toList_none, List.append_nil]
    exact hs.linked h b hb
  | true =>
    cases hpool : pool with
    | nil =>
      obtain ⟨-, -, hcount, -⟩ : s.psc.poolIs [] := hpool ▸ hs.isPool
      have hlend : s.psc.lend = none := lend_eq_none_of_empty hcount
      rw [(placeChunk_eq_none (contextAt_eq_some.2 hc.1) hr).2 ⟨hneeded, hlend⟩] at hplaced
      cases hplaced
    | cons block rest =>
      have hin : s.psc.poolIs (block :: rest) := hpool ▸ hs.isPool
      have hapart (x : Nat) (hx : x ∈ chain h b) : x ∉ block :: rest := hpool ▸ hs.not_in_pool hb hx
      obtain ⟨psc, htake, hrest, haside, hend, htailed, hothers⟩ := takeBlock_pool hin (tail := (c.progress b).tail)
        fun x hx => hapart x (List.mem_of_getLast? (htail.symm.trans hx))
      rw [← hneeded] at htake
      rw [placeChunk_eq (contextAt_eq_some.2 hc.1) hr htake] at hplaced
      obtain rfl := Option.some.inj hplaced
      obtain ⟨-, -, -, hsize, -⟩ := poolAside_fields haside
      have hagree (x : Nat) (hx : x ∉ pool) (hx' : x ∉ chain h b) : psc.link x = s.psc.link x := by
        rw [hpool] at hx
        exact hothers x (fun he => hx (he ▸ List.mem_cons_self ..)) fun he =>
          hx' (List.mem_of_getLast? (htail.symm.trans he))
      refine hpump (hs.chunkHeld hc hone hnone hcovers hr hopen hrest hpool hsize ?_ hagree)
      cases hlast : (chain h b).getLast? with
      | none =>
        rw [List.getLast?_eq_none_iff.1 hlast]
        exact hend
      | some x =>
        have hx := List.mem_of_getLast? hlast
        refine linked_snoc hlast (hs.chain_nodup hb) (hs.linked h b hb) (fun y hy hyx => ?_)
          (htailed x (htail.trans hlast)) hend
        exact hothers y (fun he => hapart y hy (he ▸ List.mem_cons_self ..)) fun he =>
          hyx (Option.some.inj (he.symm.trans (htail.trans hlast)))

end

end Sys2Proof.Machine


/-! A repair opens, a chunk is taken, and the pool law holds (R27, R28, R41). -/

namespace Sys2Proof.Machine

/-- R41: the law carries over a repair that opens, or that a band joins: the band's old chain returns. -/
theorem PoolHolds.repairOpened {s : State} {pool : List Nat} {chain : Nat → Nat → List Nat} (hs : PoolHolds s pool chain)
    {i h b : Nat} {r : BandRecord} {c : Context} (hr : bandOf s h b = some r)
    (hclosed : ∀ p ∈ servants s.prx.contexts h, p.2.covers b = false) (hhandle : c.handle = h)
    (hprogress : ∀ a, c.covers a = true → (a = b ∧ (c.progress a).tail = none) ∨
      ∃ p ∈ servants s.prx.contexts h, p.2.covers a = true ∧ p.2.progress a = c.progress a) :
    ∃ pool chain, PoolHolds (repairOpened i h b r c s) pool chain := by
  have hb : b < (entry s h).bands.length := (List.getElem?_eq_some_iff.1 hr).1
  have hh : h < s.pdir.entries.length := handle_lt_of_band hr
  set q : BandRecord := { r with state := .arriving, cause := none, received := 0, head := none } with hq
  set t : State := setBand h b q (returnChain r.head s).1 with ht
  have hentry : entry t h = { entry s h with bands := (entry s h).bands.set b q } := entry_setBand (s := (returnChain r.head s).1) hh
  have hbands : (entry t h).bands.length = (entry s h).bands.length := by
    rw [hentry]
    exact List.length_set
  have hview : handleView t h = ⟨{ entry s h with bands := (entry s h).bands.set b q }, servants s.prx.contexts h, chunkOf s h⟩ :=
    congrArg (fun e => HandleView.mk e _ _) hentry
  have hfits : (handleView t h).Fits fun a => if decide (a = b) then [] else chain h a := by
    rw [hview]
    refine ⟨fun a x hx => ?_, fun x hx hst => ?_, fun a ha p hp hcovers => ?_⟩
    · by_cases hab : a = b
      · subst hab
        obtain rfl := Option.some.inj ((List.getElem?_set_self hb).symm.trans hx)
        simp [hq]
      · rw [show ((entry s h).bands.set b q)[a]? = _ from List.getElem?_set_ne (Ne.symm hab)] at hx
        simpa [hab] using (hs.fits h).head a x hx
    · rcases mem_set_cases hx with hx | rfl
      · exact (hs.fits h).bare x hx hst
      · rfl
    · have hab : a ≠ b := fun hab => by
        rw [hab, hclosed p hp] at hcovers
        cases hcovers
      have ha' : a < (entry s h).bands.length := by simpa using ha
      simpa [hab] using (hs.fits h).tail a ha' p hp hcovers
  obtain ⟨-, -, -, hsize, -⟩ := poolAside_fields (returnChain_poolAside s.psc r.head)
  obtain ⟨pool', chain', hheld⟩ := hs.returned (t := t) (h := h) (p := s.psc) (setEntry_changedAt h _ _) (by simp [t]) hsize
    ⟨rfl, rfl, rfl, rfl⟩ (fun a => decide (a = b))
    (by rw [filter_range_eq, if_pos hb, List.map_singleton, ← (hs.fits h).head b r hr]; rfl)
    (Nat.le_of_eq hbands) hfits (congrArg (fun n => (List.range n).flatMap _) hbands)
  refine ⟨pool', chain', hheld.setContext fun d hd a ha hcovers => ?_⟩
  obtain rfl := Option.some.inj hd
  rw [hhandle] at ha ⊢
  rcases hprogress a hcovers with ⟨rfl, hnone⟩ | ⟨p, hp, hcovers', hsame⟩
  · have hbare := (hheld.fits h).head a q (by rw [hview]; exact List.getElem?_set_self hb)
    rw [hnone, List.head?_eq_none_iff.1 hbare.symm]
    rfl
  · rw [← hsame]
    exact (hheld.fits h).tail a ha p hp hcovers'

/-- R41: what a context holds of a band that joins it, and of its others. -/
theorem Context.progress_append (c : Context) (a b : Nat) (running : Bool) :
    let d : Context := { c with running := running, bands := c.bands ++ [restarted b] }
    (c.covers a = true → d.progress a = c.progress a) ∧
      (c.covers a = false → d.covers a = true → a = b ∧ (d.progress a).tail = none) := by
  intro d
  simp only [d, Context.progress, Context.covers, List.find?_append, List.any_append, List.any_cons, List.any_nil,
    Bool.or_false]
  refine ⟨fun hcovers => ?_, fun hnot hcovers => ?_⟩
  · obtain ⟨p, hp⟩ := Option.isSome_iff_exists.1 (List.find?_isSome.2 (List.any_eq_true.1 hcovers))
    rw [hp]
    rfl
  · have hnone : c.bands.find? (fun p => p.band == a) = none := by
      rw [List.find?_eq_none]
      exact fun p hp hpa => by simpa [hpa] using List.any_eq_false.1 hnot p hp
    rw [hnot, Bool.false_or] at hcovers
    have hab : a = b := (by simpa [restarted] using hcovers : b = a).symm
    rw [hnone]
    exact ⟨hab, by simp [restarted, hab]⟩

end Sys2Proof.Machine


/-! PAGE.BAND keeps the pool law (R27, R28, R41). -/

namespace Sys2Proof.Machine

/-- The pool law holds for some pool and chains. -/
def poolHeld (s : State) : Prop := ∃ pool chain, PoolHolds s pool chain

theorem poolHeld.answer {s : State} (hs : poolHeld s) (f : Frame) (code : Byte) (fields : List Byte) :
    poolHeld (answer f code fields s) := by
  obtain ⟨pool, chain, hs⟩ := hs
  exact ⟨pool, chain, hs.of_view_eq rfl⟩

/-- R28: a chunk of an open band that a context covers. -/
theorem acceptChunk_keeps_poolHeld {f : Frame} {x : ChunkOperands} {i : Nat} {opened : Bool} {refused s : State} {c : Context}
    {r : BandRecord} (hrefused : poolHeld refused) (hs : poolHeld s) (hsound : directorySound s)
    (hc : (i, c) ∈ servants s.prx.contexts x.handle) (hr : bandOf s x.handle x.band = some r) (hopen : r.isOpen = true)
    (hnone : s.prx.chunk = none) : poolHeld (acceptChunk f x i opened refused s) := by
  have hhandle := ((directorySound_iff s).1 hsound).1 x.handle
  have hcovers : c.covers x.band = true := ((hhandle.fits _ hc).2 x.band r hr).2 hopen
  obtain ⟨pool, chain, hs⟩ := hs
  unfold acceptChunk
  split
  · rename_i t hplaced
    exact poolHeld.answer (hs.placeChunk hc hhandle.one hnone hcovers hr hopen hplaced) ..
  · exact hrefused.answer ..

/-- R27, R48: the band of a chunk that goes on where its record stands is open. -/
theorem band_isOpen {x : ChunkOperands} {r : BandRecord} {s : State} (hs : directorySound s)
    (hr : bandOf s x.handle x.band = some r) (hlength : 1 ≤ x.chunk.length)
    (hopen : (entry s x.handle).state = .receiving ∨ underRepair s x.handle x.band = true) (hoffset : x.offset = r.received)
    (hfit : chunkFits x r.length) {i : Nat} {c : Context} (hi : contextOf s x.handle = some i)
    (hc : (i, c) ∈ servants s.prx.contexts x.handle) : r.isOpen = true := by
  obtain ⟨hentry, hfits, -⟩ := served_spec hs hc
  rcases hopen with hreceiving | hunder
  · by_contra hclosed
    obtain ⟨-, -, hbands⟩ := (entrySound_receiving hreceiving).1 hentry
    obtain ⟨-, hwhole⟩ := hbands r (List.mem_of_getElem? hr)
    have hall := hwhole (Bool.not_eq_true _ ▸ hclosed)
    obtain ⟨hle, -⟩ := hfit
    omega
  · rw [← hfits.2 x.band r hr]
    have hserves : (contextOf s x.handle).bind (contextAt s) = some c := by
      rw [hi]
      exact contextAt_eq_some.2 hc.1
    simp only [underRepair, hserves, Bool.and_eq_true] at hunder
    obtain ⟨-, hcovers⟩ := hunder
    exact hcovers

/-- R41: a repair that a band joins keeps the directory's laws, whether its timer runs or not. -/
theorem repairJoined_keeps_directorySound {s : State} (hsound : directorySound s) {i h b : Nat} {r : BandRecord} {c : Context}
    (hr : bandOf s h b = some r) (hstate : (entry s h).state = .damaged) (hrefs : (entry s h).refs = 0)
    (hbad : r.state = .damaged ∨ r.state = .missing) (hc : (i, c) ∈ servants s.prx.contexts h) (hnone : s.prx.chunk = none)
    (running : Bool) :
    let d : Context := { c with running := running, bands := c.bands ++ [restarted b] }
    directorySound (repairOpened i h b r d s) ∧ (i, d) ∈ servants (repairOpened i h b r d s).prx.contexts h := by
  obtain ⟨-, hfits, hlt, hhandle, hold, hone⟩ := served_spec hsound hc
  refine repairOpened_keeps_directorySound hsound hr hstate hrefs hbad hlt hold hone hhandle ?_ (fun a q hq => ?_) hnone
  · obtain ⟨-, hmode, -⟩ := hfits.1.resolve_left fun hreceiving => by simp [hstate] at hreceiving
    exact hmode
  · exact ((c.covers_append b a).trans or_comm).trans (or_congr_right (hfits.2 a q hq))

/-- R41: a repair that opens in a free context keeps the directory's laws, whether its timer runs or not. -/
theorem repairBegun_keeps_directorySound {s : State} (hsound : directorySound s) {i h b : Nat} {r : BandRecord}
    (hr : bandOf s h b = some r) (hstate : (entry s h).state = .damaged) (hrefs : (entry s h).refs = 0)
    (hbad : r.state = .damaged ∨ r.state = .missing) (hi : contextOf s h = none) (hfree : freeContext s = some i)
    (hnone : s.prx.chunk = none) (running : Bool) :
    let d : Context := ⟨h, .repair, running, [restarted b]⟩
    directorySound (repairOpened i h b r d s) ∧ (i, d) ∈ servants (repairOpened i h b r d s).prx.contexts h := by
  have hunserved := contextOf_eq_none.1 hi
  obtain ⟨hlt, hnothing, -⟩ := List.findIdx?_eq_some_iff_getElem.1 hfree
  have hclosed := (((directorySound_iff s).1 hsound).1 h).unserved hstate hunserved
  refine repairOpened_keeps_directorySound hsound hr hstate hrefs hbad hlt (fun d hd => ?_) (by simp [hunserved]) rfl rfl
    (fun a q hq => ?_) hnone
  · rw [List.getElem?_eq_getElem hlt, Option.isNone_iff_eq_none.1 hnothing] at hd
    cases hd
  · rw [show q.isOpen = false from hclosed q (List.mem_of_getElem? hq)]
    rw [Context.covers, restarted_covers]
    simp

/-- R41: a chunk that is placed in an opened repair. -/
theorem openedChunk_keeps_poolHeld {f : Frame} {x : ChunkOperands} {r : BandRecord} {s : State} {i : Nat} {c : Context}
    (hr : bandOf s x.handle x.band = some r) (hnone : s.prx.chunk = none)
    (hopened : ∀ running, directorySound (repairOpened i x.handle x.band r { c with running := running } s) ∧
      (i, { c with running := running }) ∈
        servants (repairOpened i x.handle x.band r { c with running := running } s).prx.contexts x.handle)
    (hheld : ∀ running, poolHeld (repairOpened i x.handle x.band r { c with running := running } s)) :
    poolHeld (acceptChunk f x i true (repairOpened i x.handle x.band r { c with running := true } s)
      (repairOpened i x.handle x.band r c s)) := by
  obtain ⟨hsound', hserved⟩ := hopened c.running
  exact acceptChunk_keeps_poolHeld (hheld true) (hheld c.running) hsound' hserved (bandOf_repairOpened hr) rfl hnone

section
variable {f : Frame} {x : ChunkOperands} {r : BandRecord} {s : State} (hs : poolHeld s) (hsound : directorySound s)
  (hr : bandOf s x.handle x.band = some r) (hnone : s.prx.chunk = none)
include hs hsound hr hnone

/-- R27: a chunk of an open band. -/
theorem runChunk_keeps_poolHeld (hlength : 1 ≤ x.chunk.length)
    (hopen : (entry s x.handle).state = .receiving ∨ underRepair s x.handle x.band = true) : poolHeld (runChunk f x r s) := by
  unfold runChunk
  split
  · exact hs.answer ..
  · rename_i hoffset
    split
    · exact hs.answer ..
    · rename_i hfit
      split
      · exact hs.answer ..
      · rename_i i hi
        obtain ⟨c, hc⟩ := contextOf_eq_some hi
        have hfits := chunkFits_of_not_misfits (Bool.not_eq_true _ ▸ hfit)
        exact acceptChunk_keeps_poolHeld hs hs hsound hc hr
          (band_isOpen hsound hr hlength hopen (not_not.1 hoffset) hfits hi hc) hnone

/-- R41: a repair opener. -/
theorem runOpener_keeps_poolHeld (hstate : (entry s x.handle).state = .damaged)
    (hbad : r.state = .damaged ∨ r.state = .missing) : poolHeld (runOpener f x r s) := by
  have hclosed : r.isOpen = false := by rcases hbad with h | h <;> simp [BandRecord.isOpen, h]
  have hhandle := ((directorySound_iff s).1 hsound).1 x.handle
  have huncovered : ∀ p ∈ servants s.prx.contexts x.handle, p.2.covers x.band = false := fun p hp => by
    rw [← Bool.not_eq_true, (hhandle.fits p hp).2 x.band r hr, hclosed]
    exact Bool.false_ne_true
  have ⟨pool, chain, hholds⟩ := hs
  have hopen (i : Nat) (c : Context) (hch : c.handle = x.handle) := hholds.repairOpened (i := i) (c := c) hr huncovered hch
  by_cases hrefs : (entry s x.handle).refs = 0
  · by_cases hoffset : x.offset = 0
    · cases hfit : chunkMisfits x r.length with
      | true =>
        rw [runOpener_misfits hrefs hoffset hfit]
        exact hs.answer ..
      | false =>
        have hfit' := chunkFits_of_not_misfits hfit
        cases hi : contextOf s x.handle with
        | some i =>
          obtain ⟨c, hc⟩ := contextOf_eq_some hi
          obtain ⟨-, -, -, hch, -⟩ := served_spec hsound hc
          rw [runOpener_joins hrefs hoffset hfit' hr hi (contextAt_eq_some.2 hc.1)]
          refine openedChunk_keeps_poolHeld (c := { c with bands := c.bands ++ [restarted x.band] }) hr hnone
            (repairJoined_keeps_directorySound hsound hr hstate hrefs hbad hc hnone) fun running => hopen i _ hch fun a ha => ?_
          · obtain ⟨hkept, hjoined⟩ := c.progress_append a x.band running
            cases hcovers : c.covers a with
            | true => exact .inr ⟨(i, c), hc, hcovers, (hkept hcovers).symm⟩
            | false => exact .inl (hjoined hcovers ha)
        | none =>
          have hunserved := contextOf_eq_none.1 hi
          cases hfree : freeContext s with
          | none =>
            rw [runOpener_no_context hrefs hoffset hfit' hi hfree]
            exact hs.answer ..
          | some i =>
            obtain ⟨hlt, hrun⟩ := runOpener_opens (f := f) hrefs hoffset hfit' hr hi hfree
            rw [hrun]
            refine openedChunk_keeps_poolHeld (c := ⟨x.handle, .repair, true, [restarted x.band]⟩) hr hnone
              (repairBegun_keeps_directorySound hsound hr hstate hrefs hbad hi hfree hnone)
              fun running => hopen i _ rfl fun a ha => .inl ?_
            have hab : a = x.band := (restarted_covers x.band a).1 ha
            exact ⟨hab, by simp [Context.progress, restarted, hab]⟩
    · rw [runOpener_offset hrefs hoffset]
      exact hs.answer ..
  · rw [runOpener_bound hrefs]
    exact hs.answer ..

end

/-- R27, R41: PAGE.BAND keeps the pool law. -/
theorem runPageBand_keeps_poolHeld {f : Frame} {s : State} (hs : poolHeld s) (hsound : directorySound s)
    (hnone : s.prx.chunk = none) : poolHeld (runPageBand f s) := by
  cases hx : parseBand f.payload with
  | none =>
    rw [runPageBand_malformed hx]
    exact hs.answer ..
  | some x =>
    by_cases hstate : (entry s x.handle).state = .receiving ∨ (entry s x.handle).state = .damaged
    · cases hr : bandOf s x.handle x.band with
      | none =>
        rw [runPageBand_no_record hx hstate hr]
        exact hs.answer ..
      | some r =>
        have hnames : namesBand s f x r := ⟨hx, hstate, hr⟩
        by_cases hopen : bandIsOpen s x
        · obtain ⟨-, -, -, hlength, -⟩ := (parseBand_iff _ x).1 hx
          rw [runPageBand_chunk hnames hopen]
          exact runChunk_keeps_poolHeld hs hsound hr hnone hlength hopen
        · by_cases hbad : r.state = .damaged ∨ r.state = .missing
          · rw [runPageBand_opener hnames hopen hbad]
            exact runOpener_keeps_poolHeld hs hsound hr hnone (hstate.resolve_left fun h => hopen (.inl h)) hbad
          · obtain ⟨hd, hm⟩ := not_or.1 hbad
            rw [runPageBand_band_closed hnames hopen hd hm]
            exact hs.answer ..
    · obtain ⟨hr, hd⟩ := not_or.1 hstate
      rw [runPageBand_not_open hx hr hd]
      exact hs.answer ..

end Sys2Proof.Machine


/-! CONFIGURE and RESTART build the pool, and every step keeps the pool law (R70, R73, R74). -/

namespace Sys2Proof.Machine

/-! ## The pool is built (R70, R74) -/

theorem PoolHolds.of_bare {s : State} (hpool : s.psc.poolIs (List.range' 128 s.psc.poolSize)) (hsize : s.psc.poolSize ≤ 65536)
    (hfits : ∀ h, (handleView s h).Fits fun _ => []) :
    PoolHolds s (List.range' 128 s.psc.poolSize) fun _ _ => [] := by
  refine ⟨hpool, fun _ _ _ => trivial, hfits, ?_, hsize⟩
  have hnone : allChains s (fun _ _ => []) = [] :=
    List.flatMap_eq_nil_iff.2 fun _ _ => List.flatMap_eq_nil_iff.2 fun _ _ => rfl
  rw [hnone, List.append_nil]

/-- R70: a built pool has every pool block. -/
theorem buildPool_full (p : Psc) {m : Nat} (hm : 64 ≤ m) : (p.buildPool m).poolIs (List.range' 128 (p.buildPool m).poolSize) :=
  buildPool_poolIs p m _ (by simp only [Psc.buildPool]; omega) (by simp only [Psc.buildPool]; omega)

/-- R70: the pool law holds of a newly built pool while no band has a chain. -/
theorem poolSound_of_built {t : State} {p : Psc} {m : Nat} (hlow : 64 ≤ m) (hhigh : m ≤ 1024) (hready : t.part = .ready)
    (hsame : t.psc.samePool (p.buildPool m)) (hmib : t.psc.storeMiB = some m)
    (hsize : t.psc.poolSize = (p.buildPool m).poolSize) (hbare : ∀ h, (handleView t h).Fits fun _ => []) : poolSound t := by
  have hfull : t.psc.poolSize + 128 = m * 64 := by
    rw [hsize]
    simp only [Psc.buildPool]
    omega
  have hpool : t.psc.poolIs (List.range' 128 t.psc.poolSize) := by
    rw [hsize]
    exact (hsame.poolIs_iff _).2 (buildPool_full p hlow)
  refine (poolSound_iff t).2 ⟨⟨fun h => absurd (hready.symm.trans h) (by simp), ?_⟩, _, _,
    PoolHolds.of_bare hpool (by omega) hbare⟩
  rw [hmib]
  exact ⟨hlow, hhigh, hfull⟩

theorem HandleView.Fits.of_no_bands {v : HandleView} (h : v.entry.bands = []) (chain : Nat → List Nat) : v.Fits chain := by
  refine ⟨?_, ?_, ?_⟩ <;> simp [h]

/-- The law holds with no chains where every chain is empty. -/
theorem HandleView.Fits.without_chains {v : HandleView} {chain : Nat → List Nat} (h : v.Fits chain)
    (hempty : ∀ b, b < v.entry.bands.length → chain b = []) : v.Fits fun _ => [] := by
  refine ⟨fun b r hr => ?_, h.bare, fun b hb p hp hcovers => ?_⟩
  · rw [h.head b r hr, hempty b (List.getElem?_eq_some_iff.1 hr).1]
  · rw [h.tail b hb p hp hcovers, hempty b hb]

/-- R73: with no pool blocks there are no chains. -/
theorem PoolHolds.nothing {s : State} {pool : List Nat} {chain : Nat → Nat → List Nat} (hs : PoolHolds s pool chain)
    (hsize : s.psc.poolSize = 0) : pool = [] ∧ ∀ h, (handleView s h).Fits fun _ => [] := by
  have hblocks := hs.blocks
  rw [hsize] at hblocks
  obtain ⟨hpool, hchains⟩ := List.append_eq_nil_iff.1 (List.perm_nil.1 hblocks)
  refine ⟨hpool, fun h => (hs.fits h).without_chains fun b hb => ?_⟩
  have hnone := (List.perm_nil.1 (hchains ▸ (allChains_perm s chain h).symm))
  obtain ⟨hown, -⟩ := List.append_eq_nil_iff.1 hnone
  exact List.flatMap_eq_nil_iff.1 hown b (List.mem_range.2 hb)

/-- R193: where CONFIGURE is not refused as busy, no band has a chain. -/
theorem fits_nothing_of_not_busy {s : State} (hsound : directorySound s) (hs : poolSound s) (hbusy : configureBusy s = false)
    (h : Nat) : (handleView s h).Fits fun _ => [] := by
  obtain ⟨⟨hpart, hstore⟩, pool, chain, hholds⟩ := (poolSound_iff s).1 hs
  cases hp : s.part with
  | unconfigured =>
    rw [hpart hp] at hstore
    obtain ⟨-, hfits⟩ := hholds.nothing hstore
    exact hfits h
  | ready =>
    refine .of_no_bands ?_ _
    have hstate : (entry s h).state = .empty := by
      by_cases hh : h < s.pdir.entries.length
      · simp only [configureBusy, hp, beq_self_eq_true, Bool.true_and, Bool.or_eq_false_iff] at hbusy
        obtain ⟨hempty, -⟩ := hbusy
        simpa using List.any_eq_false.1 hempty _ (List.mem_of_getElem? (getElem?_of_lt hh))
      · rw [entry_default (Nat.le_of_not_lt hh)]
        rfl
    have hentry : entry s h = Entry.empty :=
      (entrySound_empty (e := entry s h) hstate).1 (((directorySound_iff s).1 hsound).1 h).entry
    simp [handleView, hentry, Entry.empty]

/-- R74: accepted values of CONFIGURE keep the pool law: the pool is built anew, or stays with its store size. -/
theorem applySettings_keeps_poolSound {s : State} {x : Settings} (hsound : directorySound s) (hs : poolSound s)
    (hbusy : configureBusy s = false) (hx : 64 ≤ x.storeMiB ∧ x.storeMiB ≤ 1024) : poolSound (applySettings x s) := by
  have hfits := fits_nothing_of_not_busy hsound hs hbusy
  obtain ⟨⟨-, hstore⟩, pool, chain, hholds⟩ := (poolSound_iff s).1 hs
  cases hbuild : s.part == .unconfigured || s.psc.storeMiB != some x.storeMiB with
  | true =>
    have hpsc : (applySettings x s).psc = { s.psc.buildPool x.storeMiB with refreshInterval := some x.interval } := by
      simp [applySettings, Psc.configure, hbuild, emptySets]
    have hview : directoryView (applySettings x s) = directoryView s := by simp [applySettings, hbuild, emptySets, directoryView]
    obtain ⟨hlow, hhigh⟩ := hx
    exact poolSound_of_built (p := s.psc) hlow hhigh (by simp [applySettings]) (by rw [hpsc]; exact ⟨rfl, rfl, rfl, rfl⟩)
      (by rw [hpsc]; rfl) (by rw [hpsc]) fun h => handleView_of_view_eq hview h ▸ hfits h
  | false =>
    obtain ⟨hp, hm⟩ := Bool.or_eq_false_iff.1 hbuild
    have hm' : s.psc.storeMiB = some x.storeMiB := by simpa using hm
    have hpsc : (applySettings x s).psc = { s.psc with refreshInterval := some x.interval } := by
      simp [applySettings, Psc.configure, hbuild]
    have hview : directoryView (applySettings x s) = directoryView s := by simp [applySettings, hbuild, directoryView]
    have hentry (g : Nat) : entry (applySettings x s) g = entry s g :=
      congrArg HandleView.entry (handleView_of_view_eq hview g)
    refine (poolSound_iff _).2 ⟨⟨fun hp => absurd hp (by simp [applySettings]), ?_⟩, pool, chain, hholds.rewritten ?_ (by rw [hpsc]) ?_
      (fun g => by rw [hentry]) fun g => handleView_of_view_eq hview g ▸ hholds.fits g⟩
    · rw [hpsc]
      exact hstore
    · rw [hpsc]
      exact ⟨rfl, rfl, rfl, rfl⟩
    · exact congrArg (fun v => v.entries.length) hview

/-- R193: CONFIGURE keeps the pool law. -/
theorem runConfigure_keeps_poolSound {s : State} (hsound : directorySound s) (hs : poolSound s) (f : Frame) :
    poolSound (runConfigure f s) := by
  unfold runConfigure
  split
  · exact hs
  · rename_i x _
    split
    · exact hs
    · rename_i hbusy
      split
      · rename_i hvalues
        have hsize : x.storeMiB ∈ [64, 128, 256, 512, 1024] := by
          simp only [Settings.sound, Bool.and_eq_true, List.contains_iff_mem] at hvalues
          obtain ⟨hsize, -⟩ := hvalues
          exact hsize
        have hrange : 64 ≤ x.storeMiB ∧ x.storeMiB ≤ 1024 := by
          simp only [List.mem_cons, List.not_mem_nil, or_false] at hsize
          omega
        exact applySettings_keeps_poolSound (x := x.clamped) hsound hs (Bool.not_eq_true _ ▸ hbusy) hrange
      · exact hs

/-- R74, R197: RESTART empties the directory and builds the pool anew. -/
theorem restartPart_keeps_poolSound {s : State} (hs : poolSound s) (hready : s.part = .ready) :
    poolSound (restartPart s) := by
  obtain ⟨⟨-, hstore⟩, pool, chain, hholds⟩ := (poolSound_iff s).1 hs
  have hpsc : ∃ p : Psc, p.samePool s.psc ∧ p.storeMiB = s.psc.storeMiB ∧ p.poolSize = s.psc.poolSize ∧
      (restartPart s).psc = p.restart := by
    unfold restartPart
    dsimp only
    refine ⟨_, ?_, ?_, ?_, rfl⟩ <;> split <;> simp [Psc.samePool]
  obtain ⟨p, hsame, hmib, hsize, hpsc⟩ := hpsc
  have hpart : (restartPart s).part = .ready := by simp [hready]
  have hbare (h : Nat) : (handleView (restartPart s) h).Fits fun _ => [] := .of_no_bands (by
    rw [handleView, show entry (restartPart s) h = Entry.empty from entry_reset h]
    rfl) _
  cases hm : s.psc.storeMiB with
  | none =>
    rw [hm] at hstore hmib
    have hpsc' : (restartPart s).psc = { p with refreshMerged := false } := by rw [hpsc, Psc.restart, hmib]
    obtain ⟨hpool, -⟩ := hholds.nothing hstore
    have hzero : (restartPart s).psc.poolSize = 0 := by rw [hpsc', ← hstore, ← hsize]
    refine (poolSound_iff _).2 ⟨⟨fun h => absurd (hpart.symm.trans h) (by simp), ?_⟩, _, _,
      PoolHolds.of_bare ?_ (by omega) hbare⟩
    · rw [show (restartPart s).psc.storeMiB = none by rw [hpsc', ← hmib]]
      exact hzero
    · rw [hzero, hpsc']
      exact (hsame.poolIs_iff []).2 (hpool ▸ hholds.isPool)
  | some m =>
    rw [hm] at hstore hmib
    obtain ⟨hlow, hhigh, -⟩ := hstore
    have hpsc' : (restartPart s).psc = { p.buildPool m with refreshMerged := false } := by rw [hpsc, Psc.restart, hmib]
    exact poolSound_of_built (p := p) hlow hhigh hpart (by rw [hpsc']; exact ⟨rfl, rfl, rfl, rfl⟩)
      (by rw [hpsc']; rfl) (by rw [hpsc']) hbare

/-! ## The law -/

/-- The directory's laws and the pool law (R26, R50, R73). -/
structure StorageSound (s : State) : Prop where
  directory : directorySound s
  pool : poolSound s

theorem StorageSound.chainsHeld {s : State} (h : StorageSound s) : ChainsHeld s := by
  obtain ⟨-, hholds⟩ := (poolSound_iff s).1 h.pool
  exact ⟨hholds, fun g => (((directorySound_iff s).1 h.directory).1 g).one⟩

/-- The pool law holds again where the part's state and the store size stay. -/
theorem StorageSound.of_held {s t : State} (h : StorageSound s) (hsound : directorySound t) (hheld : poolHeld t)
    (hpart : t.part = s.part) (hmib : t.psc.storeMiB = s.psc.storeMiB) (hsize : t.psc.poolSize = s.psc.poolSize) :
    StorageSound t := by
  obtain ⟨hsizes, -⟩ := (poolSound_iff s).1 h.pool
  refine ⟨hsound, (poolSound_iff t).2 ⟨?_, hheld⟩⟩
  unfold sizeSound at hsizes ⊢
  rw [hpart, hmib, hsize]
  exact hsizes

/-- The laws read the directory, the pool and its size alone. -/
theorem StorageSound.of_same {s t : State} (hs : StorageSound s) (hview : directoryView t = directoryView s)
    (hsame : t.psc.samePool s.psc) (hpart : t.part = s.part) (hmib : t.psc.storeMiB = s.psc.storeMiB)
    (hsize : t.psc.poolSize = s.psc.poolSize) : StorageSound t := by
  obtain ⟨pool, chain, hholds⟩ := hs.chainsHeld.holds
  have hhandle := handleView_of_view_eq hview
  have hheld : poolHeld t := ⟨pool, chain, hholds.rewritten hsame hsize (congrArg (fun v => v.entries.length) hview)
    (fun g => congrArg (fun v => v.entry.bands.length) (hhandle g)) fun g => hhandle g ▸ hholds.fits g⟩
  exact hs.of_held (directorySound_of_view_eq hview hs.directory) hheld hpart hmib hsize

/-- R26, R39: an entry in reception or under repair stands in the directory. -/
theorem handle_lt_of_open {s : State} {h : Nat} (hsound : directorySound s)
    (hopen : (entry s h).state = .receiving ∨ contextOf s h ≠ none) : h < s.pdir.entries.length := by
  by_contra hout
  have hempty : (entry s h).state = .empty := by rw [entry_default (Nat.le_of_not_lt hout), Entry.empty]
  rcases hopen with hstate | hserved
  · simp [hempty] at hstate
  · obtain ⟨i, hi⟩ := Option.ne_none_iff_exists'.1 hserved
    obtain ⟨c, hc⟩ := contextOf_eq_some hi
    have hfits := ((((directorySound_iff s).1 hsound).1 h).fits _ hc).1
    simp [handleView, hempty] at hfits

theorem StorageSound.closeEntry {s : State} {h : Nat} (hs : StorageSound s) (ev : PageEvent)
    (hopen : (entry s h).state = .receiving ∨ contextOf s h ≠ none) (hchunk : chunkOf s h = none) :
    StorageSound (closeEntry ev h s) := by
  have hsound := hs.directory
  obtain ⟨hholds, -⟩ := hs.chainsHeld.closeEntry (handle_lt_of_open hsound hopen) ev
  exact hs.of_held (closeEntry_keeps_directorySound hsound ev hopen hchunk) hholds (by simp) (by simp) (by simp)

/-- R39: a context that times out. Its entry has no chunk in the chunk buffer, since a chunk stops the timer. -/
theorem StorageSound.expire {s : State} {i : Nat} {c : Context} (hs : StorageSound s)
    (hc : (i, c) ∈ servants s.prx.contexts c.handle) (hrunning : c.running = true) :
    StorageSound (Machine.closeEntry .timedOut c.handle
      (setEntry c.handle { entry s c.handle with timeout := true } s)) := by
  have hview := ((directorySound_iff s).1 hs.directory).1 c.handle
  have hnone : chunkOf s c.handle = none := Option.eq_none_iff_forall_ne_some.2 fun k hk => by
    obtain ⟨p, hp, hstopped, -⟩ := hview.chunk k hk
    rw [hview.one hp hc, hrunning] at hstopped
    cases hstopped
  have hempty : (entry s c.handle).state ≠ .empty := by
    rcases (hview.fits _ hc).1.imp And.left And.left with hst | hst <;> simp [show (entry s c.handle).state = _ from hst]
  have hserved : contextOf s c.handle ≠ none := by simp [contextOf_of_mem hview.one hc]
  obtain ⟨hheld, -⟩ := hs.chainsHeld.setEntry_same (h := c.handle) (e := { entry s c.handle with timeout := true }) rfl
  have hmarked : StorageSound (setEntry c.handle { entry s c.handle with timeout := true } s) :=
    hs.of_held (setEntry_fields_keeps_directorySound hs.directory hempty rfl rfl rfl rfl rfl) hheld rfl rfl rfl
  exact hmarked.closeEntry .timedOut (.inr hserved) hnone

/-- R82: a merged refresh. -/
theorem StorageSound.mergeRefresh {s : State} (hs : StorageSound s) :
    StorageSound (damageStore (spoilStore { s with psc := { s.psc with refreshMerged := true } })) := by
  have hspoiled : StorageSound (spoilStore { s with psc := { s.psc with refreshMerged := true } }) :=
    hs.of_same rfl ⟨rfl, rfl, rfl, rfl⟩ rfl rfl rfl
  obtain ⟨hheld, -⟩ := hspoiled.chainsHeld.damageStore
  exact hspoiled.of_held (damageStore_keeps_directorySound hspoiled.directory) hheld (by simp) (by simp) (by simp)

/-- R67: a write burst's bytes. -/
theorem StorageSound.writeBytes {s : State} (hs : StorageSound s) (a : Nat) (bs : List Byte) :
    StorageSound (writeBytes a bs s) := hs.of_same rfl ⟨rfl, rfl, rfl, rfl⟩ rfl rfl rfl

/-- R196: in reset there are no entries, no contexts and no pool. -/
theorem storageSound_heldInReset (s : State) : StorageSound (heldInReset s) :=
  ⟨heldInReset_directorySound s, poolSound_reset⟩

/-- R73: the pool law holds through all that moves blocks, entries or contexts. -/
theorem storeLaw_storageSound : StoreLaw StorageSound where
  congr {s t} hview hs := by
    simp only [storeView, StoreView.mk.injEq] at hview
    obtain ⟨hpart, hdirectory, -, -, hmib, hsize, hlinks, hhead, htail, hcount⟩ := hview
    exact hs.of_same hdirectory ⟨hlinks, hhead, htail, hcount⟩ hpart hmib hsize
  bind hs hclosed := hs.of_held (bindEntry_spec hs.directory hclosed).1
    (hs.chainsHeld.bindEntry (handle_lt_of_closed hclosed)).holds (by simp) (by simp) (by simp)
  unbind h hs := hs.of_held (unbindEntry_keeps_directorySound hs.directory h) (hs.chainsHeld.unbindEntry h).holds
    (by simp) (by simp) (by simp)
  burst stale hs := by
    obtain ⟨pool, chain, hholds⟩ := hs.chainsHeld.holds
    exact hs.of_held (prxBurstDone_keptBy stale _ hs.directory) ⟨pool, chain, hholds.prxBurstDone stale⟩
      (by simp) (by simp) (by simp)
  opened {s t x h} hs hchunk hcreate := by
    obtain ⟨hsound, hkey⟩ := closeOlder_keeps_directorySound hs.directory hchunk x.key
    obtain ⟨pool, chain, hholds⟩ := (hs.chainsHeld.closeOlder x.key).holds
    exact hs.of_held (createEntry_keeps_directorySound hsound hcreate hkey) ⟨pool, hholds.createEntry hsound hcreate⟩
      (by simp [createEntry_keeps hcreate]) (by simp [createEntry_keeps hcreate]) (by simp [createEntry_keeps hcreate])
  band f hs hchunk := hs.of_held (runPageBand_keeps_directorySound hs.directory hchunk)
    (runPageBand_keeps_poolHeld hs.chainsHeld.holds hs.directory hchunk) (by simp) (by simp) (by simp)
  closed {s h} hs hchunk hclosable := hs.closeEntry .closed
    (by simpa [closable, Option.isSome_iff_ne_none] using hclosable) (chunkOf_none hchunk h)
  expired hs hc hrunning := hs.expire ⟨hc, rfl⟩ hrunning
  dropped {s h} hs _ := hs.of_held (releaseEntry_keeps_directorySound hs.directory h .dropped)
    (hs.chainsHeld.releaseEntry h .dropped).holds (by simp) (by simp) (by simp)
  configured f hs := ⟨directorySound_of_view_eq (by simp [directoryView]) hs.directory,
    runConfigure_keeps_poolSound hs.directory hs.pool f⟩
  restarted hs hready := ⟨directorySound_restartPart _, restartPart_keeps_poolSound hs.pool hready⟩

/-- R73: every command keeps the directory's laws and the pool law. -/
theorem exec_keeps_storageSound {s : State} (hs : StorageSound s) (c : Instr) : leadsTo StorageSound (exec c s) :=
  storeLaw_storageSound.exec_keeps hs c (fun _ => storageSound_heldInReset s) (fun _ => hs.writeBytes) fun _ =>
    hs.mergeRefresh

/-- A law of the store that every command keeps is kept by every step. -/
theorem step_keeps {P : State → Prop} (hP : StoreLaw P) (hexec : ∀ {s : State}, P s → ∀ c, leadsTo P (exec c s))
    {s t : State} (hs : P s) (hstep : step s = .next t) : P t := by
  unfold step at hstep
  split at hstep
  · rwa [← Host.Outcome.next.inj hstep]
  · rename_i rest _
    exact hexec (s := { s with pending := rest }) (hP.congr (s := s) rfl hs) _ t hstep

/-- Settles O53: the forms of the store and the pool law are laws of the store, which every command keeps. -/
theorem stepKeepsTheStoreAndItsPool : Obligations.StepKeepsTheStoreAndItsPool := by
  refine ⟨fun s t hs hstep => step_keeps storeLaw_storeCanonical exec_keeps_storeCanonical hs hstep,
    fun s t hsound hpool hstep => ?_⟩
  exact (step_keeps storeLaw_storageSound exec_keeps_storageSound ⟨hsound, hpool⟩ hstep).pool

end Sys2Proof.Machine

/-! SCREEN.BEGIN with the clamping of its curve (R87, R88), and SCREEN.END with the outcomes of a load (R91, R92). -/

namespace Sys2Proof.Machine

/-! ## The checks of SCREEN.BEGIN (R87) -/

theorem jobsNaming_ne_zero_iff (s : State) (t : Nat) : jobsNaming s t ≠ 0 ↔ ∃ j ∈ s.psch.queue, j.setIndex = t := by
  rw [jobsNaming, ← Nat.pos_iff_ne_zero, List.countP_pos_iff]
  simp only [beq_iff_eq]

/-! ## The curve (R88) -/

/-- R88, steps 2 and 3: a later point as it is stored behind its predecessor. -/
theorem clampCurveFrom_cons (prev p : Nat) (r : List Nat) :
    clampCurveFrom prev (p :: r) = max prev (min 4095 p) :: clampCurveFrom (max prev (min 4095 p)) r := by
  have hpoint : (if (if 4095 < p then 4095 else p) < prev then prev else if 4095 < p then 4095 else p) =
      max prev (min 4095 p) := by
    split_ifs <;> omega
  simp only [clampCurveFrom, hpoint]

/-- R88: the points behind a stored one are fixed by each being clamped against its predecessor. -/
theorem clampCurveFrom_unique : ∀ {sent stored : List Nat} {prev : Nat}, stored.length = sent.length →
    (∀ k, k < sent.length →
      (prev :: stored).getD (k + 1) 0 = max ((prev :: stored).getD k 0) (min 4095 (sent.getD k 0))) →
    clampCurveFrom prev sent = stored
  | [], stored, prev, hlength, _ => (List.eq_nil_of_length_eq_zero hlength).symm
  | p :: sent, [], prev, hlength, _ => by simp at hlength
  | p :: sent, v :: stored, prev, hlength, hpoints => by
    have hv : v = max prev (min 4095 p) := hpoints 0 (Nat.succ_pos _)
    have hrest := clampCurveFrom_unique (prev := v) (Nat.succ.inj hlength)
      fun k hk => hpoints (k + 1) (Nat.succ_lt_succ hk)
    rw [clampCurveFrom_cons, ← hv, hrest]

/-- R88: the curve stored is fixed by its first point and the clamping of the later ones. -/
theorem clampCurve_unique {sent stored : List Nat} (hlength : stored.length = sent.length)
    (hfirst : stored.head? = some 0) (hpoints : ∀ k, k + 1 < sent.length →
      stored.getD (k + 1) 0 = max (stored.getD k 0) (min 4095 (sent.getD (k + 1) 0))) : clampCurve sent = stored := by
  obtain ⟨later, rfl⟩ : ∃ later, stored = 0 :: later := List.head?_eq_some_iff.1 hfirst
  cases sent with
  | nil => simp at hlength
  | cons p sent =>
    exact congrArg (List.cons 0) (clampCurveFrom_unique (Nat.succ.inj hlength)
      fun k hk => hpoints k (Nat.succ_lt_succ hk))

/-- R88: the points changed, counted place by place. -/
theorem curveChanges_eq {sent stored : List Nat} {n : Nat} (hsent : sent.length = n) (hstored : stored.length = n) :
    curveChanges sent stored = ((List.range n).filter (fun k => stored.getD k 0 != sent.getD k 0)).length := by
  have hzip : (List.range n).map (fun k => (sent.getD k 0, stored.getD k 0)) = sent.zip stored := by
    refine map_range_eq (by simp [hsent, hstored]) fun i x hx => ?_
    obtain ⟨hfirst, hsecond⟩ := List.getElem?_zip_eq_some.1 hx
    simp [List.getD_eq_getElem?_getD, hfirst, hsecond]
  rw [curveChanges, ← hzip, List.countP_map, List.countP_eq_length_filter]
  exact congrArg List.length (List.filter_congr fun k _ => bne_comm)

/-! ## SCREEN.BEGIN -/

section
variable {f : Frame} {s : State} {x : ScreenShape} (hp : parseScreenBegin f.payload = some x)
include hp

/-- R87, R88: what the checks of SCREEN.BEGIN lead to. -/
theorem runScreenBegin_eq : runScreenBegin f s =
    if jobsNaming s x.setIndex ≠ 0 then answer f 0x02 [] s
    else if x.sound = true then
      let y := loadingSet x (screenSet s x.setIndex)
      scheduleTest (answer f 0x00 (u8 x.setIndex ++ u16 y.generation ++ u8 (curveChanges x.curve y.curve))
        (setScreenSet x.setIndex y s))
    else answer f 0x05 [] s := by
  rw [runScreenBegin, hp]
  rfl

/-- R88: an accepted SCREEN.BEGIN. -/
theorem runScreenBegin_accepts {curve : List Nat} {changed : Nat} (hfree : ¬jobsNaming s x.setIndex ≠ 0)
    (hsound : x.sound = true) (hcurve : clampCurve x.curve = curve) (hchanged : curveChanges x.curve curve = changed) :
    runScreenBegin f s = scheduleTest (answer f 0x00
      (u8 x.setIndex ++ u16 (screenSet s x.setIndex).generation ++ u8 changed)
      (setScreenSet x.setIndex { loadingSet x (screenSet s x.setIndex) with curve := curve } s)) := by
  subst hcurve hchanged
  rw [runScreenBegin_eq hp, if_neg hfree, if_pos hsound]
  rfl

end

/-! ## SCREEN.END (R91, R92) -/

theorem parseScreenEnd_eq_none {p : List Byte} (h : ¬(p.length = 3 ∧ byteAt p 0 ≤ 7)) : parseScreenEnd p = none :=
  if_neg h

theorem parseScreenEnd_layout {t : Nat} (ht : t ≤ 7) (crc : Half) :
    parseScreenEnd (u8 t ++ u16 crc.toNat) = some (t, crc) := by
  have hset : byteAt (u8 t ++ u16 crc.toNat) 0 = t := byteAt_u8_append (by omega) _
  have hcrc : halfAt (u8 t ++ u16 crc.toNat) 1 = crc.toNat :=
    (halfAt_append_right (u8 t) _ 0).trans (halfAt_u16 crc.isLt)
  rw [parseScreenEnd, hset, hcrc, if_pos ⟨rfl, ht⟩, BitVec.ofNat_toNat, BitVec.setWidth_eq]

theorem loadSound_iff (x : ScreenSet) (crc : Half) :
    loadSound x crc = true ↔ x.received = x.width * x.height ∧ x.runCrc = crc := by
  simp only [loadSound, Bool.and_eq_true, decide_eq_true_eq, beq_iff_eq]

section
variable {x : ScreenSet} {crc : Half} {tag : Option (Nat × Nat)} {t : Nat}

/-- R91: a load that ends short or with another CRC leaves the set BAD. -/
theorem endedSet_bad (h : ¬loadSound x crc = true) : endedSet x crc = { x with state := .bad } := if_neg h

/-- R91, R92: a load that ends with every threshold and the CRC expected leaves the set READY. -/
theorem endedSet_ready {g : Nat} (h : loadSound x crc = true) (hg : nextGeneration x.generation = g) :
    endedSet x crc = { x with state := .ready, loadCrc := crc, generation := g } := by
  rw [endedSet, if_pos h, ((loadSound_iff x crc).1 h).2, hg]

theorem tagAfterLoad_keeps (h : ¬loadSound x crc = true ∨ x.generation ≠ 65535) : tagAfterLoad tag t x crc = tag :=
  if_neg fun ⟨hsound, hwrap, _⟩ => h.elim (· hsound) (· hwrap)

/-- R92: at the wrap of its generation, no tag names the set. -/
theorem tagAfterLoad_wrap (hsound : loadSound x crc = true) (hwrap : x.generation = 65535) :
    tagAfterLoad tag t x crc = if tag.map Prod.fst = some t then none else tag := by
  simp only [tagAfterLoad, hsound, hwrap, true_and]

end

section
variable {f : Frame} {s : State} {t : Nat} {crc : Half} (hp : parseScreenEnd f.payload = some (t, crc))
include hp

/-- R91: a set that is not LOADING has no load to end. -/
theorem runScreenEnd_refuses (hstate : (screenSet s t).state ≠ .loading) : runScreenEnd f s = answer f 0x06 [] s := by
  rw [runScreenEnd, hp]
  exact if_pos hstate

/-- R91, R92: the end of a load, with the set, the tag and the result code that it leaves. -/
theorem runScreenEnd_ends {y : ScreenSet} {tag : Option (Nat × Nat)} {code : Byte}
    (hstate : (screenSet s t).state = .loading) (hset : endedSet (screenSet s t) crc = y)
    (htag : tagAfterLoad s.sct.tag t (screenSet s t) crc = tag)
    (hcode : (if loadSound (screenSet s t) crc = true then rOk else rBadField) = code) :
    runScreenEnd f s = scheduleTest (answer f code (u8 t ++ u8 y.state.code ++ u32 y.received ++ u16 y.runCrc.toNat)
      { s with sct := { s.sct with sets := s.sct.sets.set t y, tag := tag } }) := by
  subst hset htag hcode
  rw [runScreenEnd, hp]
  exact if_neg (not_not.2 hstate)

end

/-- Settles O24: the checks of both commands one by one; the curve stored is the only one that R88's steps allow, and
the end of a load is BAD, READY, or READY at the generation's wrap. -/
theorem screenLoadsBeginAndEnd : Obligations.ScreenLoadsBeginAndEnd := by
  refine ⟨fun s f rest htakes hkind hready => ?_, fun s f rest htakes hkind hready hbad => ?_,
    fun s f rest t crc htakes hkind hready ht hpayload => ?_⟩
  · have hexec : exec .screenBegin s = .next (runScreenBegin f (taken s rest)) := serve_ready htakes hkind hready _
    rw [hexec]
    refine ⟨fun hnone => ?_, fun x hp => ?_⟩
    · rw [runScreenBegin, hnone]
      rfl
    · have hnamed := jobsNaming_ne_zero_iff (taken s rest) x.setIndex
      have hrun := runScreenBegin_eq (s := taken s rest) hp
      refine ⟨fun h => ?_, fun h hunsound => ?_, fun curve h hsound hsent hstored hfirst hpoints => ?_⟩
      · exact congrArg Host.Outcome.next (hrun.trans (if_pos (hnamed.2 h)))
      · exact congrArg Host.Outcome.next (hrun.trans ((if_neg (mt hnamed.1 h)).trans
          (if_neg (mt of_decide_eq_true hunsound))))
      · have hcurve : clampCurve x.curve = curve := clampCurve_unique (hstored.trans hsent.symm) hfirst
          fun k hk => hpoints k (by omega)
        exact congrArg Host.Outcome.next (runScreenBegin_accepts (s := taken s rest) hp (mt hnamed.1 h)
          (decide_eq_true hsound) hcurve (curveChanges_eq hsent hstored))
  · have hexec : exec .screenEnd s = .next (runScreenEnd f (taken s rest)) := serve_ready htakes hkind hready _
    rw [hexec, runScreenEnd, parseScreenEnd_eq_none hbad]
    rfl
  · have hexec : exec .screenEnd s = .next (runScreenEnd f (taken s rest)) := serve_ready htakes hkind hready _
    have hp : parseScreenEnd f.payload = some (t, crc) := by rw [hpayload, parseScreenEnd_layout ht]
    have hsound := loadSound_iff (screenSet s t) crc
    rw [hexec]
    refine ⟨fun hstate => ?_, fun hstate hshort => ?_, fun hstate hfull hgeneration => ?_,
      fun hstate hfull hwrap => ?_⟩
    · exact congrArg Host.Outcome.next (runScreenEnd_refuses (s := taken s rest) hp hstate)
    · have hbad := mt hsound.1 hshort
      exact congrArg Host.Outcome.next (runScreenEnd_ends (s := taken s rest) hp hstate (endedSet_bad hbad)
        (tagAfterLoad_keeps (.inl hbad)) (if_neg hbad))
    · have hgood := hsound.2 hfull
      exact congrArg Host.Outcome.next (runScreenEnd_ends (s := taken s rest) hp hstate
        (endedSet_ready hgood (if_neg hgeneration)) (tagAfterLoad_keeps (.inr hgeneration)) (if_pos hgood))
    · have hgood := hsound.2 hfull
      exact congrArg Host.Outcome.next (runScreenEnd_ends (s := taken s rest) hp hstate
        (endedSet_ready hgood (if_pos hwrap)) (tagAfterLoad_wrap hgood hwrap) (if_pos hgood))

end Sys2Proof.Machine

/-! The tile buffer (chapter 5): SCREEN.TILE (R89, R90), the writing of the buffer burst by burst, and the cutting of a
transfer at the 64-byte units of the store (R75). -/

namespace Sys2Proof.Machine

/-! ## The cutting of a transfer (R75) -/

theorem cutUnits_nil (fuel a : Nat) : cutUnits fuel a [] = [] := by cases fuel <;> rfl

theorem cutUnits_bytes : ∀ {fuel : Nat} (a : Nat) {bs : List Byte}, bs.length ≤ fuel →
    (cutUnits fuel a bs).flatMap Prod.snd = bs
  | 0, a, bs, h => by simp [cutUnits, List.eq_nil_of_length_eq_zero (Nat.le_zero.1 h)]
  | _ + 1, a, [], _ => rfl
  | fuel + 1, a, b :: bs, h => by
    have hrest : ((b :: bs).drop (64 - a % 64)).length ≤ fuel := by
      simp only [List.length_drop, List.length_cons] at h ⊢
      omega
    rw [cutUnits, List.flatMap_cons, cutUnits_bytes _ hrest, List.take_append_drop]

/-- R75: what each burst of a transfer keeps to. -/
theorem cutUnits_burst : ∀ {fuel a : Nat} {bs : List Byte} {pre : List (Nat × List Byte)} {p : Nat × List Byte}
    {post : List (Nat × List Byte)}, cutUnits fuel a bs = pre ++ p :: post →
    p.1 = a + (pre.flatMap Prod.snd).length ∧ 1 ≤ p.2.length ∧ p.1 % 64 + p.2.length ≤ 64 ∧
      (post ≠ [] → p.1 % 64 + p.2.length = 64)
  | 0, a, bs, pre, p, post, h => by simp [cutUnits] at h
  | _ + 1, a, [], pre, p, post, h => by simp [cutUnits] at h
  | fuel + 1, a, b :: bs, [], p, post, h => by
    obtain ⟨rfl, rfl⟩ := List.cons.inj h
    have hunit : a % 64 < 64 := Nat.mod_lt a (by omega)
    refine ⟨rfl, ?_, ?_, fun hmore => ?_⟩
    · simp only [List.length_take, List.length_cons]
      omega
    · simp only [List.length_take]
      omega
    · have hleft : (b :: bs).drop (64 - a % 64) ≠ [] := fun hnil => hmore (by rw [hnil, cutUnits_nil])
      rw [ne_eq, List.drop_eq_nil_iff] at hleft
      simp only [List.length_take]
      omega
  | fuel + 1, a, b :: bs, q :: pre, p, post, h => by
    obtain ⟨rfl, hrest⟩ := List.cons.inj h
    obtain ⟨hbegin, hsome, hunit, hend⟩ := cutUnits_burst hrest
    have hlong : 64 - a % 64 ≤ (b :: bs).length := by
      by_contra hshort
      rw [List.drop_of_length_le (by omega), cutUnits_nil] at hrest
      simp at hrest
    refine ⟨?_, hsome, hunit, hend⟩
    rw [hbegin, List.flatMap_cons, List.length_append, List.length_take, Nat.min_eq_left hlong, Nat.add_assoc]

/-! ## Thresholds (R90) -/

theorem clampThreshold_eq (v : Nat) : clampThreshold v = max 1 (min 4095 v) := by
  unfold clampThreshold
  split
  · omega
  · split <;> omega

/-- R90, R96: a run of thresholds as it is stored. -/
theorem map_clampThreshold (l : List Nat) : l.map clampThreshold = l.map (fun v => max 1 (min 4095 v)) :=
  List.map_congr_left fun v _ => clampThreshold_eq v

/-! ## The payload of a SCREEN.TILE (R89) -/

theorem halvesOf_flatMap_u16 : ∀ {l : List Nat}, (∀ v ∈ l, v < 65536) → halvesOf (l.flatMap u16) = l
  | [], _ => rfl
  | v :: r, h => by
    have hv : v < 65536 := h v List.mem_cons_self
    have hhead : (BitVec.ofNat 8 v).toNat + 256 * (BitVec.ofNat 8 (v / 256)).toNat = v := by
      simp only [BitVec.toNat_ofNat]
      omega
    have hrest := halvesOf_flatMap_u16 fun w hw => h w (List.mem_cons_of_mem v hw)
    exact congrArg₂ List.cons hhead hrest

theorem parseTile_eq_none {p : List Byte}
    (h : ¬(p.length % 2 = 1 ∧ 5 ≤ p.length ∧ p.length ≤ 4083 ∧ byteAt p 0 ≤ 7)) : parseTile p = none := if_neg h

theorem parseTile_layout {t start : Nat} {sent : List Nat} (ht : t ≤ 7) (hstart : start < 65536)
    (hsome : 1 ≤ sent.length) (hmax : sent.length ≤ 2040) (hsent : ∀ v ∈ sent, v < 65536) :
    parseTile (u8 t ++ u16 start ++ sent.flatMap u16) = some (t, start, sent) := by
  have hset : byteAt (u8 t ++ u16 start ++ sent.flatMap u16) 0 = t := by
    rw [List.append_assoc, byteAt_u8_append (by omega)]
  have hplace : halfAt (u8 t ++ u16 start ++ sent.flatMap u16) 1 = start := by
    rw [List.append_assoc]
    exact (halfAt_append_right (u8 t) _ 0).trans (halfAt_u16_append hstart _)
  have hlength : (u8 t ++ u16 start ++ sent.flatMap u16).length = 3 + 2 * sent.length := by
    simp only [List.length_append, u8_length, u16_length, length_flatMap_const u16_length]
  have hdrop : (u8 t ++ u16 start ++ sent.flatMap u16).drop 3 = sent.flatMap u16 := rfl
  rw [parseTile, hset, hplace, hlength, hdrop, halvesOf_flatMap_u16 hsent, if_pos (by omega)]

/-! ## The tile buffer (R90) -/

/-- R76, R90: SCT asks for the next burst of the tile buffer. -/
theorem tilePump_asks {s : State} {c : TileBuffer} {a : Nat} {bs : List Byte} {todo : List (Nat × List Byte)}
    (hbuf : s.sct.tileBuf = some c) (htodo : c.todo = (a, bs) :: todo) (hfree : s.psc.engaged .sctTile = false) :
    tilePump s = { s with
      psc := s.psc.request ⟨.sctTile, .write a bs, false⟩
      sct := { s.sct with tileBuf := some { c with todo := todo } } } := by
  simp [tilePump, hbuf, htodo, hfree, ask]

/-- R90: the last burst of the tile buffer leaves it empty. -/
theorem tileBurstDone_last {s : State} {c : TileBuffer} (hbuf : s.sct.tileBuf = some c) (htodo : c.todo = []) :
    tileBurstDone s = { s with sct := { s.sct with tileBuf := none } } := by
  simp [tileBurstDone, hbuf, htodo]

/-- R90: with bursts to come, SCT asks for the next. -/
theorem tileBurstDone_asks {s : State} {c : TileBuffer} {a : Nat} {bs : List Byte} {todo : List (Nat × List Byte)}
    (hbuf : s.sct.tileBuf = some c) (htodo : c.todo = (a, bs) :: todo) (hfree : s.psc.engaged .sctTile = false) :
    tileBurstDone s = { s with
      psc := s.psc.request ⟨.sctTile, .write a bs, false⟩
      sct := { s.sct with tileBuf := some { c with todo := todo } } } := by
  rw [← tilePump_asks hbuf htodo hfree]
  simp [tileBurstDone, hbuf, htodo]

/-- R77: at a completion, a client without a waiting request is free to ask, in either order of the end and its own
handling. -/
theorem atEnd_congr_of_free {o : EndOrder} {s : State} {c : Client} {next next' : Psc → State}
    (hwaiting : ∀ p ∈ s.psc.waiting, p.client ≠ c)
    (h : ∀ psc : Psc, psc.engaged c = false → next psc = next' psc) : atEnd o s next = atEnd o s next' :=
  atEnd_congr (h _ (endOperation_not_engaged hwaiting)) (h _ (ending_not_engaged hwaiting))

/-- R75, R77: the completion of a tile-write burst, in either order of its end and SCT's handling. -/
theorem tileWriteDone_eq {s : State} {a : Nat} {bs : List Byte} {stale : Bool} (o : EndOrder)
    (h : s.psc.inFlight = .busy ⟨.sctTile, .write a bs, stale⟩) :
    exec (.tileWriteBurstDone o) s = .next (atEnd o s fun psc => tileBurstDone (burstWritten a bs s psc)) := by
  show execTileWriteBurstDone o s = _
  simp only [execTileWriteBurstDone, h, finishWrite, completion_eq_atEnd]
  cases o <;> rfl

/-! ## SCREEN.TILE (R89, R90) -/

/-- R90: a set with more thresholds received. -/
theorem receiveThresholds_clamped (x : ScreenSet) (sent : List Nat) :
    receiveThresholds x (sent.map clampThreshold) = { x with
      received := x.received + sent.length
      runCrc := crcFrom x.runCrc ((sent.map (fun v => max 1 (min 4095 v))).flatMap u16) } := by
  rw [receiveThresholds, List.length_map, map_clampThreshold]

section
variable {f : Frame} {s : State} {t start : Nat} {sent : List Nat} (hp : parseTile f.payload = some (t, start, sent))
include hp

/-- R89, R90: what the checks of SCREEN.TILE lead to. -/
theorem runScreenTile_eq : runScreenTile f s =
    if (screenSet s t).state ≠ .loading then answer f 0x06 [] s
    else if start ≠ (screenSet s t).received then answer f 0x07 [] s
    else if (screenSet s t).width * (screenSet s t).height < start + sent.length then answer f 0x05 [] s
    else
      let y := receiveThresholds (screenSet s t) (sent.map clampThreshold)
      let u := answer f 0x00 (u8 t ++ u32 y.received) (setScreenSet t y s)
      let bytes := (sent.map clampThreshold).flatMap u16
      tilePump { u with sct := { u.sct with tileBuf := some ⟨t, bytes, burstsOf (tileAddr t + 2 * start) bytes⟩ } } := by
  rw [runScreenTile, hp]
  rfl

/-- R90: an accepted SCREEN.TILE. -/
theorem runScreenTile_accepts {a : Nat} {bs : List Byte} {todo : List (Nat × List Byte)}
    (hstate : (screenSet s t).state = .loading) (hstart : start = (screenSet s t).received)
    (hfits : start + sent.length ≤ (screenSet s t).width * (screenSet s t).height)
    (hbursts : burstsOf (tileAddr t + 2 * start) ((sent.map (fun v => max 1 (min 4095 v))).flatMap u16) =
      (a, bs) :: todo)
    (hfree : s.psc.engaged .sctTile = false) :
    runScreenTile f s = answer f 0x00 (u8 t ++ u32 (start + sent.length)) { s with
      sct := { s.sct with
        sets := s.sct.sets.set t { screenSet s t with
          received := start + sent.length
          runCrc := crcFrom (screenSet s t).runCrc ((sent.map (fun v => max 1 (min 4095 v))).flatMap u16) }
        tileBuf := some ⟨t, (sent.map (fun v => max 1 (min 4095 v))).flatMap u16, todo⟩ }
      psc := s.psc.request ⟨.sctTile, .write a bs, false⟩ } := by
  rw [runScreenTile_eq hp, if_neg (not_not.2 hstate), if_neg (not_not.2 hstart), if_neg (Nat.not_lt.2 hfits),
    receiveThresholds_clamped, map_clampThreshold, ← hstart]
  exact tilePump_asks (c := ⟨t, _, _⟩) rfl hbursts hfree

end

/-- Settles O25: the checks of SCREEN.TILE one by one, the completion of a tile-write burst in either order of its end,
and the cutting of a transfer by induction on the number of its bursts. -/
theorem screenTileIsTakenAndWritten : Obligations.ScreenTileIsTakenAndWritten := by
  refine ⟨⟨fun s f rest htakes hkind hready hbad => ?_,
      fun s f rest t start sent htakes hkind hready ht hstart hsome hmax hsent hpayload => ?_⟩,
    fun s o a bs stale c hburst hbuf hwaiting => ?_,
    fun a bs => ⟨cutUnits_bytes a le_rfl, fun _ _ _ => cutUnits_burst⟩⟩
  · have hexec : exec .screenTile s = .next (runScreenTile f (taken s rest)) := serve_ready htakes hkind hready _
    rw [hexec, runScreenTile, parseTile_eq_none hbad]
    rfl
  · have hexec : exec .screenTile s = .next (runScreenTile f (taken s rest)) := serve_ready htakes hkind hready _
    have hp : parseTile f.payload = some (t, start, sent) := by
      rw [hpayload, parseTile_layout ht hstart hsome hmax hsent]
    have hrun := runScreenTile_eq (s := taken s rest) hp
    rw [hexec]
    refine ⟨fun hstate => ?_, fun hstate hplace => ?_, fun hstate hplace hlong => ?_,
      fun a bs todo hstate hplace hfits hbursts hfree => ?_⟩
    · exact congrArg Host.Outcome.next (hrun.trans (if_pos hstate))
    · exact congrArg Host.Outcome.next (hrun.trans ((if_neg (not_not.2 hstate)).trans (if_pos hplace)))
    · exact congrArg Host.Outcome.next (hrun.trans ((if_neg (not_not.2 hstate)).trans
        ((if_neg (not_not.2 hplace)).trans (if_pos hlong))))
    · exact congrArg Host.Outcome.next
        (runScreenTile_accepts (s := taken s rest) hp hstate hplace hfits hbursts hfree)
  · rw [tileWriteDone_eq o hburst]
    refine ⟨fun hlast => ?_, fun a' bs' todo htodo => ?_⟩
    · have hdone (psc : Psc) := tileBurstDone_last (s := burstWritten a bs s psc) hbuf hlast
      rw [funext hdone]
      exact congrArg Host.Outcome.next (atEnd_idle o s { burstWritten a bs s s.psc with
        sct := { s.sct with tileBuf := none } })
    · have hasks (psc : Psc) (hfree : psc.engaged .sctTile = false) :=
        tileBurstDone_asks (s := burstWritten a bs s psc) hbuf htodo hfree
      rw [atEnd_congr_of_free hwaiting hasks]
      cases o <;> rfl

end Sys2Proof.Machine

/-! The tile cache fill (R96 to R98): how its bursts are asked for, what each leaves in the cache, and its judgement. -/

namespace Sys2Proof.Machine

/-! ## The tile cache (R96) -/

/-- A threshold placed at most one past the positions written replaces the one that stood there. -/
theorem cachePut_eq {cache : List Nat} {i : Nat} (h : i ≤ cache.length) (v : Nat) :
    cachePut cache i v = cache.take i ++ v :: cache.drop (i + 1) := by
  unfold cachePut
  split
  · rename_i hlt
    exact List.set_eq_take_append_cons_drop.trans (if_pos hlt)
  · rename_i hge
    obtain rfl : i = cache.length := by omega
    simp

theorem cacheFill_eq : ∀ (values : List Nat) {cache : List Nat} {i : Nat}, i ≤ cache.length →
    cacheFill i values cache = cache.take i ++ values.map clampThreshold ++ cache.drop (i + values.length)
  | [], cache, i, _ => by simp [cacheFill]
  | v :: r, cache, i, h => by
    have hput := cachePut_eq h (clampThreshold v)
    have htake : (cachePut cache i (clampThreshold v)).take (i + 1) = cache.take i ++ [clampThreshold v] := by
      rw [hput, List.append_cons]
      exact List.take_left' (by simp [h])
    have hdrop : (cachePut cache i (clampThreshold v)).drop (i + 1 + r.length) = cache.drop (i + 1 + r.length) := by
      rw [hput, List.append_cons, ← List.drop_drop, List.drop_left' (by simp [h]), List.drop_drop]
    have hlength : i + 1 ≤ (cachePut cache i (clampThreshold v)).length := by
      simp only [hput, List.length_append, List.length_take, List.length_cons, Nat.min_eq_left h]
      omega
    rw [cacheFill, cacheFill_eq r hlength, htake, hdrop]
    simp [Nat.add_assoc, Nat.add_comm 1]

/-! ## Asking for the bursts of a fill (R76, R96) -/

/-- R76: no burst is asked for while the fill has one. -/
theorem fillPump_waits {s : State} (h : s.psc.engaged .sctFill = true) : fillPump s = s := by
  unfold fillPump
  split
  · rw [if_pos (.inl h)]
  · rfl

theorem fillPump_of_no_fill {s : State} (h : s.sct.fill = none) : fillPump s = s := by simp only [fillPump, h]

/-- R96: SCT asks for the burst that begins at the first threshold not yet taken. -/
theorem fillPump_asks {s : State} {g : Fill} (hfill : s.sct.fill = some g) (hfree : s.psc.engaged .sctFill = false)
    (hmore : 2 * g.taken < tileBytes (screenSet s g.setIndex)) :
    fillPump s = { s with
      psc := s.psc.request ⟨.sctFill, .read (tileAddr g.setIndex + 2 * g.taken)
        (min 64 (tileBytes (screenSet s g.setIndex) - 2 * g.taken)), false⟩ } := by
  simp [fillPump, hfill, hfree, Nat.not_le.2 hmore, ask]

/-! ## The completion of a fill burst (R96 to R98) -/

theorem fillBurstDone_eq {s : State} {a n : Nat} {stale : Bool} (o : EndOrder)
    (h : s.psc.inFlight = .busy ⟨.sctFill, .read a n, stale⟩) :
    exec (.fillBurstDone o) s =
      .next (atEnd o s fun psc => fillDone stale (readBytes s a n) { s with psc := psc }) := by
  show execFillBurstDone o s = _
  simp only [execFillBurstDone, h, finishRead, completion_eq_atEnd]

/-- A fill with more values taken (R96). -/
def Fill.past (g : Fill) (values : List Nat) : Fill :=
  { g with crc := crcFrom g.crc (values.flatMap u16), taken := g.taken + values.length }

/-- SCT with more values of a fill taken: its cache holds them, clamped, at their positions (R96). -/
def Sct.past (t : Sct) (g : Fill) (values : List Nat) : Sct :=
  { t with
    cache := t.cache.take g.taken ++ values.map (fun v => max 1 (min 4095 v)) ++ t.cache.drop (g.taken + values.length)
    fill := some (g.past values) }

/-- R96: what the bytes of a fill burst leave in SCT. -/
theorem takeFill_eq {s : State} {g : Fill} (bs : List Byte) (h : g.taken ≤ s.sct.cache.length) :
    takeFill g bs s = { s with sct := s.sct.past g (halvesOf bs) } := by
  rw [takeFill, cacheFill_eq _ h, map_clampThreshold]
  rfl

section
variable {s : State} {g : Fill} {bs : List Byte} (hfill : s.sct.fill = some g) (hcache : g.taken ≤ s.sct.cache.length)
include hfill hcache

/-- R96, R97: the bytes of a burst are taken, and the fill is judged once it has all of its thresholds. -/
theorem fillDone_eq : fillDone false bs s =
    if tileBytes (screenSet s g.setIndex) ≤ 2 * (g.past (halvesOf bs)).taken then
      judgeFill (g.past (halvesOf bs)) { s with sct := s.sct.past g (halvesOf bs) }
    else fillPump { s with sct := s.sct.past g (halvesOf bs) } := by
  simp only [fillDone, Bool.false_eq_true, if_false, hfill, takeFill_eq bs hcache, Sct.past, fillComplete,
    decide_eq_true_eq]
  rfl

/-- R96: before the last threshold, SCT asks for the next burst. -/
theorem fillDone_asks (hfree : s.psc.engaged .sctFill = false)
    (hmore : 2 * (g.past (halvesOf bs)).taken < tileBytes (screenSet s g.setIndex)) :
    fillDone false bs s = { s with
      sct := s.sct.past g (halvesOf bs)
      psc := s.psc.request ⟨.sctFill, .read (tileAddr g.setIndex + 2 * (g.past (halvesOf bs)).taken)
        (min 64 (tileBytes (screenSet s g.setIndex) - 2 * (g.past (halvesOf bs)).taken)), false⟩ } := by
  rw [fillDone_eq hfill hcache, if_neg (Nat.not_le.2 hmore)]
  exact fillPump_asks (s := { s with sct := s.sct.past g (halvesOf bs) }) rfl hfree hmore

/-- R97: at the last threshold, a CRC equal to the set's load CRC passes the tile check. -/
theorem fillDone_passes (hall : tileBytes (screenSet s g.setIndex) ≤ 2 * (g.past (halvesOf bs)).taken)
    (hcrc : (g.past (halvesOf bs)).crc = (screenSet s g.setIndex).loadCrc) :
    fillDone false bs s = startImaging { s with
      sct := { s.sct.past g (halvesOf bs) with fill := none, tag := some (g.setIndex, g.generation) } } := by
  rw [fillDone_eq hfill hcache, if_pos hall]
  exact if_pos hcrc

/-- R97: at the last threshold, a CRC that differs makes the set SUSPECT and ends the job. -/
theorem fillDone_fails (hall : tileBytes (screenSet s g.setIndex) ≤ 2 * (g.past (halvesOf bs)).taken)
    (hcrc : (g.past (halvesOf bs)).crc ≠ (screenSet s g.setIndex).loadCrc) :
    fillDone false bs s = endArmed .tile none { s with
      sct := { s.sct.past g (halvesOf bs) with
        fill := none
        sets := s.sct.sets.set g.setIndex
          { screenSet s g.setIndex with state := .suspect, failedCrc := (g.past (halvesOf bs)).crc } } } := by
  rw [fillDone_eq hfill hcache, if_pos hall]
  exact if_neg hcrc

end

/-- R96: a fill begins at the first threshold of its tile area. -/
theorem beginFill_asks {s : State} {t : Nat} (generation : Nat) (hfree : s.psc.engaged .sctFill = false)
    (hsome : 1 ≤ tileBytes (screenSet s t)) : beginFill t generation s = { s with
      sct := { s.sct with tag := none, fill := some ⟨t, generation, 0xFFFF#16, 0⟩ }
      psc := s.psc.request ⟨.sctFill, .read (tileAddr t) (min 64 (tileBytes (screenSet s t))), false⟩ } := by
  have hasks := fillPump_asks
    (s := { s with sct := { s.sct with tag := none, fill := some ⟨t, generation, 0xFFFF#16, 0⟩ } }) rfl hfree hsome
  rwa [Nat.mul_zero, Nat.add_zero, Nat.sub_zero] at hasks

/-- Settles O26: in either order of its end, a burst's completion is one of `fillDone`'s cases, in which SCT, with no
request waiting, is free to ask for the next burst. -/
theorem fillBurstIsTakenAndTheFillJudged : Obligations.FillBurstIsTakenAndTheFillJudged := by
  refine ⟨fun s t generation => ⟨fun hengaged => fillPump_waits hengaged, beginFill_asks generation⟩,
    fun s o a n hburst => ⟨fun hnone => ?_, fun g hfill hwaiting hmore => ?_⟩,
    fun s o a n g hburst hfill hwaiting hcache => ?_⟩
  · have hidle (psc : Psc) : fillDone true (readBytes s a n) { s with psc := psc } = { s with psc := psc } :=
      fillPump_of_no_fill hnone
    rw [fillBurstDone_eq o hburst, funext hidle, atEnd_idle]
  · rw [fillBurstDone_eq o hburst]
    exact congrArg Host.Outcome.next (atEnd_congr_of_free hwaiting fun psc hfree => fillPump_asks hfill hfree hmore)
  · rw [fillBurstDone_eq o hburst]
    refine ⟨fun hmore => ?_, fun hall hcrc => ?_, fun hall hcrc => ?_⟩ <;>
      refine congrArg Host.Outcome.next (atEnd_congr_of_free hwaiting fun psc hfree => ?_)
    · exact fillDone_asks (s := { s with psc := psc }) hfill hcache hfree hmore
    · exact fillDone_passes (s := { s with psc := psc }) hfill hcache hall hcrc
    · exact fillDone_fails (s := { s with psc := psc }) hfill hcache hall hcrc

end Sys2Proof.Machine

/-! The screening computation (section 6.5): the tone curve (R114), the dot clamps (R115), and the screened bit of a
pixel (R116, R117). -/

namespace Sys2Proof.Machine

/-! ## The tone curve (R114) -/

theorem toneCurve_below (c : List Nat) {s : Nat} (hs : s < 240) : toneCurve c s =
    c.getD (s / 16) 0 + ((c.getD (s / 16 + 1) 0 - c.getD (s / 16) 0) * (s % 16) + 8) / 16 := if_pos hs

theorem toneCurve_last (c : List Nat) {s : Nat} (hs : 240 ≤ s) : toneCurve c s =
    c.getD 15 0 + ((c.getD 16 0 - c.getD 15 0) * (s - 240) + 7) / 15 := if_neg (Nat.not_lt.2 hs)

/-- A rounded part `r` of the `n` of a rise is at most the rise. -/
theorem roundedPart_le {d r n half : Nat} (hr : r ≤ n) (hhalf : half < n) : (d * r + half) / n ≤ d := by
  have hpart : d * r ≤ d * n := Nat.mul_le_mul_left d hr
  refine Nat.le_of_lt_succ (Nat.div_lt_of_lt_mul ?_)
  rw [Nat.mul_succ, Nat.mul_comm n d]
  omega

theorem roundedPart_mono {d r r' : Nat} (n half : Nat) (h : r ≤ r') : (d * r + half) / n ≤ (d * r' + half) / n :=
  Nat.div_le_div_right (Nat.add_le_add_right (Nat.mul_le_mul_left d h) half)

/-- The lower point of a segment is its value at the segment's start. -/
theorem toneCurve_start (c : List Nat) {k : Nat} (hk : k < 16) : toneCurve c (16 * k) = c.getD k 0 := by
  rcases Nat.lt_or_ge (16 * k) 240 with hs | hs
  · have hsegment : 16 * k / 16 = k := by omega
    have hplace : 16 * k % 16 = 0 := by omega
    simp [toneCurve_below c hs, hsegment, hplace]
  · obtain rfl : k = 15 := by omega
    simp [toneCurve_last c hs]

/-- A curve as it is stored (R88): 17 points, the first 0, none below the one before it. -/
structure StoredCurve (c : List Nat) : Prop where
  length : c.length = 17
  head : c.head? = some 0
  rises : c.Pairwise (· ≤ ·)

section
variable {c : List Nat} (hc : StoredCurve c)
include hc

theorem StoredCurve.point_zero : c.getD 0 0 = 0 := by
  rw [List.getD_eq_getElem?_getD, ← List.head?_eq_getElem?, hc.head]
  rfl

theorem StoredCurve.point_le {i j : Nat} (hij : i ≤ j) (hj : j ≤ 16) : c.getD i 0 ≤ c.getD j 0 := by
  have hlength := hc.length
  rcases Nat.eq_or_lt_of_le hij with rfl | hlt
  · exact le_rfl
  · rw [List.getD_eq_getElem c 0 (by omega), List.getD_eq_getElem c 0 (by omega)]
    exact List.pairwise_iff_getElem.1 hc.rises i j _ _ hlt

/-- The value of a sample lies between the points of its segment. -/
theorem StoredCurve.toneCurve_between {s : Nat} (hs : s ≤ 255) :
    c.getD (s / 16) 0 ≤ toneCurve c s ∧ toneCurve c s ≤ c.getD (s / 16 + 1) 0 := by
  have hrise : c.getD (s / 16) 0 ≤ c.getD (s / 16 + 1) 0 := hc.point_le (Nat.le_succ _) (by omega)
  rcases Nat.lt_or_ge s 240 with hlow | hhigh
  · have hpart := roundedPart_le (d := c.getD (s / 16 + 1) 0 - c.getD (s / 16) 0) (r := s % 16) (n := 16) (half := 8)
      (by omega) (by omega)
    rw [toneCurve_below c hlow]
    omega
  · have hpart := roundedPart_le (d := c.getD 16 0 - c.getD 15 0) (r := s - 240) (n := 15) (half := 7)
      (by omega) (by omega)
    have hlower : s / 16 = 15 := by omega
    have hupper : s / 16 + 1 = 16 := by omega
    rw [hupper, hlower] at hrise ⊢
    rw [toneCurve_last c hhigh]
    omega

/-- Within a segment the rounded part of the rise grows with the sample, and from one segment to a later one the points
between them keep the values in order. -/
theorem StoredCurve.toneCurve_mono {s s' : Nat} (h : s ≤ s') (hs' : s' ≤ 255) : toneCurve c s ≤ toneCurve c s' := by
  rcases Nat.eq_or_lt_of_le (Nat.div_le_div_right (c := 16) h) with hsame | hlater
  · rcases Nat.lt_or_ge s' 240 with hlow | hhigh
    · rw [toneCurve_below c hlow, toneCurve_below c (by omega), hsame]
      exact Nat.add_le_add_left (roundedPart_mono 16 8 (by omega)) _
    · rw [toneCurve_last c hhigh, toneCurve_last c (by omega)]
      exact Nat.add_le_add_left (roundedPart_mono 15 7 (by omega)) _
  · calc toneCurve c s ≤ c.getD (s / 16 + 1) 0 := (hc.toneCurve_between (by omega)).2
      _ ≤ c.getD (s' / 16) 0 := hc.point_le hlater (by omega)
      _ ≤ toneCurve c s' := (hc.toneCurve_between hs').1

theorem StoredCurve.toneCurve_full : toneCurve c 255 = c.getD 16 0 := by
  have hrise : c.getD 15 0 ≤ c.getD 16 0 := hc.point_le (by omega) le_rfl
  rw [toneCurve_last c (by omega)]
  omega

theorem StoredCurve.toneCurve_zero : toneCurve c 0 = 0 := (toneCurve_start c (k := 0) (by omega)).trans hc.point_zero

theorem StoredCurve.toneCurve_le {top s : Nat} (htop : ∀ v ∈ c, v ≤ top) (hs : s ≤ 255) : toneCurve c s ≤ top := by
  have hplace : s / 16 + 1 < c.length := by
    rw [hc.length]
    omega
  refine (hc.toneCurve_between hs).2.trans ?_
  rw [List.getD_eq_getElem c 0 hplace]
  exact htop _ (List.getElem_mem hplace)

end

/-- Settles O27: the two formulas, and what follows from them on a curve whose points do not fall. -/
theorem toneCurveMapsSamples : Obligations.ToneCurveMapsSamples := by
  intro c hlength hhead hrises htop
  have hc : StoredCurve c := ⟨hlength, hhead, hrises⟩
  refine ⟨fun s => toneCurve_below c, fun s hs _ => toneCurve_last c hs, fun s hs => hc.toneCurve_between (by omega),
    fun s hlow hhigh => ?_, fun k => toneCurve_start c, hc.toneCurve_full, hc.toneCurve_zero,
    fun s s' => hc.toneCurve_mono, fun s => hc.toneCurve_le htop⟩
  have hsegment : s / 16 = 15 := by omega
  have hbetween := hc.toneCurve_between hhigh
  rwa [hsegment] at hbetween

/-! ## The dot clamps (R115) -/

/-- Settles O28: the rows of the table are the branches of `dotClamp`. -/
theorem dotClampsMapScreenValues : Obligations.DotClampsMapScreenValues := by
  intro m mm v hm _ _
  unfold dotClamp
  refine ⟨fun hzero => if_pos hzero, fun hsome hlow hhalf => ?_, fun hsome hlow hhalf => ?_, fun hlow hhigh => ?_,
    fun hhigh hhalf => ?_, fun hhigh hhalf => ?_⟩
  · rw [if_neg (by omega), if_pos hlow, if_pos hhalf]
  · rw [if_neg (by omega), if_pos hlow, if_neg (by omega)]
  · rcases Nat.eq_zero_or_pos v with rfl | hsome
    · exact if_pos rfl
    · rw [if_neg (by omega), if_neg (by omega), if_pos hhigh]
  · rw [if_neg (by omega), if_neg (by omega), if_neg (by omega), if_pos hhalf]
  · rw [if_neg (by omega), if_neg (by omega), if_neg (by omega), if_neg (by omega)]

/-- R117: a clamped value is 0, 4095, or within the clamps. -/
theorem dotClamp_range {m mm : Nat} (hm : m ≤ mm) (v : Nat) :
    dotClamp m mm v = 0 ∨ dotClamp m mm v = 4095 ∨ (m ≤ dotClamp m mm v ∧ dotClamp m mm v ≤ mm) := by
  unfold dotClamp
  (repeat' split) <;> omega

/-! ## The screened bit (R116, R117) -/

/-- R116: the threshold of a pixel stands within the tile. -/
theorem thresholdPosition_lt {t : ScreenSet} (hwidth : 1 ≤ t.width) (hheight : 1 ≤ t.height) (x y : Nat) :
    thresholdPosition t x y < t.width * t.height := by
  have hrow : y % t.height + 1 ≤ t.height := Nat.mod_lt y hheight
  have hcol : (x + t.shift * (y / t.height)) % t.width < t.width := Nat.mod_lt _ hwidth
  calc thresholdPosition t x y < (y % t.height) * t.width + t.width := Nat.add_lt_add_left hcol _
    _ = (y % t.height + 1) * t.width := (Nat.succ_mul _ _).symm
    _ ≤ t.height * t.width := Nat.mul_le_mul_right _ hrow
    _ = t.width * t.height := Nat.mul_comm _ _

/-- R117: the bit is set where the threshold is at most the screened value. -/
theorem screenedBit_iff (t : ScreenSet) (cache : List Nat) (sample x y : Nat) : screenedBit t cache sample x y = true ↔
    cache.getD (thresholdPosition t x y) 0 ≤ screenedValue t sample := decide_eq_true_iff

theorem screenedValue_zero {t : ScreenSet} (hc : StoredCurve t.curve) : screenedValue t 0 = 0 := by
  rw [screenedValue, hc.toneCurve_zero]
  rfl

section
variable {t : ScreenSet} {cache : List Nat}
  (hcache : ∀ i, i < t.width * t.height → 1 ≤ cache.getD i 0 ∧ cache.getD i 0 ≤ 4095) (hwidth : 1 ≤ t.width)
  (hheight : 1 ≤ t.height)
include hcache hwidth hheight

/-- R94: every threshold is at least 1, so a value of 0 sets no bit. -/
theorem screenedBit_of_value_zero {sample : Nat} (h : screenedValue t sample = 0) (x y : Nat) :
    screenedBit t cache sample x y = false := by
  obtain ⟨hlow, -⟩ := hcache _ (thresholdPosition_lt hwidth hheight x y)
  rw [← Bool.not_eq_true, screenedBit_iff, h]
  omega

/-- R94: every threshold is at most 4095, so that value sets the bit of every pixel. -/
theorem screenedBit_of_value_full {sample : Nat} (h : screenedValue t sample = 4095) (x y : Nat) :
    screenedBit t cache sample x y = true := by
  obtain ⟨-, hhigh⟩ := hcache _ (thresholdPosition_lt hwidth hheight x y)
  rw [screenedBit_iff, h]
  exact hhigh

end

end Sys2Proof.Machine

/-! What the raster unit paints into its band buffer (R108, R110, R111), and the words and bursts that it makes of it
(R118, R119). -/

namespace Sys2Proof.Machine

/-! ## Pixels of the band buffer -/

theorem setLine_getLsbD (c : BitVec 64) (line : Nat) (v : Bool) {y : Nat} (hy : y < 64) :
    (setLine c line v).getLsbD y = if y = line then v else c.getLsbD y := by
  have hmask : (1#64 <<< line).getLsbD y = decide (y = line) := by
    rw [BitVec.getLsbD_shiftLeft, BitVec.getLsbD_one, Bool.eq_iff_iff]
    simp only [Bool.and_eq_true, Bool.not_eq_true', decide_eq_true_eq, decide_eq_false_iff_not]
    omega
  cases v
  · simp only [setLine, Bool.false_eq_true, if_false, BitVec.getLsbD_and, BitVec.getLsbD_not, hmask, hy, decide_true,
      Bool.true_and]
    by_cases h : y = line <;> simp [h]
  · simp only [setLine, if_true, BitVec.getLsbD_or, hmask]
    by_cases h : y = line <;> simp [h]

/-- Column `px` of the band buffer after each column has been rewritten. -/
theorem getD_mapIdx {cols : List (BitVec 64)} {px : Nat} {c : BitVec 64} (h : cols[px]? = some c)
    (f : Nat → BitVec 64 → BitVec 64) : (cols.mapIdx f).getD px 0 = f px c := by
  simp [List.getD_eq_getElem?_getD, h]

/-- The bit of a pixel where the bit of one line is given a value in some of the columns. -/
theorem ite_setLine_getLsbD (p : Prop) [Decidable p] (c : BitVec 64) (line : Nat) (v : Bool) {y : Nat} (hy : y < 64) :
    (if p then setLine c line v else c).getLsbD y = if p ∧ y = line then v else c.getLsbD y := by
  by_cases hp : p
  · simp only [hp, if_true, true_and, setLine_getLsbD c line v hy]
  · simp only [hp, if_false, false_and]

/-- R110: the bits that a sample's rows give one column, line by line. -/
theorem paintColumn_getLsbD (t : ScreenSet) (cache : List Nat) (value x top firstLine : Nat) (c : BitVec 64) {y : Nat}
    (hy : y < 64) : ∀ z, (paintColumn t cache value x top firstLine z c).getLsbD y =
      if firstLine ≤ y ∧ y < firstLine + z then screenedBit t cache value x (top + y) else c.getLsbD y
  | 0 => by rw [if_neg (by omega)]; rfl
  | z + 1 => by
    have hlast : paintColumn t cache value x top firstLine (z + 1) c =
        setLine (paintColumn t cache value x top firstLine z c) (firstLine + z)
          (screenedBit t cache value x (top + firstLine + z)) := by
      simp [paintColumn, List.range_succ]
    rw [hlast, setLine_getLsbD _ _ _ hy, paintColumn_getLsbD t cache value x top firstLine c hy z]
    rcases Nat.lt_trichotomy y (firstLine + z) with hbefore | rfl | hbehind
    · rw [if_neg (by omega)]
      exact if_congr (by omega) rfl rfl
    · rw [if_pos rfl, if_pos (by omega), Nat.add_assoc]
    · rw [if_neg (by omega), if_neg (by omega), if_neg (by omega)]

/-- R110: a sample writes the bits of the pixels that it covers within the page. -/
theorem paintSample_getLsbD {cols : List (BitVec 64)} {px : Nat} {c : BitVec 64} (h : cols[px]? = some c)
    (t : ScreenSet) (cache : List Nat) (slot : RuSlot) (sl : Slice) (row col value top : Nat) {y : Nat} (hy : y < 64) :
    ((paintSample t cache slot sl row col value top cols).getD px 0).getLsbD y =
      (if slot.x0 + sl.wx + col * sl.z ≤ px ∧ px < slot.x0 + sl.wx + col * sl.z + sl.z ∧ px < slot.x0 + slot.width ∧
          sl.y0 + row * sl.z ≤ y ∧ y < sl.y0 + row * sl.z + sl.z then
        screenedBit t cache value px (top + y)
      else c.getLsbD y) := by
  have hcolumn := paintColumn_getLsbD t cache value px top (sl.y0 + row * sl.z) c hy sl.z
  rw [paintSample, getD_mapIdx h]
  split
  · rw [hcolumn]
    exact if_congr (by omega) rfl rfl
  · rw [if_neg (by omega)]

/-- R112, R118: bit i of a sweep's word is the output bit of line 32h + i. -/
theorem sweepWord_getLsbD (ru : Ru) (h x : Nat) {i : Nat} (hi : i < 32) : (sweepWord ru h x).getLsbD i =
    ((ru.lineArt.getD x 0).getLsbD (32 * h + i) || (ru.screen.getD x 0).getLsbD (32 * h + i)) := by
  simp [sweepWord, hi]

/-! ## The bytes of a burst of a sweep (R119) -/

theorem sweepBurst_length (ru : Ru) (wp h g : Nat) : (sweepBurst ru wp h g).length = 4 * min 16 (wp - 16 * g) := by
  rw [sweepBurst, length_flatMap_const (k := 4) fun _ => wordBytes_length _, List.length_range]

/-- Byte i of the burst's word k is that of word 16g + k of the sweep. -/
theorem sweepBurst_getElem? (ru : Ru) {wp h g k i : Nat} (hk : k < 16) (hwp : 16 * g + k < wp) (hi : i < 4) :
    (sweepBurst ru wp h g)[4 * k + i]? = some ((sweepWord ru h (16 * g + k)).extractLsb' (8 * i) 8) := by
  have hplace : (List.range (min 16 (wp - 16 * g)))[k]? = some k := List.getElem?_range (by omega)
  obtain ⟨q, hq⟩ := drop_flatMap (enc := fun k => wordBytes (sweepWord ru h (16 * g + k))) (fun _ => wordBytes_length _)
    _ hplace
  rw [sweepBurst, ← List.getElem?_drop, hq, List.getElem?_append_left (by simpa using hi), wordBytes_getElem? _ hi]

/-! ## Screening and painting together -/

/-- Settles O29: the screened value and its bit from the curve and the clamps; each painting pixel by pixel; and the
decoding of a burst one byte at a time. -/
theorem screenedBitsAndPixels : Obligations.ScreenedBitsAndPixels := by
  refine ⟨fun x cache sample hlength hhead hrises htop hdots _ hsample => ?_,
    ⟨fun x len line px y cols c hcol _ hy => ?_, fun t cache slot sl row col value top px y cols c hcol hy _ _ =>
      paintSample_getLsbD hcol t cache slot sl row col value top hy, fun ru h x i _ => sweepWord_getLsbD ru h x⟩,
    fun t cache top b bs ru c => ?_⟩
  · have hc : StoredCurve x.curve := ⟨hlength, hhead, hrises⟩
    refine ⟨rfl, dotClamp_range (Nat.le_of_lt hdots) _, fun px py hcache hwidth hheight => ⟨?_, fun hfull =>
      screenedBit_of_value_full hcache hwidth hheight hfull px py, screenedBit_iff x cache sample px py⟩⟩
    rintro rfl
    exact screenedBit_of_value_zero hcache hwidth hheight (screenedValue_zero hc) px py
  · rw [paintRun, whitenLine, getD_mapIdx hcol, getD_mapIdx hcol, ite_setLine_getLsbD _ c line true hy,
      ite_setLine_getLsbD _ c line false hy]
    simp only [and_assoc, and_self]
  · refine ⟨rfl, decodeBytes_done t cache top, fun hdone => ⟨fun cause => decodeBytes_fault t cache top hdone,
      fun hsound => ?_⟩⟩
    have hgoesOn {ev : ScanEvent} (hev : (scanByte c.slot.width c.scan b).2 = ev) :
        decodeBytes t cache top (b :: bs) ru c = decodeBytes t cache top bs (applyEvent t cache c.slot top ev ru)
          { c with scan := (scanByte c.slot.width c.scan b).1, read := c.read + 1 } :=
      hev ▸ decodeBytes_step t cache top hdone hsound
    exact ⟨fun _ _ _ hev => hgoesOn hev, fun _ _ _ hev => hgoesOn hev, fun _ hev => hgoesOn hev,
      fun _ _ _ _ hev => hgoesOn hev, fun hev => hgoesOn hev⟩

end Sys2Proof.Machine

/-! The raster unit's requests, and its placing of a plate band's pages (R102 to R105, R107, R119). -/

namespace Sys2Proof.Machine

/-! ## Asking for bursts (R76, R107, R119) -/

/-- R76: no burst is asked for while RU has one. -/
theorem ruPump_waits {s : State} (h : s.psc.engaged .ru = true) : ruPump s = s := if_pos h

theorem ruPump_of_nothing_needed {s : State} (h : ruNextBurst s = none) : ruPump s = s := by
  simp only [ruPump, h, ite_self]

theorem ruPump_asks {s : State} {x : Transfer} (hfree : s.psc.engaged .ru = false) (h : ruNextBurst s = some x) :
    ruPump s = { s with psc := s.psc.request ⟨.ru, x, false⟩ } := by
  simp only [ruPump, hfree, Bool.false_eq_true, if_false, h, ask]

theorem ruNextBurst_of_not_building {s : State} (h : s.ru.phase ≠ .building) : ruNextBurst s = none := by
  unfold ruNextBurst
  split
  · exact absurd ‹_› h
  · rfl

/-- R120: while RU is not BUILDING it asks for nothing. -/
theorem ruPump_of_not_building {s : State} (h : s.ru.phase ≠ .building) : ruPump s = s :=
  ruPump_of_nothing_needed (ruNextBurst_of_not_building h)

section
variable {s : State} {j : RuJob} (hphase : s.ru.phase = .building) (hjob : s.ru.job = some j)
  (hfree : s.psc.engaged .ru = false)
include hphase hjob hfree

/-- R107: RU asks for the band's next bytes. -/
theorem ruPump_reads {c : DecodeContext} (hcontext : s.ru.context = some c) : ruPump s = { s with
    psc := s.psc.request ⟨.ru, .read (blockAddr c.block + c.read % 16384) (min 64 (c.length - c.read)), false⟩ } := by
  refine ruPump_asks hfree ?_
  simp only [ruNextBurst, hphase, hjob, hcontext]
  rfl

/-- R119: RU asks for the next burst of the sweep that it writes. -/
theorem ruPump_writes {h g k0 k1 : Nat} (hcontext : s.ru.context = none) (hwrite : s.ru.write = some (h, g))
    (hclaimed : s.ru.claimed = some (k0, k1)) : ruPump s = { s with
      psc := s.psc.request ⟨.ru, .write (ringAddr (if h = 0 then k0 else k1) + 64 * g) (sweepBurst s.ru j.wp h g),
        false⟩ } := by
  refine ruPump_asks hfree ?_
  simp only [ruNextBurst, hphase, hjob, hcontext, hwrite, hclaimed]

end

/-! ## The placing of pages (R103 to R105) -/

theorem pageBandOf_eq_none {top cursor : Nat} {slot : RuSlot} (h : cursor < top / 64 ∨ top / 64 + slot.bands ≤ cursor) :
    pageBandOf top cursor slot = none := if_neg (by omega)

theorem pageBandOf_eq_some {top cursor b : Nat} {slot : RuSlot} (h : cursor = top / 64 + b) (hb : b < slot.bands) :
    pageBandOf top cursor slot = some b := by
  obtain rfl : b = cursor - top / 64 := by omega
  exact if_pos ⟨by omega, hb⟩

/-- R105: outside the page's bands RU goes on to the next slot and hands nothing. -/
theorem ruPlace_outside {s : State} {top : Nat} {slot : RuSlot} (rest : List RuSlot)
    (h : pageBandOf top s.ru.cursor slot = none) : ruPlace top (slot :: rest) s = ruPlace top rest s := by
  simp only [ruPlace, h]

section
variable {s : State} {top b : Nat} {slot : RuSlot} {r : BandRecord} (rest : List RuSlot)
  (hplace : pageBandOf top s.ru.cursor slot = some b) (hband : bandOf s slot.handle b = some r)
include hplace hband

/-- R104, R105: a band that is not GOOD is left white, and DREC is told. -/
theorem ruPlace_blank (hstate : r.state ≠ .good) :
    ruPlace top (slot :: rest) s = ruPlace top rest (handDefect (blankDefect s.ru.cursor slot b) s) := by
  simp only [ruPlace, hplace, hband]
  exact if_neg hstate

/-- R104: RU begins to read a GOOD band. -/
theorem ruPlace_good (hstate : r.state = .good) : ruPlace top (slot :: rest) s = ruPump { s with ru := { s.ru with
    context := some ⟨slot, b, r.length, 0, r.head, Scan.start⟩, rest := rest, windows := [] } } := by
  simp only [ruPlace, hplace, hband]
  exact if_pos hstate

end

/-! ## The claim of two ring slots (R102, R103) -/

theorem ruLook_of_not_waiting {s : State} (h : s.ru.phase ≠ .waiting) : ruLook s = s := by
  unfold ruLook
  split
  · exact absurd ‹_› h
  · rfl

/-- RU BUILDING a plate band of a job in two claimed ring slots, with the band buffer cleared (R103). -/
def Ru.began (ru : Ru) (j : RuJob) (k0 k1 : Nat) : Ru :=
  { ru with
    phase := .building
    claimed := some (k0, k1)
    lineArt := List.replicate j.wp 0
    screen := List.replicate j.wp 0
    context := none
    rest := []
    windows := []
    write := none }

/-- The state with two ring slots in a state of the ring (R102, R119). -/
def withRing (k0 k1 : Nat) (r : RingState) (s : State) : State :=
  { s with imp := { s.imp with ring := (s.imp.ring.set k0 r).set k1 r } }

/-- R102, R103: RU in WAITING claims both slots of its plate band when both are FREE. -/
theorem ruLook_eq {s : State} {j : RuJob} (hphase : s.ru.phase = .waiting) (hjob : s.ru.job = some j) : ruLook s =
    if ringState s (2 * s.ru.cursor % 8) = .free ∧ ringState s ((2 * s.ru.cursor + 1) % 8) = .free then
      ruPlace j.top j.slots
        { withRing (2 * s.ru.cursor % 8) ((2 * s.ru.cursor + 1) % 8) .filling s with
          ru := s.ru.began j (2 * s.ru.cursor % 8) ((2 * s.ru.cursor + 1) % 8) }
    else s := by
  simp only [ruLook, hphase, hjob]
  rfl

/-- Of two different slots of the ring, both hold what both are given. -/
theorem ringState_withRing {s : State} {k0 k1 : Nat} (h : k0 ≠ k1) (h0 : k0 < s.imp.ring.length)
    (h1 : k1 < s.imp.ring.length) (r : RingState) :
    ringState (withRing k0 k1 r s) k0 = r ∧ ringState (withRing k0 k1 r s) k1 = r := by
  simp [ringState, withRing, List.getD_eq_getElem?_getD, h0, h1, h.symm]

/-- Settles O31: the two answers of the claim, the three that a page slot can have, and the end of the slots. -/
theorem rasterUnitClaimsSlotsAndPlacesPages : Obligations.RasterUnitClaimsSlotsAndPlacesPages := by
  refine ⟨fun s j hphase hjob => ?_, fun s top slot rest _ => ⟨fun h => ruPlace_outside rest (pageBandOf_eq_none h),
    fun b r hcursor hb hband => ?_⟩, fun s top => ?_⟩
  · intro k0 k1
    have hlook := ruLook_eq hphase hjob
    refine ⟨fun hheld => hlook.trans (if_neg (by tauto)), fun h0 h1 => ?_⟩
    rw [if_pos ⟨h0, h1⟩] at hlook
    refine ⟨hlook, fun hlength => ?_⟩
    have hring := ringState_withRing (s := s) (k0 := k0) (k1 := k1) (by omega) (by omega) (by omega) .filling
    have himp : (ruLook s).imp = (withRing k0 k1 .filling s).imp := by rw [hlook]; simp [k0, k1]
    have hru : (ruLook s).ru.phase = .building ∧ (ruLook s).ru.claimed = some (k0, k1) ∧
        (ruLook s).ru.cursor = s.ru.cursor ∧ (ruLook s).ru.lineArt = List.replicate j.wp 0 ∧
        (ruLook s).ru.screen = List.replicate j.wp 0 := by
      rw [hlook]
      simp [Ru.began, k0, k1]
    obtain ⟨hbuilding, hclaimed, hcursor, hlineArt, hscreen⟩ := hru
    refine ⟨hbuilding, hclaimed, hcursor, himp, hlineArt, hscreen, ?_⟩
    rwa [ringState, ringState, himp]
  · have hplace := pageBandOf_eq_some hcursor hb
    refine ⟨ruPlace_blank rest hplace hband, fun hgood => ?_⟩
    intro ru
    have hplaced : ruPlace top (slot :: rest) s = ruPump { s with ru := ru } := ruPlace_good rest hplace hband hgood
    refine ⟨hplaced, fun hengaged => hplaced.trans (ruPump_waits hengaged),
      fun j block hfree hphase hjob hhead => hplaced.trans ?_⟩
    have hreads : ruPump { s with ru := ru } = { s with
        ru := ru
        psc := s.psc.request ⟨.ru, .read (blockAddr r.head + 0 % 16384) (min 64 (r.length - 0)), false⟩ } :=
      ruPump_reads (s := { s with ru := ru }) hphase hjob hfree rfl
    rwa [hhead, Nat.zero_mod, Nat.add_zero, Nat.sub_zero] at hreads
  · intro ru
    refine ⟨fun hengaged => ruPump_waits (s := { s with ru := ru }) hengaged,
      fun j k0 k1 hfree hphase hjob hclaimed => ?_⟩
    have hwrites := ruPump_writes (s := { s with ru := ru }) hphase hjob hfree rfl rfl hclaimed
    rwa [if_pos rfl, Nat.mul_zero, Nat.add_zero] at hwrites

end Sys2Proof.Machine

/-! The completions of the raster unit's bursts (R107, R111, R119, R120), in both orders of R77. -/

namespace Sys2Proof.Machine

/-! ## What decoding leaves alone (R107) -/

/-- Decoding paints and gathers windows; RU's place in its job stays. -/
theorem applyEvent_keeps (t : ScreenSet) (cache : List Nat) (slot : RuSlot) (top : Nat) (ev : ScanEvent) (ru : Ru) :
    (applyEvent t cache slot top ev ru).phase = ru.phase ∧ (applyEvent t cache slot top ev ru).job = ru.job ∧
      (applyEvent t cache slot top ev ru).cursor = ru.cursor := by
  cases ev with
  | run line start len black => cases black <;> exact ⟨rfl, rfl, rfl⟩
  | _ => exact ⟨rfl, rfl, rfl⟩

theorem decodeBytes_keeps (t : ScreenSet) (cache : List Nat) (top : Nat) (bs : List Byte) :
    ∀ (ru : Ru) (c : DecodeContext),
      ((decodeBytes t cache top bs ru c).1.phase = ru.phase ∧ (decodeBytes t cache top bs ru c).1.job = ru.job ∧
        (decodeBytes t cache top bs ru c).1.cursor = ru.cursor) ∧
      (decodeBytes t cache top bs ru c).2.1.slot = c.slot ∧ (decodeBytes t cache top bs ru c).2.1.band = c.band ∧
        (decodeBytes t cache top bs ru c).2.1.length = c.length ∧
        (decodeBytes t cache top bs ru c).2.1.block = c.block := by
  induction bs with
  | nil => exact fun ru c => ⟨⟨rfl, rfl, rfl⟩, rfl, rfl, rfl, rfl⟩
  | cons b bs ih =>
    intro ru c
    by_cases hdone : c.scan = .done
    · rw [decodeBytes_done t cache top hdone]
      exact ⟨⟨rfl, rfl, rfl⟩, rfl, rfl, rfl, rfl⟩
    · by_cases hfault : ∃ cause, (scanByte c.slot.width c.scan b).1 = .fault cause
      · obtain ⟨cause, hcause⟩ := hfault
        rw [decodeBytes_fault t cache top hdone hcause]
        exact ⟨⟨rfl, rfl, rfl⟩, rfl, rfl, rfl, rfl⟩
      · rw [decodeBytes_step t cache top hdone (not_exists.1 hfault)]
        obtain ⟨hru, hcontext⟩ := ih (applyEvent t cache c.slot top (scanByte c.slot.width c.scan b).2 ru)
          { c with scan := (scanByte c.slot.width c.scan b).1, read := c.read + 1 }
        rw [hru.1, hru.2.1, hru.2.2]
        exact ⟨applyEvent_keeps t cache c.slot top _ ru, hcontext⟩

/-! ## The completion of a read burst (R107, R111) -/

/-- What RU's decoding of a burst's bytes leaves: RU, its decode context, and the fault found, if one is (R107). -/
def decoded (s : State) (j : RuJob) (c : DecodeContext) (bs : List Byte) : Ru × DecodeContext × Option DamageCause :=
  decodeBytes (screenSet s j.setIndex) s.sct.cache (64 * s.ru.cursor) bs s.ru c

/-- RU after a fault: it has given the band up, and the faulty line of line art is white (R111). -/
def Ru.faulted (ru : Ru) (c : DecodeContext) : Ru :=
  { ru with
    context := none
    lineArt := match c.scan.lineOf with
      | some l => whitenLine c.slot.x0 c.slot.width l ru.lineArt
      | none => ru.lineArt }

/-- R111: the DECODE defect of a fault in plate band `cursor`. -/
def decodeDefect (cursor : Nat) (c : DecodeContext) : Defect :=
  Defect.handed .decode (64 * cursor + c.scan.lineOf.getD 0) (64 * cursor + 63)
    (some (c.slot.x0, c.slot.x0 + c.slot.width - 1)) none (some c.slot.number) (some c.band) none

/-- R111: what RU does at a fault. -/
theorem ruFault_eq (top : Nat) (c : DecodeContext) (s : State) : ruFault top c s =
    ruPlace top s.ru.rest (handDefect (decodeDefect s.ru.cursor c) { s with ru := s.ru.faulted c }) := by
  unfold ruFault Ru.faulted decodeDefect
  cases c.scan.lineOf <;> rfl

/-- R67, R107: the block that holds a band's next byte: the chain's next one at a block boundary. -/
def DecodeContext.blockAhead (c : DecodeContext) (p : Psc) : Option Nat :=
  if c.read % 16384 = 0 then c.block.bind p.link else c.block

section
variable {s : State} {j : RuJob} {c : DecodeContext} (hcontext : s.ru.context = some c) (hjob : s.ru.job = some j)
include hcontext hjob

/-- R111: a fault that the decoding finds. -/
theorem ruReadDone_of_cause {bs : List Byte} {ru : Ru} {c' : DecodeContext} {cause : DamageCause}
    (hdecoded : decoded s j c bs = (ru, c', some cause)) :
    ruReadDone false bs s = ruFault j.top c' { s with ru := { ru with context := some c' } } := by
  rw [decoded] at hdecoded
  simp only [ruReadDone, Bool.false_eq_true, if_false, hcontext, hjob, hdecoded]

/-- R107: what a burst decoded without a fault leads to. -/
theorem ruReadDone_of_sound {bs : List Byte} {ru : Ru} {c' : DecodeContext}
    (hdecoded : decoded s j c bs = (ru, c', none)) : ruReadDone false bs s =
      if c'.scan = .done then
        if c'.read < c'.length then ruFault j.top c' { s with ru := { ru with context := some c' } }
        else ruPlace j.top ru.rest { s with ru := { ru with context := none } }
      else if c'.length ≤ c'.read then ruFault j.top c' { s with ru := { ru with context := some c' } }
      else ruPump { s with ru := { ru with context := some { c' with block := c'.blockAhead s.psc } } } := by
  rw [decoded] at hdecoded
  simp only [ruReadDone, Bool.false_eq_true, if_false, hcontext, hjob, hdecoded]
  rfl

variable {bs : List Byte} {ru : Ru} {c' : DecodeContext} {fault : Option DamageCause}
  (hdecoded : decoded s j c bs = (ru, c', fault))
include hdecoded

/-- R107: within the band RU asks for the next burst. -/
theorem ruReadDone_asks (hphase : ru.phase = .building) (hjob' : ru.job = some j) (hfree : s.psc.engaged .ru = false)
    (hsound : fault = none) (hscan : c'.scan ≠ .done) (hread : c'.read < c'.length) :
    ruReadDone false bs s = { s with
      ru := { ru with context := some { c' with block := c'.blockAhead s.psc } }
      psc := s.psc.request ⟨.ru, .read (blockAddr (c'.blockAhead s.psc) + c'.read % 16384)
        (min 64 (c'.length - c'.read)), false⟩ } := by
  subst hsound
  rw [ruReadDone_of_sound hcontext hjob hdecoded, if_neg hscan, if_neg (Nat.not_le.2 hread)]
  exact ruPump_reads (s := { s with ru := { ru with context := some { c' with block := c'.blockAhead s.psc } } })
    hphase hjob' hfree rfl

/-- R107: at the band's correct end RU goes on to the next page slot. -/
theorem ruReadDone_ends (hsound : fault = none) (hscan : c'.scan = .done) (hread : c'.length ≤ c'.read) :
    ruReadDone false bs s = ruPlace j.top ru.rest { s with ru := { ru with context := none } } := by
  subst hsound
  rw [ruReadDone_of_sound hcontext hjob hdecoded, if_pos hscan, if_neg (Nat.not_lt.2 hread)]

/-- R111: a fault in the coding, bytes behind the correct end, or none left before it. -/
theorem ruReadDone_faults (hfault : fault ≠ none ∨ (c'.scan = .done ∧ c'.read < c'.length) ∨
    (c'.scan ≠ .done ∧ c'.length ≤ c'.read)) : ruReadDone false bs s =
      ruPlace j.top ru.rest (handDefect (decodeDefect ru.cursor c') { s with ru := ru.faulted c' }) := by
  have hgivenUp : ruReadDone false bs s = ruFault j.top c' { s with ru := { ru with context := some c' } } := by
    cases fault with
    | some cause => exact ruReadDone_of_cause hcontext hjob hdecoded
    | none =>
      rw [ruReadDone_of_sound hcontext hjob hdecoded]
      rcases hfault with hne | ⟨hscan, hread⟩ | ⟨hscan, hread⟩
      · exact absurd rfl hne
      · rw [if_pos hscan, if_pos hread]
      · rw [if_neg hscan, if_pos hread]
  exact hgivenUp.trans (ruFault_eq ..)

end

/-! ## The completion of a write burst (R119) -/

/-- R119: RU asks for the burst of the place in the writing that it goes on to. -/
theorem ruPump_writes_from {s : State} {j : RuJob} {k0 k1 : Nat} (hphase : s.ru.phase = .building)
    (hjob : s.ru.job = some j) (hcontext : s.ru.context = none) (hclaimed : s.ru.claimed = some (k0, k1))
    (hfree : s.psc.engaged .ru = false) (h g : Nat) :
    ruPump { s with ru := { s.ru with write := some (h, g) } } = { s with
      ru := { s.ru with write := some (h, g) }
      psc := s.psc.request ⟨.ru, .write (ringAddr (if h = 0 then k0 else k1) + 64 * g) (sweepBurst s.ru j.wp h g),
        false⟩ } :=
  ruPump_writes (s := { s with ru := { s.ru with write := some (h, g) } }) hphase hjob hfree hcontext rfl hclaimed

section
variable {s : State} {j : RuJob} {h g k0 k1 : Nat} (hjob : s.ru.job = some j) (hwrite : s.ru.write = some (h, g))
  (hclaimed : s.ru.claimed = some (k0, k1))
include hjob hwrite hclaimed

/-- R119: what a written burst leads to. -/
theorem ruWriteDone_eq : ruWriteDone false s =
    if 16 * (g + 1) < j.wp then ruPump { s with ru := { s.ru with write := some (h, g + 1) } }
    else if h = 0 then ruPump { s with ru := { s.ru with write := some (1, 0) } }
    else ruLook { withRing k0 k1 .ready s with ru := { s.ru with
      phase := if s.ru.cursor + 1 < j.bp then .waiting else .done
      cursor := s.ru.cursor + 1
      claimed := none
      write := none } } := by
  simp only [ruWriteDone, Bool.false_eq_true, if_false, hjob, hwrite, hclaimed, setRing]
  rfl

/-- R119, R101: behind the last burst of the second slot both slots are READY, and RU looks for those of the next plate
band. -/
theorem ruWriteDone_next_band (hlast : j.wp ≤ 16 * (g + 1)) (hsecond : h ≠ 0) (hmore : s.ru.cursor + 1 < j.bp) :
    ruWriteDone false s = ruLook { withRing k0 k1 .ready s with
      ru := { s.ru with phase := .waiting, cursor := s.ru.cursor + 1, claimed := none, write := none } } := by
  rw [ruWriteDone_eq hjob hwrite hclaimed, if_neg (Nat.not_lt.2 hlast), if_neg hsecond, if_pos hmore]

/-- R119, R122: behind the last plate band RU is DONE. -/
theorem ruWriteDone_last_band (hlast : j.wp ≤ 16 * (g + 1)) (hsecond : h ≠ 0) (hend : j.bp ≤ s.ru.cursor + 1) :
    ruWriteDone false s = { withRing k0 k1 .ready s with
      ru := { s.ru with phase := .done, cursor := s.ru.cursor + 1, claimed := none, write := none } } := by
  rw [ruWriteDone_eq hjob hwrite hclaimed, if_neg (Nat.not_lt.2 hlast), if_neg hsecond, if_neg (Nat.not_lt.2 hend)]
  exact ruLook_of_not_waiting nofun

end

/-! ## Completions in both orders (R77) -/

theorem ruReadBurstDone_eq {s : State} {a n : Nat} {stale : Bool} (o : EndOrder)
    (h : s.psc.inFlight = .busy ⟨.ru, .read a n, stale⟩) : exec (.ruReadBurstDone o) s =
      .next (atEnd o s fun psc => ruReadDone stale (readBytes s a n) { s with psc := psc }) := by
  show execRuReadBurstDone o s = _
  simp only [execRuReadBurstDone, h, finishRead, completion_eq_atEnd]

theorem ruWriteBurstDone_eq {s : State} {a : Nat} {bs : List Byte} {stale : Bool} (o : EndOrder)
    (h : s.psc.inFlight = .busy ⟨.ru, .write a bs, stale⟩) :
    exec (.ruWriteBurstDone o) s = .next (atEnd o s fun psc => ruWriteDone stale (burstWritten a bs s psc)) := by
  show execRuWriteBurstDone o s = _
  simp only [execRuWriteBurstDone, h, finishWrite, completion_eq_atEnd]
  cases o <;> rfl

/-- R69, R77: the end of an operation leaves the block link table alone, whichever comes first. -/
theorem atEnd_congr_of_free_linked {o : EndOrder} {s : State} {c : Client} {next next' : Psc → State}
    (hwaiting : ∀ p ∈ s.psc.waiting, p.client ≠ c)
    (h : ∀ psc : Psc, psc.engaged c = false → psc.link = s.psc.link → next psc = next' psc) :
    atEnd o s next = atEnd o s next' := by
  have hlink : s.psc.endOperation.link = s.psc.link := by
    funext b
    rw [Psc.link, Psc.link, Psc.endOperation_links]
  exact atEnd_congr (h _ (endOperation_not_engaged hwaiting) hlink) (h _ (ending_not_engaged hwaiting) rfl)

/-- R120: a completion at which RU only asks for its next burst, if it needs one. -/
theorem staleBurst_eq {s base : State} {o : EndOrder} {a n : Nat} {bs : List Byte} {done : Instr}
    (hdone : (s.psc.inFlight = .busy ⟨.ru, .read a n, true⟩ ∧ done = .ruReadBurstDone o ∧ base = s) ∨
      (s.psc.inFlight = .busy ⟨.ru, .write a bs, true⟩ ∧ done = .ruWriteBurstDone o ∧
        base = { s with dram := storeBytes a bs s.dram })) :
    base.ru = s.ru ∧ exec done s = .next (atEnd o s fun psc => ruPump { base with psc := psc }) := by
  rcases hdone with ⟨hburst, rfl, rfl⟩ | ⟨hburst, rfl, rfl⟩
  · exact ⟨rfl, ruReadBurstDone_eq o hburst⟩
  · exact ⟨rfl, ruWriteBurstDone_eq o hburst⟩

/-- Settles O32: the bytes of a burst; a burst left behind; and the cases of `ruReadDone` and of `ruWriteDone`, at which
RU, with no request waiting, is free to ask for its next burst. -/
theorem rasterBurstsAreTakenInTurn : Obligations.RasterBurstsAreTakenInTurn := by
  refine ⟨fun ru wp h g => ⟨sweepBurst_length ru wp h g, fun k i hk hwp hi => sweepBurst_getElem? ru hk hwp hi⟩,
    ⟨fun s base o a n bs done hdone => ?_, fun s o a n c j hburst hphase hjob hcontext hwaiting => ?_⟩,
    fun s o a bs j h g k0 k1 hburst hphase hjob hcontext hwrite hclaimed hwaiting => ?_⟩
  · obtain ⟨hru, hexec⟩ := staleBurst_eq hdone
    rw [← hru, hexec]
    refine ⟨fun hphase => ?_, fun j hphase hjob hwaiting => ⟨fun c block hcontext hblock => ?_,
      fun h g k0 k1 hcontext hwrite hclaimed => ?_⟩⟩
    · have hidle (psc : Psc) : ruPump { base with psc := psc } = { base with psc := psc } :=
        ruPump_of_not_building hphase
      rw [funext hidle, atEnd_idle]
    · refine congrArg Host.Outcome.next (atEnd_congr_of_free hwaiting fun psc hfree => ?_)
      have hreads := ruPump_reads (s := { base with psc := psc }) hphase hjob hfree hcontext
      rwa [hblock] at hreads
    · exact congrArg Host.Outcome.next (atEnd_congr_of_free hwaiting fun psc hfree =>
        ruPump_writes (s := { base with psc := psc }) hphase hjob hfree hcontext hwrite hclaimed)
  · rw [ruReadBurstDone_eq o hburst]
    intro d block
    obtain ⟨⟨hphase', hjob', hcursor⟩, hslot, hband, hlength, hblock⟩ :
        (d.1.phase = _ ∧ d.1.job = _ ∧ d.1.cursor = _) ∧ d.2.1.slot = _ ∧ d.2.1.band = _ ∧ d.2.1.length = _ ∧
          d.2.1.block = _ := decodeBytes_keeps ..
    rw [← hlength, ← hslot, ← hband, ← hcursor]
    refine ⟨fun hsound hscan hread => ?_, fun hsound hscan hread => ?_, fun hfault => ?_⟩
    · refine congrArg Host.Outcome.next (atEnd_congr_of_free_linked hwaiting fun psc hfree hlink => ?_)
      have hahead : d.2.1.blockAhead psc = block := by
        simp only [DecodeContext.blockAhead, hlink, hblock, block]
      rw [← hahead]
      exact ruReadDone_asks (s := { s with psc := psc }) (fault := d.2.2) hcontext hjob rfl (hphase'.trans hphase)
        (hjob'.trans hjob) hfree hsound hscan hread
    · exact congrArg Host.Outcome.next (congrArg (atEnd o s) (funext fun psc =>
        ruReadDone_ends (s := { s with psc := psc }) (fault := d.2.2) hcontext hjob rfl hsound hscan hread.ge))
    · exact congrArg Host.Outcome.next (congrArg (atEnd o s) (funext fun psc =>
        ruReadDone_faults (s := { s with psc := psc }) (fault := d.2.2) hcontext hjob rfl hfault))
  · rw [ruWriteBurstDone_eq o hburst]
    intro base asking
    have hdone (psc : Psc) := ruWriteDone_eq (s := burstWritten a bs s psc) hjob hwrite hclaimed
    refine ⟨fun hmore => ?_, fun hlast hfirst => ?_, fun hlast hsecond hmore => ?_, fun hlast hsecond hend => ?_⟩
    · refine congrArg Host.Outcome.next (atEnd_congr_of_free hwaiting fun psc hfree => ?_)
      rw [hdone, if_pos hmore]
      exact ruPump_writes_from (s := burstWritten a bs s psc) hphase hjob hcontext hclaimed hfree h (g + 1)
    · refine congrArg Host.Outcome.next (atEnd_congr_of_free hwaiting fun psc hfree => ?_)
      rw [hdone, if_neg (Nat.not_lt.2 hlast), if_pos hfirst]
      exact ruPump_writes_from (s := burstWritten a bs s psc) hphase hjob hcontext hclaimed hfree 1 0
    · exact congrArg Host.Outcome.next (congrArg (atEnd o s) (funext fun psc =>
        ruWriteDone_next_band (s := burstWritten a bs s psc) hjob hwrite hclaimed hlast hsecond hmore))
    · have hidle (psc : Psc) :=
        ruWriteDone_last_band (s := burstWritten a bs s psc) hjob hwrite hclaimed hlast hsecond hend
      rw [funext hidle]
      exact congrArg Host.Outcome.next (atEnd_idle o s { withRing k0 k1 .ready base with
        ru := { s.ru with phase := .done, cursor := s.ru.cursor + 1, claimed := none, write := none } })

end Sys2Proof.Machine

/-! The schedule's law over PSCH (R123, R124, R126, R135 to R137): what each change of the plate queue does to it. -/

namespace Sys2Proof.Machine

/-! ## The law, said of PSCH alone -/

/-- `scheduleSound`, said of PSCH. -/
structure Psch.Sound (p : Psch) : Prop where
  few : p.queue.length ≤ 16
  distinct : (p.queue.map Job.id).Nodup
  states : ∀ j ∈ p.queue, queueStateSound p.armed j
  held : ∀ id, p.armed = some id → id ∈ p.queue.map Job.id
  recent : p.history.length ≤ 8
  ended : ∀ r ∈ p.history, historySound r

theorem scheduleSound_iff (s : State) : scheduleSound s ↔ s.psch.Sound :=
  ⟨fun ⟨few, distinct, states, held, recent, ended⟩ => ⟨few, distinct, states, held, recent, ended⟩,
    fun h => ⟨h.few, h.distinct, h.states, h.held, h.recent, h.ended⟩⟩

theorem scheduleSound_of_psch_eq {s t : State} (ht : t.psch = s.psch) (hs : scheduleSound s) : scheduleSound t := by
  rw [scheduleSound_iff, ht, ← scheduleSound_iff]
  exact hs

/-! ## The armed job (R126) -/

theorem jobOf_eq_some {s : State} {id : Nat} {j : Job} (h : jobOf s id = some j) : j ∈ s.psch.queue ∧ j.id = id :=
  ⟨List.mem_of_find?_eq_some h, by simpa using List.find?_some h⟩

theorem jobOf_eq_none {s : State} {id : Nat} (h : jobOf s id = none) : ∀ j ∈ s.psch.queue, j.id ≠ id := by
  simpa [jobOf] using h

theorem armedJob_eq_some {s : State} {j : Job} (h : armedJob s = some j) :
    s.psch.armed = some j.id ∧ j ∈ s.psch.queue := by
  obtain ⟨id, harmed, hjob⟩ := Option.bind_eq_some_iff.1 h
  obtain ⟨hmem, rfl⟩ := jobOf_eq_some hjob
  exact ⟨harmed, hmem⟩

/-- A job that is not the armed one is QUEUED. -/
theorem queueStateSound_other {armed : Option Nat} {j : Job} (h : armed ≠ some j.id) :
    queueStateSound armed j ↔ j.state = .queued := by
  rw [queueStateSound, if_neg h]

/-- The armed job is in ARMING or IMAGING. -/
theorem queueStateSound_armed {armed : Option Nat} {j : Job} (h : armed = some j.id) :
    queueStateSound armed j ↔ j.state = .arming ∨ j.state = .imaging := by
  rw [queueStateSound, if_pos h]

/-! ## Changes of the plate queue -/

section
variable {p : Psch} (h : p.Sound)
include h

/-- A job of the queue is rewritten, with its id kept and its state still sound. -/
theorem Psch.Sound.updated {id : Nat} {f : Job → Job} (hid : ∀ j, (f j).id = j.id)
    (hstate : ∀ j ∈ p.queue, j.id = id → queueStateSound p.armed (f j)) :
    Psch.Sound { p with queue := p.queue.map (fun j => if j.id == id then f j else j) } := by
  have hids : (p.queue.map (fun j => if j.id == id then f j else j)).map Job.id = p.queue.map Job.id := by
    rw [List.map_map]
    refine List.map_congr_left fun j _ => ?_
    simp only [Function.comp_apply]
    split <;> simp [hid]
  refine ⟨by simpa using h.few, hids ▸ h.distinct, ?_, fun i hi => hids ▸ h.held i hi, h.recent, h.ended⟩
  simp only [List.forall_mem_map]
  intro j hj
  split
  · rename_i hji
    exact hstate j hj (by simpa using hji)
  · exact h.states j hj

/-- R130: with none armed, a job of the queue becomes the armed job in ARMING. -/
theorem Psch.Sound.arming {j : Job} (hnone : p.armed = none) (hj : j ∈ p.queue) :
    Psch.Sound { p with
      queue := p.queue.map (fun k => if k.id == j.id then { k with state := .arming } else k)
      armed := some j.id } := by
  have hids : (p.queue.map (fun k => if k.id == j.id then { k with state := JobState.arming } else k)).map Job.id =
      p.queue.map Job.id := by
    rw [List.map_map]
    refine List.map_congr_left fun k _ => ?_
    simp only [Function.comp_apply]
    split <;> rfl
  refine ⟨by simpa using h.few, hids ▸ h.distinct, ?_, ?_, h.recent, h.ended⟩
  · simp only [List.forall_mem_map]
    intro k hk
    split
    · rename_i hkj
      exact (queueStateSound_armed (by simpa using (beq_iff_eq.1 hkj).symm)).2 (.inl rfl)
    · rename_i hkj
      have hqueued := (queueStateSound_other (by simp [hnone])).1 (h.states k hk)
      exact (queueStateSound_other (by simpa using Ne.symm (by simpa using hkj))).2 hqueued
  · rintro i hi
    obtain rfl : j.id = i := by simpa using hi
    rw [hids]
    exact List.mem_map_of_mem hj

/-- R135 to R137: a job leaves the queue for the done history, as the record given. -/
theorem Psch.Sound.archived {j : Job} {l : List Defect} (hrecord : historySound ⟨j, l⟩) :
    Psch.Sound { p with
      queue := p.queue.filter (fun q => q.id != j.id)
      history := pushHistory ⟨j, l⟩ p.history
      armed := if p.armed = some j.id then none else p.armed } := by
  refine ⟨(List.length_filter_le ..).trans h.few, h.distinct.sublist (List.filter_sublist.map _), ?_, ?_, ?_, ?_⟩
  · intro k hk
    obtain ⟨hmem, hne⟩ := List.mem_filter.1 hk
    have hk := h.states k hmem
    dsimp only
    split
    · rename_i harmed
      have hother : p.armed ≠ some k.id := by
        rw [harmed]
        simpa using Ne.symm (bne_iff_ne.1 hne)
      exact (queueStateSound_other (by simp)).2 ((queueStateSound_other hother).1 hk)
    · exact hk
  · intro i hi
    dsimp only at hi ⊢
    split at hi
    · simp at hi
    · rename_i hother
      obtain ⟨k, hk, rfl⟩ := List.mem_map.1 (h.held i hi)
      refine List.mem_map_of_mem (List.mem_filter.2 ⟨hk, bne_iff_ne.2 fun hid => hother ?_⟩)
      rw [hi, hid]
  · exact (List.length_take_le ..)
  · intro r hr
    rcases List.mem_cons.1 (List.mem_of_mem_take hr) with rfl | hr
    · exact hrecord
    · exact h.ended r hr

/-- R125: a QUEUED job of a new id joins the queue's tail. -/
theorem Psch.Sound.appended {j : Job} (hnew : ∀ k ∈ p.queue, k.id ≠ j.id) (hroom : p.queue.length < 16)
    (hstate : j.state = .queued) : Psch.Sound { p with queue := p.queue ++ [j] } := by
  have hother : p.armed ≠ some j.id := fun harmed => by
    obtain ⟨k, hk, hid⟩ := List.mem_map.1 (h.held _ harmed)
    exact hnew k hk hid
  refine ⟨by simpa using hroom, ?_, ?_, fun i hi => ?_, h.recent, h.ended⟩
  · simp only [List.map_append, List.map_cons, List.map_nil]
    refine List.Nodup.append h.distinct (List.nodup_singleton _) ?_
    simpa [List.disjoint_singleton] using hnew
  · intro k hk
    rcases List.mem_append.1 hk with hk | hk
    · exact h.states k hk
    · obtain rfl := List.mem_singleton.1 hk
      exact (queueStateSound_other hother).2 hstate
  · rw [List.map_append]
    exact List.mem_append_left _ (h.held i hi)

end

/-! ## The records of ended jobs (R135, R137) -/

theorem historySound_imagedRecord (j : Job) (r : JobResult) (s : State) :
    historySound ⟨imagedRecord j r s, s.drec.list⟩ := by
  simp [historySound, imagedRecord]

theorem unimagedState_ended (r : JobResult) : unimagedState r = .failed ∨ unimagedState r = .cancelled := by
  cases r <;> simp [unimagedState]

theorem historySound_unimagedRecord (j : Job) (r : JobResult) (f : Option FitFault) :
    historySound ⟨unimagedRecord j r f, []⟩ := by
  rcases unimagedState_ended r with h | h <;> simp [historySound, unimagedRecord, h]

/-! ## The schedule's operations (R129 to R141) -/

theorem updateJob_keeps_scheduleSound {s : State} (hs : scheduleSound s) {id : Nat} {f : Job → Job}
    (hid : ∀ j, (f j).id = j.id) (hstate : ∀ j ∈ s.psch.queue, j.id = id → queueStateSound s.psch.armed (f j)) :
    scheduleSound (updateJob id f s) :=
  (scheduleSound_iff _).2 (((scheduleSound_iff s).1 hs).updated hid hstate)

/-- A job is rewritten with its id and its state kept. -/
theorem updateJob_fields_keeps_scheduleSound {s : State} (hs : scheduleSound s) {id : Nat} {f : Job → Job}
    (hid : ∀ j, (f j).id = j.id) (hstate : ∀ j, (f j).state = j.state) : scheduleSound (updateJob id f s) :=
  updateJob_keeps_scheduleSound hs hid fun j hj _ => by
    simpa only [queueStateSound, hid, hstate] using ((scheduleSound_iff s).1 hs).states j hj

theorem archiveJob_keeps_scheduleSound {s : State} (hs : scheduleSound s) {j : Job} {l : List Defect}
    (hrecord : historySound ⟨j, l⟩) : scheduleSound (archiveJob j l s) :=
  (scheduleSound_iff _).2 (((scheduleSound_iff s).1 hs).archived hrecord)

theorem endArmedJob_keeps_scheduleSound {s : State} (hs : scheduleSound s) (r : JobResult) (f : Option FitFault) :
    scheduleSound (endArmedJob r f s) := by
  unfold endArmedJob
  dsimp only
  split
  · exact hs
  · split
    · exact archiveJob_keeps_scheduleSound (scheduleSound_of_psch_eq (by simp) hs) (historySound_imagedRecord ..)
    · exact archiveJob_keeps_scheduleSound (scheduleSound_of_psch_eq (by simp) hs) (historySound_unimagedRecord ..)

theorem beginArming_keeps_scheduleSound {s : State} (hs : scheduleSound s) {j : Job} (hnone : s.psch.armed = none)
    (hj : j ∈ s.psch.queue) : scheduleSound (beginArming j s) :=
  (scheduleSound_iff _).2 (((scheduleSound_iff s).1 hs).arming hnone hj)

theorem bindJob_keeps_scheduleSound {s : State} (hs : scheduleSound s) (j : Job) : scheduleSound (bindJob j s) := by
  have hbound : scheduleSound ((j.slots.map (fun t => (resolvedPage s t).1)).dedup.foldl bindEntry s) :=
    scheduleSound_of_psch_eq (foldl_keeps (fun x : State => x.psch) _ (by simp) _ _) hs
  exact updateJob_fields_keeps_scheduleSound hbound (fun _ => rfl) fun _ => rfl

theorem startImaging_keeps_scheduleSound {s : State} (hs : scheduleSound s) : scheduleSound (startImaging s) := by
  unfold startImaging
  split
  · exact hs
  · rename_i j hj
    obtain ⟨harmed, -⟩ := armedJob_eq_some hj
    let t := updateJob j.id (fun q => { q with state := .imaging }) s
    have himaging : scheduleSound t := updateJob_keeps_scheduleSound hs (fun _ => rfl) fun k _ hk =>
      (queueStateSound_armed (by rw [harmed, ← hk])).2 (.inr rfl)
    exact scheduleSound_of_psch_eq (s := { t with psch := { t.psch with fresh := false } }) (by simp [t]) himaging

theorem tileCheck_keeps_scheduleSound {s : State} (hs : scheduleSound s) (j : Job) : scheduleSound (tileCheck j s) := by
  have hrecorded : scheduleSound
      (updateJob j.id (fun q => { q with generation := (screenSet s j.setIndex).generation }) s) :=
    updateJob_fields_keeps_scheduleSound hs (fun _ => rfl) fun _ => rfl
  exact holds_ite (startImaging_keeps_scheduleSound hrecorded) (scheduleSound_of_psch_eq (by simp) hrecorded)

theorem scheduleFrom_keeps_scheduleSound (n : Nat) : ∀ {s : State}, scheduleSound s → scheduleSound (scheduleFrom n s) := by
  induction n with
  | zero => exact fun hs => hs
  | succ n ih =>
    intro s hs
    unfold scheduleFrom
    split
    · exact hs
    · rename_i hnone
      split
      · exact hs
      · rename_i j hj
        have harming := beginArming_keeps_scheduleSound hs (by simpa using hnone) (List.mem_of_find?_eq_some hj)
        split
        · exact ih (endArmedJob_keeps_scheduleSound harming _ _)
        · exact tileCheck_keeps_scheduleSound (bindJob_keeps_scheduleSound harming j) j

theorem scheduleTest_keeps_scheduleSound {s : State} (hs : scheduleSound s) : scheduleSound (scheduleTest s) :=
  scheduleFrom_keeps_scheduleSound _ hs

theorem testIfEntriesChanged_keeps_scheduleSound {s : State} (hs : scheduleSound s) (before : State) :
    scheduleSound (testIfEntriesChanged before s) :=
  holds_ite hs (scheduleTest_keeps_scheduleSound hs)

theorem endArmed_keeps_scheduleSound {s : State} (hs : scheduleSound s) (r : JobResult) (f : Option FitFault) :
    scheduleSound (endArmed r f s) := by
  unfold endArmed
  split
  · exact hs
  · exact scheduleTest_keeps_scheduleSound (endArmedJob_keeps_scheduleSound hs r f)

theorem endImaging_keeps_scheduleSound {s : State} (hs : scheduleSound s) (r : JobResult) :
    scheduleSound (endImaging r s) := by
  unfold endImaging
  split
  · exact hs
  · exact endArmed_keeps_scheduleSound hs r none

end Sys2Proof.Machine

/-! Every command keeps the schedule's law (R123, R124, R126, R135 to R137): the head's events, the commands of the link and
the completions. -/

namespace Sys2Proof.Machine

section
variable {s : State} (hs : scheduleSound s)
include hs

/-! ## The judgement of a fill (R97) -/

theorem judgeFill_keeps_scheduleSound (f : Fill) : scheduleSound (judgeFill f s) := by
  have hsct (x : Sct) : scheduleSound { s with sct := x } := hs
  exact holds_ite (startImaging_keeps_scheduleSound (hsct _)) (endArmed_keeps_scheduleSound (hsct _) _ _)

theorem fillDone_keeps_scheduleSound (stale : Bool) (bs : List Byte) : scheduleSound (fillDone stale bs s) := by
  unfold fillDone
  dsimp only
  split
  · exact scheduleSound_of_psch_eq (by simp) hs
  · split
    · exact hs
    · split
      · exact scheduleSound_of_psch_eq (by simp) hs
      · split
        · exact judgeFill_keeps_scheduleSound (scheduleSound_of_psch_eq (by simp) hs) _
        · exact scheduleSound_of_psch_eq (by simp) hs

/-! ## Head return records (R161 to R171, R177) -/

theorem finishTest_keeps_scheduleSound (code : Byte) (fields : List Byte) :
    scheduleSound (finishTest code fields s) := by
  unfold finishTest
  split
  · exact hs
  · exact scheduleTest_keeps_scheduleSound hs

theorem checkHead_keeps_scheduleSound (r : HeadRecord) : scheduleSound (checkHead r s) :=
  holds_ite (endImaging_keeps_scheduleSound hs _) hs

theorem takeHeadState_keeps_scheduleSound (r : HeadRecord) : scheduleSound (takeHeadState r s) := by
  unfold takeHeadState
  dsimp only
  split
  · exact hs
  · refine scheduleTest_keeps_scheduleSound ?_
    split <;> exact hs

theorem takeRecord_keeps_scheduleSound (r : HeadRecord) : scheduleSound (takeRecord r s) := by
  have htaken : scheduleSound { s with imp := { s.imp with recordTaken := true } } := hs
  have hstate := takeHeadState_keeps_scheduleSound (checkHead_keeps_scheduleSound htaken r) r
  exact holds_ite (finishTest_keeps_scheduleSound hstate _ _) (scheduleSound_of_psch_eq (by simp) hstate)

/-! ## The index and the slot clock (R148, R150, R172 to R174) -/

theorem decideEnd_keeps_scheduleSound (r : JobResult) : scheduleSound (decideEnd r s) := by
  refine endImaging_keeps_scheduleSound ?_ r
  exact hs

theorem decideDwell_keeps_scheduleSound : scheduleSound (decideDwell s) := by
  have hcounted (n : Nat) : scheduleSound { s with imp := { s.imp with dwellCount := n } } := hs
  exact holds_ite (holds_ite hs (decideEnd_keeps_scheduleSound (hcounted _) _)) hs

theorem decideImaging_keeps_scheduleSound (j : Job) : scheduleSound (decideImaging j s) := by
  refine holds_ite hs (holds_ite (decideEnd_keeps_scheduleSound hs _) (holds_ite (decideEnd_keeps_scheduleSound hs _) ?_))
  exact holds_ite (scheduleSound_of_psch_eq (by simp) hs)
    (holds_ite (scheduleSound_of_psch_eq (by simp) hs) (decideDwell_keeps_scheduleSound hs))

theorem decideRevolution_keeps_scheduleSound : scheduleSound (decideRevolution s) := by
  unfold decideRevolution
  split
  · exact decideImaging_keeps_scheduleSound hs _
  · exact scheduleSound_of_psch_eq (by simp) hs

theorem abandonIfFourth_keeps_scheduleSound : scheduleSound (abandonIfFourth s) := by
  unfold abandonIfFourth
  split
  · exact holds_ite (finishTest_keeps_scheduleSound hs _ _) hs
  · exact hs

theorem indexEvent_keeps_scheduleSound : scheduleSound (indexEvent s) := by
  have hclosed : scheduleSound (hmonIndex (closeRevolution s)) := scheduleSound_of_psch_eq (by simp) hs
  exact abandonIfFourth_keeps_scheduleSound (decideRevolution_keeps_scheduleSound hclosed)

theorem reportClockLoss_keeps_scheduleSound (clock : ClockName) : scheduleSound (reportClockLoss clock s) := by
  unfold reportClockLoss
  split
  · exact hs
  · exact endImaging_keeps_scheduleSound hs _

theorem markLost_keeps_scheduleSound : scheduleSound (markLost s) :=
  reportClockLoss_keeps_scheduleSound (s := { s with hmon := { s.hmon with indexLost := true } }) hs _

theorem slotEvent_keeps_scheduleSound : scheduleSound (slotEvent s) := by
  have hslot : scheduleSound (impSlot s) := scheduleSound_of_psch_eq (by simp) hs
  have hmarked {t : State} (ht : scheduleSound t) : scheduleSound (markOverdue t) :=
    scheduleSound_of_psch_eq (by simp) ht
  unfold slotEvent hmonSlot
  dsimp only
  refine holds_ite hslot (holds_ite (markLost_keeps_scheduleSound ?_) ?_) <;> exact holds_ite (hmarked hslot) hslot

/-! ## Bytes of the link (R4 to R8) -/

theorem acceptFrame_keeps_scheduleSound (f : Frame) : scheduleSound (acceptFrame f s) :=
  holds_ite (scheduleTest_keeps_scheduleSound hs) hs

theorem receiveByte_keeps_scheduleSound (b : Byte) : scheduleSound (receiveByte b s) := by
  unfold receiveByte
  dsimp only
  split
  · exact holds_ite hs hs
  · exact holds_ite hs (holds_ite (holds_ite (acceptFrame_keeps_scheduleSound hs _) hs) hs)

end

/-! ## Commands of the link -/

/-- The meaning of a command that keeps the schedule sound. -/
def KeepsSchedule (run : Frame → State → State) : Prop := ∀ f s, scheduleSound s → scheduleSound (run f s)

theorem KeepsSchedule.serve {p : Frame → Bool} {run : Frame → State → State} (hrun : KeepsSchedule run) {s : State}
    (hs : scheduleSound s) : leadsTo scheduleSound (serve p run s) := by
  intro t ht
  rcases serve_cases ht with rfl | ⟨f, rest, -, -, rfl⟩
  · exact hs
  · exact hrun f _ hs

theorem KeepsSchedule.whenReady {run : Frame → State → State} (hrun : KeepsSchedule run) :
    KeepsSchedule (whenReady run) := by
  intro f s hs
  unfold Machine.whenReady
  split
  · exact hs
  · exact hrun f s hs

/-- A command that leaves PSCH alone. -/
theorem keepsSchedule_of_psch {run : Frame → State → State} (hrun : ∀ f s, (run f s).psch = s.psch) :
    KeepsSchedule run := fun f s hs => scheduleSound_of_psch_eq (hrun f s) hs

theorem runPageOpen_keepsSchedule : KeepsSchedule runPageOpen := by
  intro f s hs
  unfold runPageOpen
  split
  · exact hs
  · split
    · exact hs
    · split
      · exact hs
      · dsimp only
        split
        · split
          · rename_i hcreated
            refine scheduleTest_keeps_scheduleSound (scheduleSound_of_psch_eq (s := s) ?_ hs)
            simp [createEntry_keeps hcreated]
          · exact hs
        · exact hs

theorem runPageClose_keepsSchedule : KeepsSchedule runPageClose := by
  intro f s hs
  unfold runPageClose
  split
  · exact hs
  · exact holds_ite (testIfEntriesChanged_keeps_scheduleSound (scheduleSound_of_psch_eq (by simp) hs) _) hs

theorem runPageDrop_keepsSchedule : KeepsSchedule runPageDrop := by
  intro f s hs
  unfold runPageDrop
  split
  · exact hs
  · exact holds_ite hs (holds_ite hs
      (testIfEntriesChanged_keeps_scheduleSound (scheduleSound_of_psch_eq (by simp) hs) _))

theorem runScreenBegin_keepsSchedule : KeepsSchedule runScreenBegin := by
  intro f s hs
  unfold runScreenBegin
  split
  · exact hs
  · exact holds_ite hs (holds_ite (scheduleTest_keeps_scheduleSound hs) hs)

theorem runScreenEnd_keepsSchedule : KeepsSchedule runScreenEnd := by
  intro f s hs
  unfold runScreenEnd
  split
  · exact hs
  · exact holds_ite hs (scheduleTest_keeps_scheduleSound hs)

/-- A PLATE.QUEUE's job is QUEUED (R125). -/
theorem parseQueue_queued {p : List Byte} {j : Job} (h : parseQueue p = some j) : j.state = .queued := by
  unfold parseQueue at h
  dsimp only at h
  split at h
  · obtain rfl := Option.some.inj h
    rfl
  · simp at h

theorem runPlateQueue_keepsSchedule : KeepsSchedule runPlateQueue := by
  intro f s hs
  unfold runPlateQueue
  split
  · exact hs
  · rename_i j hj
    split
    · exact hs
    · rename_i hnew
      split
      · exact hs
      · rename_i hroom
        have happended : scheduleSound (appendJob j s) := (scheduleSound_iff _).2 <|
          ((scheduleSound_iff s).1 hs).appended (jobOf_eq_none (by simpa using hnew)) (Nat.lt_of_not_le hroom)
            (parseQueue_queued hj)
        exact holds_ite hs (holds_ite hs (scheduleTest_keeps_scheduleSound happended))

theorem cancelJob_keeps_scheduleSound {s : State} (hs : scheduleSound s) (j : Job) : scheduleSound (cancelJob j s) := by
  have hqueued : scheduleSound (cancelQueued j s) :=
    scheduleTest_keeps_scheduleSound (archiveJob_keeps_scheduleSound hs (historySound_unimagedRecord ..))
  unfold cancelJob
  cases j.state with
  | imaging => exact updateJob_fields_keeps_scheduleSound hs (fun _ => rfl) fun _ => rfl
  | arming => exact endArmed_keeps_scheduleSound hs ..
  | queued | finished | failed | cancelled => exact hqueued

theorem runPlateCancel_keepsSchedule : KeepsSchedule runPlateCancel := by
  intro f s hs
  unfold runPlateCancel
  split
  · exact hs
  · refine cancelJob_keeps_scheduleSound ?_ _
    exact hs

theorem scheduleSound_of_empty {s : State} (hqueue : s.psch.queue = []) (hhistory : s.psch.history = [])
    (harmed : s.psch.armed = none) : scheduleSound s := by
  simp [scheduleSound, hqueue, hhistory, harmed]

theorem runRestart_keepsSchedule : KeepsSchedule runRestart := by
  intro f s hs
  unfold runRestart
  split
  · split
    · exact hs
    · exact scheduleSound_of_empty rfl rfl rfl
  · exact hs

/-! ## Completions of the store's operations (R77) -/

theorem completion_keeps_scheduleSound {client : State → State}
    (hclient : ∀ s, scheduleSound s → scheduleSound (client s)) (o : EndOrder) {s : State} (hs : scheduleSound s) :
    scheduleSound (completion o client s) := by
  cases o with
  | endFirst => exact hclient _ hs
  | askFirst => exact hclient { s with psc := { s.psc with inFlight := .ending } } hs

theorem mergeRefresh_keeps_scheduleSound {s : State} (hs : scheduleSound s) : scheduleSound (mergeRefresh s) :=
  testIfEntriesChanged_keeps_scheduleSound (scheduleSound_of_psch_eq (by simp) hs) s

/-! ## Every command -/

theorem exec_keeps_scheduleSound {s : State} (hs : scheduleSound s) (c : Instr) : leadsTo scheduleSound (exec c s) := by
  have hstays : leadsTo scheduleSound (.next s) := leadsTo_next hs
  have hread {client : List Byte → State → State} (hclient : ∀ bs s, scheduleSound s → scheduleSound (client bs s))
      (o : EndOrder) (addr len : Nat) : leadsTo scheduleSound (finishRead o addr len client s) :=
    leadsTo_next (completion_keeps_scheduleSound (hclient _) o hs)
  have hwrite {client : State → State} (hclient : ∀ s, scheduleSound s → scheduleSound (client s)) (o : EndOrder)
      (addr : Nat) (bs : List Byte) : leadsTo scheduleSound (finishWrite o addr bs client s) :=
    leadsTo_next (completion_keeps_scheduleSound hclient o (s := writeBytes addr bs s) hs)
  have hif {p : Prop} [Decidable p] {a b : Host.Outcome State Fault Refusal} (ha : leadsTo scheduleSound a)
      (hb : leadsTo scheduleSound b) : leadsTo scheduleSound (if p then a else b) := by
    split
    · exact ha
    · exact hb
  cases c with
  | hardwareReset => exact leadsTo_next scheduleSound_reset
  | resetRelease => exact leadsTo_next hs
  | tagZero => exact (keepsSchedule_of_psch (run := fun f t => answer f rBadField [] t) fun _ _ => rfl).serve hs
  | unknownKind => exact (keepsSchedule_of_psch (run := fun f t => answer f rUnknownKind [] t) fun _ _ => rfl).serve hs
  | status | configure | headSetup => exact (keepsSchedule_of_psch fun f s => by simp).serve hs
  | restart => exact runRestart_keepsSchedule.serve hs
  | pageOpen => exact runPageOpen_keepsSchedule.whenReady.serve hs
  | pageClose => exact runPageClose_keepsSchedule.whenReady.serve hs
  | pageDrop => exact runPageDrop_keepsSchedule.whenReady.serve hs
  | screenBegin => exact runScreenBegin_keepsSchedule.whenReady.serve hs
  | screenEnd => exact runScreenEnd_keepsSchedule.whenReady.serve hs
  | plateQueue => exact runPlateQueue_keepsSchedule.whenReady.serve hs
  | plateCancel => exact runPlateCancel_keepsSchedule.whenReady.serve hs
  | pageBand | pageQuery | screenTile | screenQuery | plateQuery | plateList | channelClear | monitorTest =>
    exact (keepsSchedule_of_psch fun f s => by simp).whenReady.serve hs
  | frameReceived b | byteReceived b => exact hif hstays (leadsTo_next (receiveByte_keeps_scheduleSound hs b))
  | frameTimerExpiry =>
    simp only [exec, execFrameTimerExpiry]
    split
    · exact hstays
    · exact hif hstays (leadsTo_next hs)
  | watchdogExpiry | frameSent => exact hif hstays (leadsTo_next hs)
  | beginTransmission =>
    simp only [exec, execBeginTransmission]
    (repeat' split) <;> exact leadsTo_next hs
  | linkWriteBurstDone o =>
    simp only [exec, execLinkWriteBurstDone]
    split
    · exact hwrite (fun t ht => testIfEntriesChanged_keeps_scheduleSound (scheduleSound_of_psch_eq (by simp) ht) t) o _ _
    · exact hstays
  | tileWriteBurstDone o =>
    simp only [exec, execTileWriteBurstDone]
    split
    · exact hwrite (fun t ht => scheduleSound_of_psch_eq (by simp) ht) o _ _
    · exact hstays
  | ruWriteBurstDone o =>
    simp only [exec, execRuWriteBurstDone]
    split
    · exact hwrite (fun t ht => scheduleSound_of_psch_eq (by simp) ht) o _ _
    · exact hstays
  | fillBurstDone o =>
    simp only [exec, execFillBurstDone]
    split
    · exact hread (fun bs t ht => fillDone_keeps_scheduleSound ht _ bs) o _ _
    · exact hstays
  | ruReadBurstDone o =>
    simp only [exec, execRuReadBurstDone]
    split
    · exact hread (fun bs t ht => scheduleSound_of_psch_eq (by simp) ht) o _ _
    · exact hstays
  | fetchArrival o =>
    simp only [exec, execFetchArrival]
    split
    · exact hread (fun bs t ht => scheduleSound_of_psch_eq (by simp) ht) o _ _
    · exact hstays
  | receptionTimeout ctx =>
    refine hif hstays ?_
    split
    · exact hif
        (leadsTo_next (testIfEntriesChanged_keeps_scheduleSound (scheduleSound_of_psch_eq (by simp) hs) s)) hstays
    · exact hstays
  | refreshDue =>
    simp only [exec, execRefreshDue]
    split
    · exact hstays
    · exact hif (hif (leadsTo_next (mergeRefresh_keeps_scheduleSound hs)) hstays)
        (leadsTo_next (scheduleSound_of_psch_eq (by simp) hs))
  | refreshOperationDone =>
    simp only [exec, execRefreshOperationDone]
    split
    · exact leadsTo_next hs
    · exact hstays
  | slotClk => exact hif hstays (leadsTo_next (slotEvent_keeps_scheduleSound hs))
  | indexOverdue | indexLost => exact hif (leadsTo_next (slotEvent_keeps_scheduleSound hs)) hstays
  | drumIndex => exact hif hstays (leadsTo_next (indexEvent_keeps_scheduleSound hs))
  | monitorTestAbandon => exact hif (leadsTo_next (indexEvent_keeps_scheduleSound hs)) hstays
  | clockLossExpiry =>
    exact hif hstays (leadsTo_next (finishTest_keeps_scheduleSound (reportClockLoss_keeps_scheduleSound hs _) _ _))
  | headReturnRecord r => exact hif hstays (leadsTo_next (takeRecord_keeps_scheduleSound hs r))

/-- Settles O56: a step runs one command on the state with the queue's rest, which `scheduleSound` does not read, and
every command keeps the schedule sound. -/
theorem stepKeepsAtMostOneJobArmed : Obligations.StepKeepsAtMostOneJobArmed := by
  intro s t hs hstep
  unfold step at hstep
  split at hstep
  · rwa [← Host.Outcome.next.inj hstep]
  · rename_i rest _
    exact exec_keeps_scheduleSound (s := { s with pending := rest }) hs _ t hstep

end Sys2Proof.Machine

/-! PLATE.QUEUE with its checks in order (R124, R125), and PLATE.CANCEL by the state of the job (R139 to R141, R159). -/

namespace Sys2Proof.Machine

/-! ## The jobs of the plate queue by their ids (R123) -/

theorem jobOf_isSome_iff (s : State) (id : Nat) : (jobOf s id).isSome = true ↔ ∃ k ∈ s.psch.queue, k.id = id := by
  simp [jobOf, List.find?_isSome]

/-- A job that alone has its id is the job of that id. -/
theorem jobOf_eq_of_unique {s : State} {j : Job} (hj : j ∈ s.psch.queue)
    (hunique : ∀ k ∈ s.psch.queue, k.id = j.id → k = j) : jobOf s j.id = some j := by
  obtain ⟨k, hk⟩ := Option.isSome_iff_exists.1 ((jobOf_isSome_iff s j.id).2 ⟨j, hj, rfl⟩)
  obtain ⟨hmem, hid⟩ := jobOf_eq_some hk
  rw [hk, hunique k hmem hid]

/-! ## PLATE.QUEUE (R124, R125) -/

theorem setNameable_iff (s : State) (t : Nat) :
    setNameable s t = true ↔ ¬ ((screenSet s t).state = .empty ∨ (screenSet s t).state = .loading) := by
  simp [setNameable]

theorem slotWhollyDamaged_iff (s : State) (t : JobSlot) : slotWhollyDamaged s t = true ↔
    ∃ h, resolve s t.key = some h ∧ (entry s h).state = .damaged ∧ (entry s h).damaged = (entry s h).bands.length := by
  unfold slotWhollyDamaged
  cases resolve s t.key <;> simp

section
variable {f : Frame} {s : State} {j : Job} (hp : parseQueue f.payload = some j)
include hp

/-- R124, R125: what the checks of PLATE.QUEUE lead to. -/
theorem runPlateQueue_eq : runPlateQueue f s =
    if ∃ k ∈ s.psch.queue, k.id = j.id then answer f 0x05 [] s
    else if 16 ≤ s.psch.queue.length then answer f 0x03 [] s
    else if (screenSet s j.setIndex).state = .empty ∨ (screenSet s j.setIndex).state = .loading then
      answer f 0x0A [] s
    else if j.policy = .run ∧ ∃ t ∈ j.slots, ∃ h, resolve s t.key = some h ∧ (entry s h).state = .damaged ∧
        (entry s h).damaged = (entry s h).bands.length then answer f 0x0C [] s
    else scheduleTest (answer f 0x00 (u16 j.id ++ u8 (s.psch.queue.length + 1)) (appendJob j s)) := by
  have hset : (!setNameable s j.setIndex) = true ↔
      (screenSet s j.setIndex).state = .empty ∨ (screenSet s j.setIndex).state = .loading := by
    rw [Bool.not_eq_true', ← Bool.not_eq_true, setNameable_iff, not_not]
  have hqueued : (appendJob j s).psch.queue.length = s.psch.queue.length + 1 := by simp [appendJob]
  unfold runPlateQueue
  rw [hp]
  simp only [jobOf_isSome_iff, hset, List.any_eq_true, slotWhollyDamaged_iff, hqueued]
  rfl

end

/-! ## PLATE.CANCEL (R139 to R141) -/

theorem runPlateCancel_refuses {f : Frame} {s : State}
    (h : f.payload.length ≠ 2 ∨ halfAt f.payload 0 = 0 ∨ ∀ j ∈ s.psch.queue, j.id ≠ halfAt f.payload 0) :
    runPlateCancel f s = answer f 0x05 [] s := by
  have hnone : (parseJobId f.payload).bind (fun id => if id = 0 then none else jobOf s id) = none := by
    rw [Option.bind_eq_none_iff]
    intro id hid
    unfold parseJobId at hid
    split at hid
    · rename_i hlength
      obtain rfl := Option.some.inj hid
      rcases h with h | h | h
      · exact absurd hlength h
      · exact if_pos h
      · refine ite_eq_left_iff.2 fun _ => ?_
        simpa [jobOf] using h
    · simp at hid
  unfold runPlateCancel
  rw [hnone]
  rfl

section
variable {f : Frame} {s : State} {j : Job} (hj : j ∈ s.psch.queue)
  (hunique : ∀ k ∈ s.psch.queue, k.id = j.id → k = j) (hlow : 1 ≤ j.id) (hhigh : j.id ≤ 65535)
  (hp : f.payload = u16 j.id)
include hj hunique hlow hhigh hp

theorem runPlateCancel_eq :
    runPlateCancel f s = cancelJob j (answer f 0x00 (u16 j.id ++ u8 j.state.code) s) := by
  have hid : parseJobId f.payload = some j.id := by
    simp [parseJobId, hp, halfAt_u16 (Nat.lt_succ_of_le hhigh)]
  unfold runPlateCancel
  rw [hid, Option.bind_some, if_neg (Nat.one_le_iff_ne_zero.1 hlow), jobOf_eq_of_unique hj hunique]
  rfl

end

theorem armedJob_of_jobOf {s : State} {j : Job} (harmed : s.psch.armed = some j.id) (hj : jobOf s j.id = some j) :
    armedJob s = some j := by
  rw [armedJob, harmed, Option.bind_some, hj]

theorem endArmed_eq {r : JobResult} {f : Option FitFault} {s : State} {j : Job} (h : armedJob s = some j) :
    endArmed r f s = scheduleTest (endArmedJob r f s) := by
  unfold endArmed
  rw [h]

section
variable {j : Job} {s : State}

theorem cancelJob_queued (h : j.state = .queued) : cancelJob j s = cancelQueued j s := by
  rw [cancelJob, h]

theorem cancelJob_arming (h : j.state = .arming) : cancelJob j s = endArmed .cancelled none s := by
  rw [cancelJob, h]

theorem cancelJob_imaging (h : j.state = .imaging) : cancelJob j s = cancelImaging j s := by
  rw [cancelJob, h]

/-- R141, R159: a job in IMAGING is marked, and IMP is told. -/
theorem cancelImaging_eq : cancelImaging j s = { s with
    imp := { s.imp with cancelPending := true }
    psch := { s.psch with
      queue := s.psch.queue.map (fun k => if k.id = j.id then { k with cancelRequested := true } else k) } } := by
  simp only [cancelImaging, updateJob, beq_iff_eq]

/-- R137, R138: a job that is not the armed one enters the done history, and its ENDED note is queued. -/
theorem archiveJob_unarmed {l : List Defect} (h : s.psch.armed ≠ some j.id) : archiveJob j l s = { s with
    lp := s.lp.queueReport (endedNote j)
    psch := { s.psch with
      queue := s.psch.queue.filter (fun q => q.id != j.id)
      history := pushHistory ⟨j, l⟩ s.psch.history } } := by
  rw [archiveJob, if_neg h]
  rfl

end

/-- Settles O33, check by check through `runPlateQueue_eq`, and by the state of the job to be cancelled. -/
theorem plateQueueAndCancel : Obligations.PlateQueueAndCancel := by
  refine ⟨fun s f rest htakes hkind hready => ?_, fun s f rest htakes hkind hready => ?_⟩
  · have hexec : exec .plateQueue s = .next (runPlateQueue f (taken s rest)) := serve_ready htakes hkind hready _
    refine ⟨fun hp => ?_, fun j hp => ?_⟩
    · rw [hexec, runPlateQueue, hp]
      rfl
    · intro clash bare white
      rw [hexec, runPlateQueue_eq hp]
      refine ⟨fun h => ?_, fun h1 h2 => ?_, fun h1 h2 h3 => ?_, fun h1 h2 h3 h4 => ?_, fun h1 h2 h3 h4 => ?_⟩
      · exact congrArg _ (if_pos h)
      · exact congrArg _ ((if_neg h1).trans (if_pos h2))
      · exact congrArg _ ((if_neg h1).trans ((if_neg (Nat.not_le.2 h2)).trans (if_pos h3)))
      · exact congrArg _ ((if_neg h1).trans ((if_neg (Nat.not_le.2 h2)).trans ((if_neg h3).trans (if_pos h4))))
      · exact congrArg _ ((if_neg h1).trans ((if_neg (Nat.not_le.2 h2)).trans ((if_neg h3).trans (if_neg h4))))
  · have hexec : exec .plateCancel s = .next (runPlateCancel f (taken s rest)) := serve_ready htakes hkind hready _
    refine ⟨fun h => ?_, fun j hj hunique hlow hhigh hp => ?_⟩
    · rw [hexec, runPlateCancel_refuses (s := taken s rest) h]
    · intro after ended
      rw [hexec, runPlateCancel_eq (s := taken s rest) hj hunique hlow hhigh hp]
      refine ⟨fun hstate harmed => ?_, fun hstate harmed => ?_, fun hstate => ?_⟩
      · have harchived := archiveJob_unarmed (j := ended) (s := after) (l := []) harmed
        rw [cancelJob_queued hstate]
        exact congrArg (fun t => Host.Outcome.next (scheduleTest t)) harchived
      · have harmedJob : armedJob after = some j :=
          armedJob_of_jobOf harmed (jobOf_eq_of_unique (s := after) hj hunique)
        rw [cancelJob_arming hstate]
        exact congrArg Host.Outcome.next (endArmed_eq harmedJob)
      · rw [cancelJob_imaging hstate, cancelImaging_eq]
        rfl

end Sys2Proof.Machine

/-! PLATE.QUERY and its listing form (R142, R143), and the bytes of job and defect records (R12, R123, R191). -/

namespace Sys2Proof.Machine

/-! ## The first record of an id, with its place (R142) -/

theorem find?_zipIdx_one_eq_some {α : Type} {l : List α} {p : α → Bool} {n : Nat} {x : α} (hx : l[n]? = some x)
    (hp : p x = true) (hfirst : ∀ m y, m < n → l[m]? = some y → p y = false) :
    (l.zipIdx 1).find? (fun q => p q.1) = some (x, n + 1) := by
  obtain ⟨hn, hget⟩ := List.getElem?_eq_some_iff.1 hx
  refine List.find?_eq_some_iff_getElem.2 ⟨hp, n, by simpa using hn, ?_, fun m hm => ?_⟩
  · simp [hget, Nat.add_comm]
  · simp [hfirst m l[m] hm (List.getElem?_eq_getElem (hm.trans hn))]

theorem find?_zipIdx_eq_none {α : Type} {l : List α} {p : α → Bool} (k : Nat) (h : ∀ x ∈ l, p x = false) :
    (l.zipIdx k).find? (fun q => p q.1) = none := by
  refine List.find?_eq_none.2 fun q hq => ?_
  rw [h q.1 (List.fst_mem_of_mem_zipIdx hq)]
  exact Bool.false_ne_true

section
variable {s : State} {id : Nat}

/-- R142: a job in the plate queue is given before any record of the done history. -/
theorem jobFields_queue {j : Job} {n : Nat} (hj : s.psch.queue[n]? = some j) (hid : j.id = id)
    (hfirst : ∀ m k, m < n → s.psch.queue[m]? = some k → k.id ≠ id) :
    jobFields s id = some (j.bytes ++ u8 (n + 1) ++ progressFields s j) := by
  have hplace : queuePlace s id = some (j, n + 1) :=
    find?_zipIdx_one_eq_some (p := fun k : Job => k.id == id) hj (by simpa using hid)
      fun m k hm hk => by simpa using hfirst m k hm hk
  rw [jobFields, hplace]

theorem queuePlace_eq_none (hqueue : ∀ j ∈ s.psch.queue, j.id ≠ id) : queuePlace s id = none :=
  find?_zipIdx_eq_none (p := fun k : Job => k.id == id) 1 fun j hj => by simpa using hqueue j hj

/-- R142: a job that has ended is given as its newest record. -/
theorem jobFields_history {r : HistoryRecord} {n : Nat} (hqueue : ∀ j ∈ s.psch.queue, j.id ≠ id)
    (hr : s.psch.history[n]? = some r) (hid : r.job.id = id)
    (hfirst : ∀ m k, m < n → s.psch.history[m]? = some k → k.job.id ≠ id) :
    jobFields s id = some (r.job.bytes ++ u8 (n + 1) ++ progressFields s r.job ++ recordFields r.job r.defects) := by
  have hplace : historyPlace s id = some (r, n + 1) :=
    find?_zipIdx_one_eq_some (p := fun k : HistoryRecord => k.job.id == id) hr (by simpa using hid)
      fun m k hm hk => by simpa using hfirst m k hm hk
  rw [jobFields, queuePlace_eq_none hqueue, hplace]

theorem jobFields_none (hqueue : ∀ j ∈ s.psch.queue, j.id ≠ id) (hhistory : ∀ r ∈ s.psch.history, r.job.id ≠ id) :
    jobFields s id = none := by
  have hplace : historyPlace s id = none :=
    find?_zipIdx_eq_none (p := fun k : HistoryRecord => k.job.id == id) 1 fun r hr => by simpa using hhistory r hr
  rw [jobFields, queuePlace_eq_none hqueue, hplace]

end

/-- R142: a job that is not in IMAGING has no progress to tell. -/
theorem progressFields_eq (s : State) (j : Job) : progressFields s j =
    if j.state = .imaging then u8 s.drec.verdict.code ++ u8 s.drec.list.length else [0, 0] := rfl

/-! ## The two commands (R142, R143) -/

section
variable {s : State} {f : Frame} {rest : List Frame} (htakes : takes s f rest) (hkind : ofKind 0x32 f)
  (hready : s.part = .ready)
include htakes hkind hready

theorem exec_plateQuery (hid : parseJobId f.payload ≠ some 0) :
    exec .plateQuery s = .next (runPlateQuery f (taken s rest)) := by
  have hquery : (isCommand 0x32 f && !isListQuery f.payload) = true := by
    simp [isCommand, hkind.1, hkind.2, isListQuery, hid]
  exact (serve_takes htakes hquery).trans (congrArg Host.Outcome.next (whenReady_ready hready))

theorem exec_plateList (hid : parseJobId f.payload = some 0) :
    exec .plateList s = .next (runPlateList f (taken s rest)) := by
  have hlist : (isCommand 0x32 f && isListQuery f.payload) = true := by
    simp [isCommand, hkind.1, hkind.2, isListQuery, hid]
  exact (serve_takes htakes hlist).trans (congrArg Host.Outcome.next (whenReady_ready hready))

end

theorem parseJobId_u16 {id : Nat} (h : id ≤ 65535) : parseJobId (u16 id) = some id := by
  simp [parseJobId, halfAt_u16 (Nat.lt_succ_of_le h)]

theorem parseJobId_eq_none {p : List Byte} (h : p.length ≠ 2) : parseJobId p = none := if_neg h

theorem runPlateQuery_answers {f : Frame} {s : State} {id : Nat} {fields : List Byte} (hid : parseJobId f.payload = some id)
    (hfields : jobFields s id = some fields) : runPlateQuery f s = answer f 0x00 fields s := by
  rw [runPlateQuery, hid, Option.bind_some, hfields]
  rfl

theorem runPlateQuery_refuses {f : Frame} {s : State} (h : (parseJobId f.payload).bind (jobFields s) = none) :
    runPlateQuery f s = answer f 0x05 [] s := by
  rw [runPlateQuery, h]
  rfl

/-- R143: the listing of the plate queue and of the done history. -/
theorem runPlateList_eq (f : Frame) (s : State) : runPlateList f s = answer f 0x00
    (u8 s.psch.queue.length ++ s.psch.queue.flatMap (fun j => u16 j.id ++ u8 j.state.code) ++
      u8 s.psch.history.length ++ s.psch.history.flatMap (fun r => u16 r.job.id ++ u8 r.job.state.code ++
        u8 ((r.job.result.map JobResult.code).getD 0) ++ u8 ((r.job.verdict.map Verdict.code).getD 0))) s := by
  have hhistory : historyItem = fun r => u16 r.job.id ++ u8 r.job.state.code ++
      u8 ((r.job.result.map JobResult.code).getD 0) ++ u8 ((r.job.verdict.map Verdict.code).getD 0) :=
    funext fun r => by rw [historyItem, codeOr0_eq, codeOr0_eq]
  rw [runPlateList, hhistory, listBytes, listBytes, ← List.append_assoc]
  rfl

/-! ## The records byte by byte (R12, R123, R191) -/

theorem Policy.code_eq (p : Policy) : p.code = if p = .hold then 0 else 1 := by cases p <;> rfl

theorem JobSlot.bytes_eq (t : JobSlot) : t.bytes =
    u8 t.key.edition ++ u8 t.key.section_ ++ u8 t.key.page ++ u8 t.key.separation ++ u16 t.x0 ++
      u8 ((t.bound.map Prod.fst).getD 0) ++ u16 ((t.bound.map Prod.snd).getD 0) := by
  obtain ⟨key, x0, bound⟩ := t
  cases bound <;> rfl

theorem Job.bytes_eq (j : Job) : j.bytes =
    u16 j.id ++ u8 j.separation ++ u8 j.setIndex ++ u8 (if j.policy = .hold then 0 else 1) ++
    u16 j.top ++ u16 j.bp ++ u16 j.wp ++ u8 j.slots.length ++
    j.slots.flatMap (fun t => u8 t.key.edition ++ u8 t.key.section_ ++ u8 t.key.page ++ u8 t.key.separation ++
      u16 t.x0 ++ u8 ((t.bound.map Prod.fst).getD 0) ++ u16 ((t.bound.map Prod.snd).getD 0)) ++
    u8 j.state.code ++ u16 j.generation ++ flagByte j.cancelRequested ++ u8 ((j.result.map JobResult.code).getD 0) ++
    u8 ((j.fit.map FitFault.code).getD 0) ++ u8 ((j.verdict.map Verdict.code).getD 0) ++ u8 j.defects := by
  rw [Job.bytes, listBytes, funext JobSlot.bytes_eq, Policy.code_eq, codeOr0_eq, codeOr0_eq, codeOr0_eq]
  simp only [List.append_assoc]

theorem Defect.bytes_length (d : Defect) : d.bytes.length = 18 := by simp [Defect.bytes]

theorem Defect.xRange_eq (d : Defect) : (d.xRange.getD (0, 0)).1 = (d.xRange.map Prod.fst).getD 0 ∧
    (d.xRange.getD (0, 0)).2 = (d.xRange.map Prod.snd).getD 0 := by
  cases d.xRange <;> exact ⟨rfl, rfl⟩

/-- Settles O34. -/
theorem plateQueriesAnswer : Obligations.PlateQueriesAnswer := by
  refine ⟨fun s f rest htakes hkind hready => ⟨fun hbad => ?_, fun id hlow hhigh hp => ?_⟩,
    fun s f rest htakes hkind hready hp => ?_, Job.bytes_eq, fun d => ⟨d.bytes_length, ?_⟩,
    rfl, rfl, rfl, rfl, rfl, rfl, rfl, rfl, rfl, rfl, rfl, rfl, rfl⟩
  · have hnone := parseJobId_eq_none hbad
    rw [exec_plateQuery htakes hkind hready (by simp [hnone]), runPlateQuery_refuses (by simp [hnone])]
  · have hid : parseJobId f.payload = some id := by rw [hp, parseJobId_u16 hhigh]
    rw [exec_plateQuery htakes hkind hready (by simp [hid]; omega)]
    refine ⟨fun j n hj hjid hfirst => ?_, fun hqueue => ⟨fun r n hr hrid hstate hfirst => ?_, fun hhistory => ?_⟩⟩
    · rw [runPlateQuery_answers hid (jobFields_queue (s := taken s rest) hj hjid hfirst), progressFields_eq]
      rfl
    · rw [runPlateQuery_answers hid (jobFields_history (s := taken s rest) hqueue hr hrid hfirst), progressFields_eq,
        if_neg hstate]
      rfl
    · rw [runPlateQuery_refuses]
      rw [hid]
      exact jobFields_none (s := taken s rest) hqueue hhistory
  · have hid : parseJobId f.payload = some 0 := by rw [hp]; rfl
    rw [exec_plateList htakes hkind hready hid, runPlateList_eq]
    rfl
  · rw [Defect.bytes, d.xRange_eq.1, d.xRange_eq.2, codeOr0_eq]

end Sys2Proof.Machine

/-! The armed job becomes IMAGING (R132). -/

namespace Sys2Proof.Machine

/-! ## One job of a queue with distinct ids (R124) -/

section
variable {pre post : List Job} {j : Job} (hids : ((pre ++ j :: post).map Job.id).Nodup)
include hids

theorem ids_apart : (∀ k ∈ pre, k.id ≠ j.id) ∧ ∀ k ∈ post, k.id ≠ j.id := by
  rw [List.map_append, List.map_cons, List.nodup_append] at hids
  obtain ⟨-, hpost, hpre⟩ := hids
  refine ⟨fun k hk => hpre _ (List.mem_map_of_mem hk) _ (List.mem_cons_self ..), fun k hk hid => ?_⟩
  exact (List.nodup_cons.1 hpost).1 (hid ▸ List.mem_map_of_mem hk)

theorem jobOf_of_distinct {s : State} (hqueue : s.psch.queue = pre ++ j :: post) : jobOf s j.id = some j := by
  have hpre : pre.find? (fun k => k.id == j.id) = none :=
    List.find?_eq_none.2 fun k hk => by simpa using (ids_apart hids).1 k hk
  simp [jobOf, hqueue, List.find?_append, hpre]

/-- A rewriting of one job leaves the others as they are. -/
theorem updateJob_of_distinct {s : State} (hqueue : s.psch.queue = pre ++ j :: post) (f : Job → Job) :
    updateJob j.id f s = { s with psch := { s.psch with queue := pre ++ f j :: post } } := by
  obtain ⟨hpre, hpost⟩ := ids_apart hids
  have hother {l : List Job} (hl : ∀ k ∈ l, k.id ≠ j.id) : l.map (fun k => if k.id == j.id then f k else k) = l :=
    (List.map_congr_left fun k hk => if_neg (by simpa using hl k hk)).trans l.map_id
  rw [updateJob, hqueue, List.map_append, List.map_cons, hother hpre, hother hpost, if_pos (beq_self_eq_true _)]

/-- A job leaves the queue, and the others stay. -/
theorem filter_of_distinct : (pre ++ j :: post).filter (fun k => k.id != j.id) = pre ++ post := by
  obtain ⟨hpre, hpost⟩ := ids_apart hids
  have hother {l : List Job} (hl : ∀ k ∈ l, k.id ≠ j.id) : l.filter (fun k => k.id != j.id) = l :=
    List.filter_eq_self.2 fun k hk => bne_iff_ne.2 (hl k hk)
  rw [List.filter_append, List.filter_cons_of_neg (by simp), hother hpre, hother hpost]

end

/-- Settles O36. -/
theorem armedJobBecomesImaging : Obligations.ArmedJobBecomesImaging := by
  intro s pre post j harmed hqueue hids bound ready
  rw [hqueue] at hids
  have hjob : armedJob s = some j := armedJob_of_jobOf harmed (jobOf_of_distinct hids hqueue)
  unfold startImaging
  rw [hjob]
  dsimp only
  rw [updateJob_of_distinct hids hqueue]
  rfl

end Sys2Proof.Machine

/-! Binding and unbinding work on the directory, the contexts, PSC and LP alone (R56, R58): the other blocks of the part,
PSCH, RU, IMP, SCT and DREC among them, neither matter to them nor are changed by them. -/

namespace Sys2Proof.Machine

/-! ## The blocks that a binding works on -/

/-- The state `t` with LP, PRX, PDIR and PSC as they stand in `s`. -/
def withPages (s t : State) : State := { t with lp := s.lp, prx := s.prx, pdir := s.pdir, psc := s.psc }

/-- An operation on LP, PRX, PDIR and PSC alone. -/
def WorksOnPages (f : State → State) : Prop := ∀ s t, f (withPages s t) = withPages (f s) t

theorem WorksOnPages.comp {f g : State → State} (hf : WorksOnPages f) (hg : WorksOnPages g) :
    WorksOnPages (fun s => f (g s)) := fun s t => (congrArg f (hg s t)).trans (hf (g s) t)

theorem WorksOnPages.foldl {β : Type} {f : State → β → State} (hf : ∀ b, WorksOnPages (fun s => f s b)) (l : List β) :
    WorksOnPages (fun s => l.foldl f s) := by
  induction l with
  | nil => exact fun _ _ => rfl
  | cons b l ih => exact ih.comp (hf b)

/-- What such an operation leaves of a state, said of any other with the same LP, PRX, PDIR and PSC. -/
theorem WorksOnPages.eq_withPages {f : State → State} (hf : WorksOnPages f) {s t : State} (ht : withPages s t = t) :
    f t = withPages (f s) t := by
  rw [← hf s t, ht]

/-! ## Each operation -/

theorem report_worksOnPages (r : Report) : WorksOnPages (report r) := fun _ _ => rfl

theorem noteEntry_worksOnPages (ev : PageEvent) (h : Nat) : WorksOnPages (noteEntry ev h) := fun _ _ => rfl

theorem dropRequests_worksOnPages (c : Client) : WorksOnPages (dropRequests c) := fun _ _ => rfl

theorem emptyChunkOf_worksOnPages (h : Nat) : WorksOnPages (emptyChunkOf h) := by
  intro s t
  unfold emptyChunkOf
  have hchunk : (withPages s t).prx.chunk = s.prx.chunk := rfl
  rw [hchunk]
  cases s.prx.chunk with
  | none => rfl
  | some c =>
    dsimp only
    split <;> rfl

theorem missBand_worksOnPages (h b : Nat) : WorksOnPages (fun s => missBand h s b) := by
  intro s t
  have hband : bandOf (withPages s t) h b = bandOf s h b := rfl
  simp only [missBand, hband]
  cases bandOf s h b with
  | none => rfl
  | some r =>
    dsimp only
    split <;> rfl

theorem missBands_worksOnPages (h : Nat) : WorksOnPages (missBands h) := fun s t =>
  WorksOnPages.foldl (missBand_worksOnPages h) (List.range (entry s h).bands.length) s t

theorem freeContextOf_worksOnPages (h : Nat) : WorksOnPages (freeContextOf h) := fun s t => by
  rw [freeContextOf_def, freeContextOf_def]
  rfl

theorem endRepair_worksOnPages (h : Nat) (note : Option PageEvent) : WorksOnPages (endRepair h note) := by
  have hended := (freeContextOf_worksOnPages h).comp ((missBands_worksOnPages h).comp (emptyChunkOf_worksOnPages h))
  cases note with
  | none => exact hended
  | some ev => exact (noteEntry_worksOnPages ev h).comp hended

theorem releaseEntry_worksOnPages (h : Nat) (cause : ReleaseCause) : WorksOnPages (releaseEntry h cause) := by
  intro s t
  rw [(releaseEntry_eq h cause (withPages s t)).2, (releaseEntry_eq h cause s).2, emptyChunkOf_worksOnPages h s t]
  rfl

theorem markStore_worksOnPages (h : Nat) : WorksOnPages (markStore h) := by
  intro s t
  have hentry : entry (withPages s t) h = entry s h := rfl
  simp only [markStore, hentry]
  split <;> rfl

/-- R56. -/
theorem bindEntry_worksOnPages (h : Nat) : WorksOnPages (fun s => bindEntry s h) := by
  intro s t
  have hcontext : contextOf (withPages s t) h = contextOf s h := rfl
  simp only [bindEntry, hcontext]
  cases contextOf s h with
  | none => rfl
  | some i =>
    dsimp only
    rw [endRepair_worksOnPages h _ s t]
    rfl

/-- R58, R66. -/
theorem unbindEntry_worksOnPages (h : Nat) : WorksOnPages (fun s => unbindEntry s h) := by
  intro s t
  let u := setEntry h { entry s h with refs := (entry s h).refs - 1 } s
  have hrelease := releaseEntry_worksOnPages h .deferred u t
  have hmark := markStore_worksOnPages h (setEntry h { entry u h with storeSuspect := false } u) t
  show (if (entry u h).state = .superseded then releaseEntry h .deferred (withPages u t)
    else if (entry u h).storeSuspect then
      markStore h (withPages (setEntry h { entry u h with storeSuspect := false } u) t)
    else withPages u t) = withPages (if _ then _ else if _ then _ else _) t
  rw [hrelease, hmark]
  split
  · rfl
  · split <;> rfl

end Sys2Proof.Machine

/-! The end of the armed job (R135): its record, and its leaving of the plate queue. -/

namespace Sys2Proof.Machine

section
variable {s : State} {j : Job} {r : JobResult} {f : Option FitFault}

/-- R135: the end of a job that did not reach IMAGING. -/
theorem endArmedJob_unimaged (hj : armedJob s = some j) (hstate : j.state ≠ .imaging) :
    endArmedJob r f s = archiveJob (unimagedRecord j r f) [] (unbindJob j (dropFill (closePlate s))) := by
  unfold endArmedJob
  rw [hj]
  exact if_neg hstate

/-- R135: the end of the job in IMAGING. -/
theorem endArmedJob_imaging (hj : armedJob s = some j) (hstate : j.state = .imaging) :
    endArmedJob r f s =
      archiveJob (imagedRecord j r (fixVerdict (handAbort j r s))) (fixVerdict (handAbort j r s)).drec.list
        (unbindJob j (plateEnd (ruStop (fixVerdict (handAbort j r s))))) := by
  unfold endArmedJob
  rw [hj]
  exact if_pos hstate

/-- R137, R138: the armed job enters the done history, no job is armed, and the ENDED note is queued. -/
theorem archiveJob_armed {l : List Defect} {queue : List Job} (h : s.psch.armed = some j.id)
    (hqueue : s.psch.queue.filter (fun q => q.id != j.id) = queue) : archiveJob j l s = { s with
      lp := s.lp.queueReport (endedNote j)
      psch := { s.psch with queue := queue, history := pushHistory ⟨j, l⟩ s.psch.history, armed := none } } := by
  rw [archiveJob, if_pos h, hqueue]
  rfl

theorem unbindJob_unbound (h : ∀ t ∈ j.slots, t.bound = none) : unbindJob j s = s := by
  have hnone : j.slots.filterMap (fun t => t.bound.map Prod.fst) = [] :=
    List.filterMap_eq_nil_iff.2 fun t ht => by rw [h t ht]; rfl
  rw [unbindJob, boundHandles, hnone]
  rfl

theorem dropFill_of_no_fill (h : s.sct.fill = none) : dropFill s = s := by
  rw [dropFill, h]

end

end Sys2Proof.Machine

/-! The schedule test (R127 to R132): which job it takes, its fit tests in order, and the binding of its pages. -/

namespace Sys2Proof.Machine

/-! ## Resolution and eligibility (R55, R127) -/

/-- The entry of a key in COMPLETE or DAMAGED. -/
def answersKey (s : State) (k : PageKey) (h : Nat) : Prop :=
  (entry s h).key = k ∧ ((entry s h).state = .complete ∨ (entry s h).state = .damaged)

theorem answersKey_iff (s : State) (k : PageKey) (h : Nat) :
    answersKey s k h ↔ ∃ e, s.pdir.entries[h]? = some e ∧ (e.closed && e.key == k) = true := by
  by_cases hh : h < s.pdir.entries.length
  · have hget := List.getElem?_eq_getElem hh
    have hentry : entry s h = s.pdir.entries[h] := entry_of_getElem? hget
    simp [answersKey, hentry, hget, Entry.closed, and_comm]
  · simp [answersKey, entry_default (Nat.le_of_not_lt hh), Entry.empty, List.getElem?_eq_none (Nat.le_of_not_lt hh)]

theorem resolve_eq_none {s : State} {k : PageKey} : resolve s k = none ↔ ∀ h, ¬ answersKey s k h := by
  simp only [resolve, List.findIdx?_eq_none_iff, answersKey_iff]
  constructor
  · rintro hnone h ⟨e, he, hclosed⟩
    exact Bool.false_ne_true ((hnone e (List.mem_of_getElem? he)).symm.trans hclosed)
  · intro hnone e he
    obtain ⟨h, hh⟩ := List.mem_iff_getElem?.1 he
    exact Bool.eq_false_iff.2 fun hclosed => hnone h ⟨e, hh, hclosed⟩

theorem answersKey_of_resolve {s : State} {k : PageKey} {h : Nat} (hres : resolve s k = some h) : answersKey s k h := by
  obtain ⟨hh, hclosed, -⟩ := List.findIdx?_eq_some_iff_getElem.1 hres
  exact (answersKey_iff s k h).2 ⟨_, List.getElem?_eq_getElem hh, hclosed⟩

/-- R55, R51: where at most one entry answers a key, it is the one the key resolves to. -/
theorem resolve_eq_some {s : State} {k : PageKey} (honly : ∀ g h, answersKey s k g → answersKey s k h → g = h)
    {h : Nat} : resolve s k = some h ↔ answersKey s k h := by
  refine ⟨answersKey_of_resolve, fun hanswers => ?_⟩
  cases hres : resolve s k with
  | none => exact absurd hanswers (resolve_eq_none.1 hres h)
  | some g => rw [honly g h (answersKey_of_resolve hres) hanswers]

theorem slotReady_iff (s : State) (p : Policy) (t : JobSlot) : slotReady s p t = true ↔
    ∃ h, resolve s t.key = some h ∧
      ((entry s h).state = .complete ∨ ((entry s h).state = .damaged ∧ p = .run)) := by
  unfold slotReady
  cases resolve s t.key <;> simp

theorem eligible_iff (s : State) (j : Job) : eligible s j = true ↔
    j.state = .queued ∧ s.lp.unattended = false ∧ s.hmon.plateLoaded = true ∧ s.hmon.drumReady = true ∧
      s.psch.fresh = true ∧ s.hmon.test = none ∧ (screenSet s j.setIndex).state = .ready ∧
      ∀ t ∈ j.slots, ∃ h, resolve s t.key = some h ∧
        ((entry s h).state = .complete ∨ ((entry s h).state = .damaged ∧ j.policy = .run)) := by
  simp only [eligible, partReady, Bool.and_eq_true, beq_iff_eq, Bool.not_eq_true', Option.isNone_iff_eq_none,
    List.all_eq_true, slotReady_iff, and_assoc]

/-! ## The fit tests (R130) -/

theorem slotsOverlap_iff (s : State) (l : List JobSlot) : slotsOverlap s l = true ↔
    ∃ t u, l = [t, u] ∧ t.x0 < u.x0 + (resolvedPage s u).2.1 ∧ u.x0 < t.x0 + (resolvedPage s t).2.1 := by
  unfold slotsOverlap rangesMeet
  split
  · simp
  · rename_i hother
    simp only [Bool.false_eq_true, false_iff]
    rintro ⟨t, u, rfl, -⟩
    exact hother t u rfl

theorem fitFault_eq (s : State) (j : Job) : fitFault s j =
    if ∃ t ∈ j.slots, j.wp < t.x0 + (resolvedPage s t).2.1 then some .width
    else if slotsOverlap s j.slots = true then some .overlap
    else if ∃ t ∈ j.slots, j.bp < j.top / 64 + (resolvedPage s t).2.2 then some .height
    else if s.imp.nrev < s.imp.lead + j.wp then some .revolution
    else none := by
  simp only [fitFault, List.any_eq_true, decide_eq_true_eq]

/-! ## The job taken (R129) -/

theorem scheduleTest_of_nothingToArm {s : State} (h : nothingToArm s) : scheduleTest s = s := by
  unfold scheduleTest scheduleFrom
  split
  · rfl
  · rename_i hunarmed
    have hnone : s.psch.queue.find? (eligible s) = none :=
      List.find?_eq_none.2 fun j hj => by
        rw [h.resolve_left hunarmed j hj]
        exact Bool.false_ne_true
    rw [hnone]

section
variable {s : State} {pre post : List Job} {j : Job} (hunarmed : s.psch.armed = none)
  (hqueue : s.psch.queue = pre ++ j :: post) (hids : ((pre ++ j :: post).map Job.id).Nodup)

include hqueue in
theorem find?_eligible (hpre : ∀ k ∈ pre, eligible s k = false) (hj : eligible s j = true) :
    s.psch.queue.find? (eligible s) = some j := by
  have hnone : pre.find? (eligible s) = none :=
    List.find?_eq_none.2 fun k hk => by
      rw [hpre k hk]
      exact Bool.false_ne_true
  rw [hqueue, List.find?_append, hnone, Option.none_or, List.find?_cons_of_pos hj]

include hunarmed in
/-- R129: the oldest eligible job ends at once when a fit test fails, and a further test follows. -/
theorem scheduleTest_misfit {fault : FitFault} (hfirst : s.psch.queue.find? (eligible s) = some j)
    (hfit : fitFault s j = some fault) :
    scheduleTest s = scheduleFrom s.psch.queue.length (endArmedJob .fit (some fault) (beginArming j s)) := by
  rw [scheduleTest, scheduleFrom, hunarmed, hfirst]
  dsimp only
  rw [hfit]
  rfl

include hunarmed in
/-- R129: the oldest eligible job that fits is armed. -/
theorem scheduleTest_fits (hfirst : s.psch.queue.find? (eligible s) = some j) (hfit : fitFault s j = none) :
    scheduleTest s = tileCheck j (bindJob j (beginArming j s)) := by
  rw [scheduleTest, scheduleFrom, hunarmed, hfirst]
  dsimp only
  rw [hfit]
  rfl

include hqueue hids in
/-- R130: the job becomes the armed job in ARMING, and DREC opens a plate. -/
theorem beginArming_eq : beginArming j s = { s with
    drec := (openPlate s).drec
    psch := { s.psch with queue := pre ++ { j with state := .arming } :: post, armed := some j.id } } := by
  rw [beginArming, updateJob_of_distinct hids (s := openPlate s) hqueue]
  rfl

include hunarmed hqueue hids in
/-- R130, R181: a fit test fails, and the job ends FAILED without having bound a page. -/
theorem endArmedJob_misfit (hfill : s.sct.fill = none) (hunbound : ∀ t ∈ j.slots, t.bound = none) (fault : FitFault) :
    endArmedJob .fit (some fault) (beginArming j s) = { s with
      drec := { (openPlate s).drec with plateOpen := false }
      lp := s.lp.queueReport (.plate (.ended j.id .failed (some .fit) (some fault) none 0))
      psch := { s.psch with
        queue := pre ++ post
        history := (⟨{ j with state := .failed, result := some .fit, fit := some fault, verdict := none, defects := 0 },
          []⟩ :: s.psch.history).take 8 } } := by
  set a : Job := { j with state := .arming } with ha
  have hids' : ((pre ++ a :: post).map Job.id).Nodup := by simpa [ha] using hids
  rw [beginArming_eq hqueue hids]
  set t : State := { s with
    drec := (openPlate s).drec
    psch := { s.psch with queue := pre ++ a :: post, armed := some j.id } } with ht
  have hjob : armedJob t = some a := armedJob_of_jobOf rfl (jobOf_of_distinct hids' rfl)
  have hended : endArmedJob .fit (some fault) t = archiveJob (unimagedRecord a .fit (some fault)) [] (closePlate t) := by
    rw [endArmedJob_unimaged hjob (by simp [ha]), dropFill_of_no_fill (s := closePlate t) hfill,
      unbindJob_unbound (j := a) hunbound]
  have hfilter : t.psch.queue.filter (fun q => q.id != j.id) = pre ++ post := filter_of_distinct hids'
  rw [hended, archiveJob_armed (j := unimagedRecord a .fit (some fault)) (s := closePlate t) rfl hfilter]
  dsimp only
  rw [hunarmed]
  rfl

end

end Sys2Proof.Machine

/-! The binding of a job's pages (R131, R56) and its tile check (R95, R132), and the schedule test as a whole. -/

namespace Sys2Proof.Machine

/-! ## Binding without an open repair (R56) -/

theorem bindEntry_unserved {s : State} {h : Nat} (hcontext : contextOf s h = none) :
    bindEntry s h = setEntry h { entry s h with refs := (entry s h).refs + 1 } s := by
  rw [bindEntry, hcontext]

/-- Entries that no context serves are bound by their reference counts alone, each once. -/
theorem bindEntries_unserved {l : List Nat} : ∀ {s : State}, l.Nodup → (∀ h ∈ l, contextOf s h = none) →
    l.foldl bindEntry s = { s with
      pdir := { s.pdir with entries := s.pdir.entries.mapIdx (fun h e =>
        if h ∈ l then { e with refs := e.refs + 1 } else e) } } := by
  induction l with
  | nil =>
    intro s _ _
    have hentries : s.pdir.entries.mapIdx (fun h e => if h ∈ [] then { e with refs := e.refs + 1 } else e) =
        s.pdir.entries := List.ext_getElem (by simp) (by simp)
    rw [hentries]
    rfl
  | cons g l ih =>
    intro s hnodup hcontext
    obtain ⟨hg, hnodup⟩ := List.nodup_cons.1 hnodup
    have hrest : ∀ h ∈ l, contextOf (setEntry g { entry s g with refs := (entry s g).refs + 1 } s) h = none :=
      fun h hh => hcontext h (List.mem_cons_of_mem _ hh)
    have hentries : (s.pdir.entries.set g { entry s g with refs := (entry s g).refs + 1 }).mapIdx
          (fun h e => if h ∈ l then { e with refs := e.refs + 1 } else e) =
        s.pdir.entries.mapIdx (fun h e => if h ∈ g :: l then { e with refs := e.refs + 1 } else e) := by
      refine List.ext_getElem (by simp) fun h hlt hlt' => ?_
      simp only [List.getElem_mapIdx, List.getElem_set, List.mem_cons]
      by_cases hgh : g = h
      · subst hgh
        have hentry : entry s g = s.pdir.entries[g]'(by simpa using hlt') :=
          entry_of_getElem? (List.getElem?_eq_getElem _)
        simp [hg, hentry]
      · simp [hgh, Ne.symm hgh]
    rw [List.foldl_cons, bindEntry_unserved (hcontext g (List.mem_cons_self ..)), ih hnodup hrest]
    simp only [setEntry, hentries]

/-! ## The job as it is armed (R131, R132) -/

/-- The handles of a job's pages, in slot order, each entry once. -/
def pageHandles (s : State) (j : Job) : List Nat := (j.slots.map (fun t => (resolvedPage s t).1)).dedup

/-- A job in ARMING with its pages bound and its set's generation recorded. -/
def armedRecord (s : State) (j : Job) : Job :=
  { j with
    state := .arming
    generation := (screenSet s j.setIndex).generation
    slots := j.slots.map (bindSlot s) }

/-- The part with a job of the plate queue armed and its pages bound. -/
def jobArmed (s : State) (pre post : List Job) (j : Job) : State :=
  { (pageHandles s j).foldl bindEntry s with
    drec := { (openPlate s).drec with geometry := j.slots.map (slotGeometry s j) }
    psch := { s.psch with queue := pre ++ armedRecord s j :: post, armed := some j.id } }

/-- The bindings of a job's pages leave PSCH and DREC alone, and do not read them. -/
theorem bindEntries_beside (l : List Nat) (s : State) (p : Psch) (d : Drec) :
    l.foldl bindEntry { s with psch := p, drec := d } = { l.foldl bindEntry s with psch := p, drec := d } := by
  have hbinds : WorksOnPages (fun s => l.foldl bindEntry s) := WorksOnPages.foldl bindEntry_worksOnPages l
  have hself : l.foldl bindEntry s = withPages (l.foldl bindEntry s) s := hbinds.eq_withPages rfl
  rw [hself]
  exact hbinds.eq_withPages (s := s) rfl

section
variable {s : State} {pre post : List Job} {j : Job} (hqueue : s.psch.queue = pre ++ j :: post)
  (hids : ((pre ++ j :: post).map Job.id).Nodup)
include hqueue hids

/-- R131, R181: the job's pages are bound, and DREC takes the plate's geometry. -/
theorem bindJob_beginArming : bindJob j (beginArming j s) = { (pageHandles s j).foldl bindEntry s with
    drec := { (openPlate s).drec with geometry := j.slots.map (slotGeometry s j) }
    psch := { s.psch with
      queue := pre ++ { j with state := .arming, slots := j.slots.map (bindSlot s) } :: post
      armed := some j.id } } := by
  have hids' : ((pre ++ { j with state := .arming } :: post).map Job.id).Nodup := by simpa using hids
  have hfold := bindEntries_beside (pageHandles s j) s
    { s.psch with queue := pre ++ { j with state := .arming } :: post, armed := some j.id } (openPlate s).drec
  have hupdated := updateJob_of_distinct hids' (congrArg (fun t => t.psch.queue) hfold)
    (fun q => { q with slots := j.slots.map (bindSlot s) })
  rw [beginArming_eq hqueue hids]
  refine (congrArg (fun v : State => { v with drec := { v.drec with geometry := j.slots.map (slotGeometry s j) } })
    hupdated).trans ?_
  rw [hfold]

/-- R131, R95, R132: the pages are bound, the set's generation is recorded, and the tile check follows. -/
theorem tileCheck_bindJob_beginArming : tileCheck j (bindJob j (beginArming j s)) =
    if s.sct.tag = some (j.setIndex, (screenSet s j.setIndex).generation) then startImaging (jobArmed s pre post j)
    else beginFill j.setIndex (screenSet s j.setIndex).generation (jobArmed s pre post j) := by
  have hbound := bindJob_beginArming hqueue hids
  have hsct : (bindJob j (beginArming j s)).sct = s.sct := by simp
  have hset : screenSet (bindJob j (beginArming j s)) j.setIndex = screenSet s j.setIndex := by
    rw [screenSet, hsct, screenSet]
  have hids' : ((pre ++ { j with state := .arming, slots := j.slots.map (bindSlot s) } :: post).map Job.id).Nodup := by
    simpa using hids
  have hrecorded : updateJob j.id (fun q => { q with generation := (screenSet s j.setIndex).generation })
      (bindJob j (beginArming j s)) = jobArmed s pre post j := by
    rw [updateJob_of_distinct hids' (congrArg (fun t => t.psch.queue) hbound), hbound]
    rfl
  have htag : (jobArmed s pre post j).sct.tag = s.sct.tag := by
    rw [← hrecorded]
    simp
  unfold tileCheck
  dsimp only
  rw [hset, hrecorded, htag]

end

/-- Settles O35: with no job to arm by `scheduleTest_of_nothingToArm`; otherwise the oldest eligible job is the one that the
test takes, and `fitFault_eq` says which of the two ends it comes to. -/
theorem scheduleTestArmsTheOldestEligibleJob : Obligations.ScheduleTestArmsTheOldestEligibleJob := by
  refine ⟨fun s => scheduleTest_of_nothingToArm, fun s k honly => ⟨fun h => resolve_eq_some honly, resolve_eq_none⟩,
    eligible_iff, fun s pre post j hunarmed hqueue hids hpre hj hfill hunbound => ?_⟩
  intro page width count wide overlap tall long opened failed g armed w u
  rw [hqueue] at hids
  have hfirst := find?_eligible hqueue hpre hj
  have hmisfit {fault : FitFault} (hfit : fitFault s j = some fault) : scheduleTest s = failed fault := by
    rw [scheduleTest_misfit hunarmed hfirst hfit, endArmedJob_misfit hunarmed hqueue hids hfill hunbound, hqueue,
      List.length_append, List.length_cons, ← Nat.add_assoc, ← List.length_append]
    rfl
  have hoverlap : slotsOverlap s j.slots = true ↔ overlap := slotsOverlap_iff s j.slots
  have hfit := fitFault_eq s j
  refine ⟨fun h1 => hmisfit ?_, fun h1 h2 => hmisfit ?_, fun h1 h2 h3 => hmisfit ?_, fun h1 h2 h3 h4 => hmisfit ?_,
    fun h1 h2 h3 h4 => ?_, fun hcontext => ?_⟩
  · exact hfit.trans (if_pos h1)
  · exact hfit.trans ((if_neg h1).trans (if_pos (hoverlap.2 h2)))
  · exact hfit.trans ((if_neg h1).trans ((if_neg (mt hoverlap.1 h2)).trans (if_pos h3)))
  · exact hfit.trans ((if_neg h1).trans ((if_neg (mt hoverlap.1 h2)).trans ((if_neg h3).trans (if_pos h4))))
  · have hnone : fitFault s j = none :=
      hfit.trans ((if_neg h1).trans ((if_neg (mt hoverlap.1 h2)).trans ((if_neg h3).trans (if_neg h4))))
    rw [scheduleTest_fits hunarmed hfirst hnone, tileCheck_bindJob_beginArming hqueue hids]
    rfl
  · have hserved : ∀ h ∈ (j.slots.map page).dedup, contextOf s h = none := fun h hh => by
      obtain ⟨t, ht, rfl⟩ := List.mem_map.1 (List.mem_dedup.1 hh)
      exact hcontext t ht
    refine (bindEntries_unserved (List.nodup_dedup _) hserved).trans ?_
    simp only [List.mem_dedup]

end Sys2Proof.Machine

/-! The end of the armed job (R135): what its unbinding leaves of the entries, and how RU and IMP stop. -/

namespace Sys2Proof.Machine

/-! ## Unbinding the pages of a job (R58, R66) -/

/-- An entry once one binding of it is undone. -/
def Entry.unbound (e : Entry) : Entry :=
  if e.state = .superseded then Entry.empty
  else if e.storeSuspect = true then Entry.marked { e with refs := e.refs - 1, storeSuspect := false }
  else { e with refs := e.refs - 1 }

/-- An entry of the directory that no context serves and no chunk in the chunk buffer belongs to. -/
structure Unserved (s : State) (h : Nat) : Prop where
  held : h < s.pdir.entries.length
  context : contextOf s h = none
  chunk : ∀ c, s.prx.chunk = some c → c.handle ≠ h

theorem Unserved.of_same {s t : State} {h : Nat} (hs : Unserved s h) (hprx : t.prx = s.prx)
    (hlength : t.pdir.entries.length = s.pdir.entries.length) : Unserved t h :=
  ⟨hlength ▸ hs.held, (contextOf_congr (by rw [hprx]) h).trans hs.context, fun c hc => hs.chunk c (hprx ▸ hc)⟩

/-- What a state becomes when the entries of the list are each unbound once. -/
structure Unbinds (l : List Nat) (s t : State) : Prop where
  prx : t.prx = s.prx
  size : t.pdir.entries.length = s.pdir.entries.length
  entries : ∀ h, entry t h = if h ∈ l then (entry s h).unbound else entry s h
  pool : t.psc.poolAside s.psc

/-- R66: the marking of an entry that a merged refresh reached while it was bound. -/
theorem entry_markStore {s : State} {h : Nat} (hh : h < s.pdir.entries.length) (g : Nat) :
    entry (markStore h s) g = if g = h then (entry s h).marked else entry s g := by
  rw [markStore_eq hh]
  split
  · rename_i hnone
    rw [Entry.marked_of_none_good hnone]
    split
    · rename_i hg
      rw [hg]
    · rfl
  · exact entry_of_entries (s := s) rfl hh

theorem entry_iff_singleton {s t : State} {h : Nat} {e : Entry}
    (ht : ∀ g, entry t g = if g = h then e else entry s g) (he : e = (entry s h).unbound) (g : Nat) :
    entry t g = if g ∈ [h] then (entry s g).unbound else entry s g := by
  rw [ht g]
  by_cases hg : g = h
  · subst hg
    simp [he]
  · simp [hg]

/-- R58, R59: an entry that is SUPERSEDED is released by its last unbinding. -/
theorem releaseEntry_unserved_unbinds {s : State} {h : Nat} (hs : Unserved s h) (e : Entry)
    (hunbound : Entry.empty = (entry s h).unbound) :
    Unbinds [h] s (releaseEntry h .deferred (setEntry h e s)) := by
  have hspec := (releaseEntry_spec h .deferred (setEntry h e s) hs.chunk).2
  have hfreed : freedContexts (setEntry h e s) h = s.prx.contexts := by
    have hcontext : contextOf (setEntry h e s) h = none := hs.context
    rw [freedContexts, hcontext]
    rfl
  rw [hfreed] at hspec
  rw [hspec]
  exact ⟨rfl, by simp, entry_iff_singleton (fun g => entry_of_entries (s := s) (List.set_set ..) hs.held) hunbound,
    (returnChains_spec _ _).1⟩

/-- R58, R66: the unbinding of an entry that no context serves. -/
theorem unbindEntry_unbinds {s : State} {h : Nat} (hs : Unserved s h) : Unbinds [h] s (unbindEntry s h) := by
  rw [unbindEntry_eq hs.held]
  dsimp only
  split
  · rename_i hsuper
    exact releaseEntry_unserved_unbinds hs _ (if_pos hsuper).symm
  · rename_i hsuper
    split
    · rename_i hsuspect
      let clean : Entry := { entry s h with refs := (entry s h).refs - 1, storeSuspect := false }
      have hset (g : Nat) : entry (setEntry h clean s) g = if g = h then clean else entry s g := entry_set hs.held
      have hmarked (g : Nat) : entry (markStore h (setEntry h clean s)) g = if g = h then clean.marked else entry s g := by
        rw [entry_markStore (by simpa using hs.held), hset, hset, if_pos rfl]
        split <;> rfl
      exact ⟨by simp, by simp, entry_iff_singleton hmarked ((if_neg hsuper).trans (if_pos hsuspect)).symm,
        by simp [poolAside_refl]⟩
    · rename_i hsuspect
      exact ⟨rfl, by simp, entry_iff_singleton (fun g => entry_set hs.held)
        ((if_neg hsuper).trans (if_neg hsuspect)).symm, poolAside_refl _⟩

theorem unbindEntries_unbinds {l : List Nat} : ∀ {s : State}, l.Nodup → (∀ h ∈ l, Unserved s h) →
    Unbinds l s (l.foldl unbindEntry s) := by
  induction l with
  | nil => exact fun _ _ => ⟨rfl, rfl, fun h => by simp, poolAside_refl _⟩
  | cons g l ih =>
    intro s hnodup hserved
    obtain ⟨hg, hnodup⟩ := List.nodup_cons.1 hnodup
    have hfirst := unbindEntry_unbinds (hserved g (List.mem_cons_self ..))
    have hrest := ih hnodup fun h hh => (hserved h (List.mem_cons_of_mem _ hh)).of_same hfirst.prx hfirst.size
    refine ⟨hrest.prx.trans hfirst.prx, hrest.size.trans hfirst.size, fun h => ?_, poolAside_trans hrest.pool hfirst.pool⟩
    rw [List.foldl_cons, hrest.entries, hfirst.entries]
    by_cases hhg : h = g
    · subst hhg
      simp [hg]
    · simp [hhg]

/-! ## RU and IMP stop (R120, R160) -/

/-- The ring with one slot returned to FREE where it is FILLING (R120). -/
def freedSlot (ring : List RingState) (k : Nat) : List RingState :=
  if ring.getD k .free = .filling then ring.set k .free else ring

theorem freeFilling_eq (s : State) (k : Nat) :
    freeFilling s k = { s with imp := { s.imp with ring := freedSlot s.imp.ring k } } := by
  unfold freeFilling freedSlot ringState
  split <;> rfl

theorem freedSlot_filling (ring : List RingState) (i k : Nat) :
    (freedSlot ring i).getD k .free = .filling ↔ ring.getD k .free = .filling ∧ k ≠ i := by
  unfold freedSlot
  by_cases hik : i = k
  · subst hik
    split
    · by_cases hlt : i < ring.length <;> simp [hlt]
    · rename_i hother
      simp only [hother, false_and]
  · split <;> simp [hik, Ne.symm hik]

/-- The ring with the slots that RU has claimed returned to FREE (R120). -/
def ringAfterStop (s : State) : List RingState :=
  match s.ru.claimed with
  | some (k0, k1) => freedSlot (freedSlot s.imp.ring k0) k1
  | none => s.imp.ring

/-- R120: RU's stop frees the slots that it has claimed and not filled. -/
theorem ringAfterStop_filling (s : State) (k : Nat) : (ringAfterStop s).getD k .free = .filling ↔
    ringState s k = .filling ∧ ∀ k0 k1, s.ru.claimed = some (k0, k1) → k ≠ k0 ∧ k ≠ k1 := by
  unfold ringAfterStop ringState
  cases s.ru.claimed with
  | none => simp
  | some p =>
    obtain ⟨k0, k1⟩ := p
    simp only [freedSlot_filling, Option.some.injEq, Prod.mk.injEq, and_assoc]
    exact and_congr_right fun _ => ⟨fun h i0 i1 hi => hi.1 ▸ hi.2 ▸ h, fun h => h k0 k1 ⟨rfl, rfl⟩⟩

/-- R120: what RU's stop leaves. -/
theorem ruStop_eq (s : State) : ruStop s = { s with
    psc := s.psc.dropped .ru
    imp := { s.imp with ring := ringAfterStop s }
    ru := { s.ru with
      phase := .idle, job := none, cursor := 0, claimed := none, context := none, rest := [], write := none } } := by
  have hdropped : dropRequests .ru s = { s with psc := s.psc.dropped .ru } := rfl
  unfold ruStop ringAfterStop
  rw [hdropped]
  dsimp only
  cases s.ru.claimed with
  | none => rfl
  | some k =>
    obtain ⟨k0, k1⟩ := k
    simp only [freeFilling_eq]

/-- R160: what the end of a plate leaves of the ring. -/
theorem plateEnd_ring (s : State) (k : Nat) :
    ringState (plateEnd s) k = if ringState s k = .filling then .filling else .free := by
  have hring : ringState (plateEnd s) k = freeExposed (ringState s k) := by
    show (s.imp.ring.map freeExposed).getD k (freeExposed .free) = _
    exact List.getD_map ..
  rw [hring]
  cases ringState s k <;> rfl

end Sys2Proof.Machine

/-! The end of the armed job (R135) as a whole: the part as RU, IMP and SCT stop, the pages unbound, and the record in the
done history. -/

namespace Sys2Proof.Machine

/-! ## The part before the pages are unbound (R135, R188) -/

/-- The part at the end of the job in IMAGING, before its pages are unbound, with DREC as the ABORT defect left it. -/
def imagingStopped (s : State) (d : Drec) : State := plateEnd (ruStop (fixVerdict { s with drec := d }))

/-- R134, R135: DREC with the ABORT defect of a job that ends otherwise than COMPLETED. -/
def drecAtEnd (j : Job) (r : JobResult) (s : State) : Drec := (handAbort j r s).drec

theorem handAbort_eq (j : Job) (r : JobResult) (s : State) : handAbort j r s = { s with drec := drecAtEnd j r s } := by
  cases r <;> rfl

section
variable (s : State) (d : Drec)

/-- R120, R160, R188, R189: what the end of imaging leaves, IMP apart. -/
theorem imagingStopped_eq : imagingStopped s d = { s with
    psc := (s.psc.dropped .ru).dropped .impFetch
    drec := { d with plateOpen := false, mark := d.verdict == .marked, reject := d.verdict == .reject }
    ru := { s.ru with
      phase := .idle, job := none, cursor := 0, claimed := none, context := none, rest := [], write := none }
    imp := (imagingStopped s d).imp } := by
  unfold imagingStopped
  rw [ruStop_eq]
  rfl

/-- R160: what the end of imaging leaves of IMP, the revolution, closing pending and the ring apart. -/
theorem imagingStopped_imp :
    { (imagingStopped s d).imp with rev := s.imp.rev, closing := s.imp.closing, ring := s.imp.ring } =
      { s.imp with
        prev := { s.imp.prev with live := false }
        fifo := []
        refill := false
        underrun := none
        exposed := 0
        steps := 0
        dwellCount := 0
        firstExpose := false
        cancelPending := false
        endDecided := false } := by
  unfold imagingStopped
  rw [ruStop_eq]
  rfl

/-- R160: the plate is cut in every revolution but an END revolution, which goes on as it is. -/
theorem imagingStopped_revolution {cut : Bool} (hcut : (s.imp.rev.decision != .endPlate) = cut) :
    (imagingStopped s d).imp.rev = { s.imp.rev with dark := s.imp.rev.dark || cut, live := false } ∧
      (imagingStopped s d).imp.closing = if cut then some s.imp.exposed else s.imp.closing := by
  subst hcut
  unfold imagingStopped
  rw [ruStop_eq]
  exact ⟨rfl, rfl⟩

theorem imagingStopped_cut (h : s.imp.rev.decision ≠ .endPlate) :
    (imagingStopped s d).imp.rev = { s.imp.rev with dark := true, live := false } ∧
      (imagingStopped s d).imp.closing = some s.imp.exposed := by
  simpa only [Bool.or_true, if_true] using imagingStopped_revolution s d (bne_iff_ne.2 h)

theorem imagingStopped_goes_on (h : s.imp.rev.decision = .endPlate) :
    (imagingStopped s d).imp.rev = { s.imp.rev with live := false } ∧
      (imagingStopped s d).imp.closing = s.imp.closing := by
  have hcut : (s.imp.rev.decision != .endPlate) = false := by rw [h]; rfl
  simpa only [Bool.or_false, Bool.false_eq_true, if_false] using imagingStopped_revolution s d hcut

/-- R120, R160: every ring slot is freed, but for one FILLING that RU has not claimed. -/
theorem imagingStopped_ring (k : Nat) :
    let kept := ringState s k = .filling ∧ ∀ k0 k1, s.ru.claimed = some (k0, k1) → k ≠ k0 ∧ k ≠ k1
    (kept → ringState (imagingStopped s d) k = .filling) ∧ (¬kept → ringState (imagingStopped s d) k = .free) := by
  intro kept
  have hring : ringState (imagingStopped s d) k =
      if (ringAfterStop s).getD k .free = .filling then .filling else .free := by
    rw [imagingStopped, plateEnd_ring, ruStop_eq]
    rfl
  rw [hring]
  exact ⟨fun h => if_pos ((ringAfterStop_filling s k).2 h), fun h => if_neg (mt (ringAfterStop_filling s k).1 h)⟩

end

/-- R98, R181: what the end of a job in ARMING leaves before its pages are unbound. -/
theorem armingStopped_eq (s : State) : dropFill (closePlate s) = { s with
    psc := if s.sct.fill = none then s.psc else s.psc.dropped .sctFill
    sct := { s.sct with fill := none }
    drec := { s.drec with plateOpen := false } } := by
  unfold dropFill
  have hfill : (closePlate s).sct.fill = s.sct.fill := rfl
  rw [hfill]
  cases h : s.sct.fill with
  | none =>
    have hsct : { s.sct with fill := none } = s.sct := by rw [← h]
    rw [hsct, if_pos rfl]
    rfl
  | some g =>
    rw [if_neg (by simp)]
    rfl

/-! ## The two ways a job ends (R135) -/

section
variable (j : Job) (r : JobResult) (f : Option FitFault) (s : State)

/-- The part at the end of the armed job, before its pages are unbound. -/
def partAtEnd : State :=
  if j.state = .imaging then imagingStopped s (drecAtEnd j r s) else dropFill (closePlate s)

/-- PSC at the end of the armed job, without the requests of the blocks that stop (R78). -/
def pscAtEnd : Psc :=
  if j.state = .imaging then (s.psc.dropped .ru).dropped .impFetch
  else if s.sct.fill = none then s.psc
  else s.psc.dropped .sctFill

/-- The armed job as it ends (R135, R188). -/
def recordAtEnd : Job :=
  if j.state = .imaging then
    { j with
      state := .finished
      result := some r
      verdict := some (drecAtEnd j r s).verdict
      defects := (drecAtEnd j r s).list.length }
  else unimagedRecord j r f

/-- The defect list of the armed job as it ends. -/
def defectsAtEnd : List Defect := if j.state = .imaging then (drecAtEnd j r s).list else []

theorem recordAtEnd_id : (recordAtEnd j r f s).id = j.id := by
  unfold recordAtEnd
  split <;> rfl

theorem endArmedJob_eq (hj : armedJob s = some j) : endArmedJob r f s =
    archiveJob (recordAtEnd j r f s) (defectsAtEnd j r s) (unbindJob j (partAtEnd j r s)) := by
  unfold recordAtEnd defectsAtEnd partAtEnd
  by_cases hstate : j.state = .imaging
  · rw [endArmedJob_imaging hj hstate, handAbort_eq, if_pos hstate, if_pos hstate, if_pos hstate]
    rfl
  · rw [endArmedJob_unimaged hj hstate, if_neg hstate, if_neg hstate, if_neg hstate]

theorem partAtEnd_pages : withPages { s with psc := pscAtEnd j s } (partAtEnd j r s) = partAtEnd j r s := by
  unfold pscAtEnd partAtEnd
  by_cases hstate : j.state = .imaging
  · rw [if_pos hstate, if_pos hstate, imagingStopped_eq]
    rfl
  · rw [if_neg hstate, if_neg hstate, armingStopped_eq]
    rfl

theorem partAtEnd_psch : (partAtEnd j r s).psch = s.psch := by
  unfold partAtEnd
  split
  · rw [imagingStopped_eq]
  · rw [armingStopped_eq]

end

/-! ## The job unbound and archived (R135, steps 4 to 6) -/

section
variable {s t : State} {j done : Job} {p : Psc} (hpages : withPages { s with psc := p } t = t) (hpsch : t.psch = s.psch)
  (harmed : s.psch.armed = some j.id) (hid : done.id = j.id)
include hpages hpsch harmed hid

theorem archiveJob_unbindJob (l : List Defect) :
    let w := (boundHandles j).foldl unbindEntry { s with psc := p }
    archiveJob done l (unbindJob j t) = { withPages w t with
      lp := w.lp.queueReport (endedNote done)
      psch := { s.psch with
        queue := s.psch.queue.filter (fun k => k.id != j.id)
        history := pushHistory ⟨done, l⟩ s.psch.history
        armed := none } } := by
  intro w
  have hunbinds : WorksOnPages (fun s => (boundHandles j).foldl unbindEntry s) := fun s t =>
    WorksOnPages.foldl unbindEntry_worksOnPages (boundHandles j) s t
  have hunbound : unbindJob j t = withPages w t := hunbinds.eq_withPages hpages
  rw [hunbound, archiveJob_armed (s := withPages w t) (queue := s.psch.queue.filter (fun k => k.id != j.id))]
  · simp only [withPages, hpsch]
  · exact (congrArg Psch.armed hpsch).trans (harmed.trans (congrArg some hid.symm))
  · show t.psch.queue.filter _ = _
    rw [hpsch, hid]

end

theorem unimagedState_eq (r : JobResult) :
    unimagedState r = if r = .fit ∨ r = .tile then .failed else .cancelled := by
  cases r <;> rfl

theorem mem_boundHandles {j : Job} {h : Nat} : h ∈ boundHandles j ↔ ∃ t ∈ j.slots, ∃ v, t.bound = some (h, v) := by
  simp [boundHandles]

/-- Settles O37. -/
theorem jobEndsAndIsArchived : Obligations.JobEndsAndIsArchived := by
  intro s j r fit hjob harmed hserved isBound abort d stopped w done u
  have hd : drecAtEnd j r s = d := by cases r <;> rfl
  have hdone : recordAtEnd j r fit s = done := by
    unfold recordAtEnd
    rw [hd]
    simp only [unimagedRecord, unimagedState_eq]
    rfl
  have hu : u = { withPages w (partAtEnd j r s) with
      lp := w.lp.queueReport (endedNote done)
      psch := { s.psch with
        queue := s.psch.queue.filter (fun k => k.id != j.id)
        history := pushHistory ⟨done, defectsAtEnd j r s⟩ s.psch.history
        armed := none } } := by
    rw [← hdone]
    exact (endArmedJob_eq j r fit s hjob).trans (archiveJob_unbindJob (partAtEnd_pages j r s) (partAtEnd_psch j r s)
      harmed (recordAtEnd_id j r fit s) _)
  have hw : Unbinds (boundHandles j) { s with psc := stopped } w :=
    unbindEntries_unbinds (List.nodup_dedup _) fun h hh => by
      obtain ⟨t, ht, v, hbound⟩ := mem_boundHandles.1 hh
      obtain ⟨hcontext, hheld, hchunk⟩ := hserved t ht h v hbound
      exact ⟨hheld, hcontext, hchunk⟩
  have hentry (h : Nat) : entry u h = if h ∈ boundHandles j then (entry s h).unbound else entry s h := by
    rw [hu]
    exact hw.entries h
  have hcounter : w.pdir.counter = s.pdir.counter :=
    foldl_keeps (fun x : State => x.pdir.counter) _ (by simp) _ _
  have hprx : w.prx = s.prx := hw.prx
  have hdefects : defectsAtEnd j r s = if j.state = .imaging then d.list else [] := by rw [defectsAtEnd, hd]
  refine ⟨by rw [hu]; rfl, by rw [hu]; rfl, by rw [hu]; rfl, fun h hh => ?_, fun h hh hsuper => ?_,
    fun h hh hsuper hclean => ?_, fun h hh hsuper hsuspect => ?_, by rw [hu], by rw [hu], by rw [hu],
    by rw [hu, hdefects]; rfl, by rw [hu]; exact hcounter, by rw [hu]; exact hprx, by rw [hu]; exact hw.pool,
    fun hstate => ?_, fun hstate => ?_⟩
  · rw [hentry, if_neg (mt mem_boundHandles.1 hh)]
  · rw [hentry, if_pos (mem_boundHandles.2 hh)]
    exact if_pos hsuper
  · rw [hentry, if_pos (mem_boundHandles.2 hh)]
    exact (if_neg hsuper).trans (if_neg (by simp [hclean]))
  · rw [hentry, if_pos (mem_boundHandles.2 hh)]
    exact (if_neg hsuper).trans (if_pos hsuspect)
  · have hstopped : partAtEnd j r s = imagingStopped s d := by rw [partAtEnd, if_pos hstate, hd]
    have himp : u.imp = (imagingStopped s d).imp := by rw [hu, hstopped]; rfl
    have hring (k : Nat) : ringState u k = ringState (imagingStopped s d) k := by rw [ringState, himp]; rfl
    refine ⟨?_, ?_, fun k => ?_, fun h => ?_, fun h => ?_, ?_, ?_, ?_⟩
    · rw [hu, hstopped, imagingStopped_eq]
      rfl
    · rw [hu, hstopped, imagingStopped_eq]
      rfl
    · rw [hring]
      exact imagingStopped_ring s d k
    · rw [himp]
      exact imagingStopped_cut s d h
    · rw [himp]
      exact imagingStopped_goes_on s d h
    · rw [himp]
      exact imagingStopped_imp s d
    · rw [hu, hstopped, imagingStopped_eq]
      rfl
    · rw [hu, hstopped, imagingStopped_eq]
      simp only [withPages, hprx]
  · have hstopped : partAtEnd j r s = dropFill (closePlate s) := if_neg hstate
    rw [hu, hstopped, armingStopped_eq]
    refine ⟨rfl, rfl, ?_⟩
    simp only [withPages, hprx]

end Sys2Proof.Machine

/-! The ring's laws slot by slot (R102, R119, R147, R151, R152), and RU's changes of the ring. -/

namespace Sys2Proof.Machine

/-! ## Slots in a state, counted -/

/-- Slots in a state that all stand in a list of slots are no more than the list is long. -/
theorem countP_ringState_le {l : List RingState} {x : RingState} {m : List Nat}
    (hm : ∀ k, l.getD k .free = x → k ∈ m) : l.countP (· == x) ≤ m.length := by
  have hslots : ((List.range l.length).filter fun k => l.getD k .free == x) ⊆ m := fun k hk =>
    hm k (by simpa using (List.mem_filter.1 hk).2)
  have hmap : (List.range l.length).map (fun k => l.getD k .free) = l := by
    refine List.ext_getElem (by simp) fun k h1 h2 => ?_
    simp [List.getD_eq_getElem?_getD, h2]
  calc l.countP (· == x)
      = ((List.range l.length).map fun k => l.getD k .free).countP (· == x) := by rw [hmap]
    _ = ((List.range l.length).filter fun k => l.getD k .free == x).length := by
      rw [List.countP_map, List.countP_eq_length_filter]; rfl
    _ ≤ m.length := ((List.nodup_range.filter _).subperm hslots).length_le

/-- What a slot holds behind two changes to one state: that state in a changed slot, and otherwise what it held. -/
theorem getD_set_set {l : List RingState} {k0 k1 k : Nat} {r x : RingState}
    (h : ((l.set k0 r).set k1 r).getD k .free = x) : (x = r ∧ (k = k0 ∨ k = k1)) ∨ l.getD k .free = x := by
  simp only [List.getD_eq_getElem?_getD, List.getElem?_set] at h
  grind

/-! ## The laws -/

/-- The state of the armed job. -/
def Psch.armedState (p : Psch) : Option JobState :=
  (p.armed.bind fun id => p.queue.find? fun j => j.id == id).map Job.state

theorem armedState_eq (s : State) : s.psch.armedState = (armedJob s).map Job.state := rfl

/-- Slots FILLING are claimed, and RU holds a claim only while it is BUILDING (R102, R119, R120). -/
structure RingClaims (ring : List RingState) (claimed : Option (Nat × Nat)) (phase : RuPhase) : Prop where
  filling : ∀ k, ring.getD k .free = .filling → ∃ k0 k1, claimed = some (k0, k1) ∧ (k = k0 ∨ k = k1)
  building : claimed.isSome = true → phase = .building

/-- `ringSound`, slot by slot: the two counts follow. -/
structure RingLaws (s : State) : Prop where
  claims : RingClaims s.imp.ring s.ru.claimed s.ru.phase
  exposing : ∀ k, ringState s k = .exposing →
    s.imp.rev.decision = .expose ∧ s.imp.rev.live = true ∧ k = s.imp.rev.ringSlot
  imaging : s.imp.rev.live = true → s.psch.armedState = some .imaging
  sweep : s.imp.rev.decision = .expose → s.imp.rev.live = true →
    s.imp.rev.ringSlot = ringSlotOf s.imp.swath s.imp.exposed ∧ s.imp.rev.pass = passOf s.imp.swath s.imp.exposed
  arming : s.sct.fill.isSome = true → s.psch.armedState = some .arming
  undecided : s.imp.endDecided = false

theorem imagingJob_eq_some {s : State} {j : Job} (h : imagingJob s = some j) : armedJob s = some j ∧ j.state = .imaging := by
  simpa [imagingJob, Option.filter_eq_some_iff] using h

theorem imagingJob_isSome_iff (s : State) : (∃ j, imagingJob s = some j) ↔ s.psch.armedState = some .imaging := by
  simp [imagingJob, armedState_eq, Option.filter_eq_some_iff]

theorem armedState_eq_some_iff (s : State) (x : JobState) :
    s.psch.armedState = some x ↔ ∃ j, armedJob s = some j ∧ j.state = x := Option.map_eq_some_iff

theorem ringSound_iff (s : State) : ringSound s ↔ RingLaws s := by
  unfold ringSound
  rw [imagingJob_isSome_iff, ← armedState_eq_some_iff]
  constructor
  · rintro ⟨-, -, filling, building, exposing, imaging, sweep, arming, undecided⟩
    exact ⟨⟨filling, building⟩, exposing, imaging, sweep, arming, undecided⟩
  · intro h
    refine ⟨?_, ?_, h.claims.filling, h.claims.building, h.exposing, h.imaging, h.sweep, h.arming, h.undecided⟩
    · rcases hclaimed : s.ru.claimed with _ | ⟨k0, k1⟩
      · refine (countP_ringState_le (m := []) fun k hk => ?_).trans (Nat.zero_le 2)
        obtain ⟨k0, k1, hsome, -⟩ := h.claims.filling k hk
        rw [hclaimed] at hsome
        cases hsome
      · refine countP_ringState_le (m := [k0, k1]) fun k hk => ?_
        obtain ⟨i0, i1, hsome, hik⟩ := h.claims.filling k hk
        obtain ⟨rfl, rfl⟩ : k0 = i0 ∧ k1 = i1 := by simpa [hclaimed] using hsome
        simpa using hik
    · refine countP_ringState_le (m := [s.imp.rev.ringSlot]) fun k hk => ?_
      exact List.mem_singleton.2 (h.exposing k hk).2.2

/-- What the laws read beside the ring and RU's claim. -/
def sweepView (s : State) : Revolution × Swath × Nat × Bool × Bool × Option JobState :=
  ({ Revolution.idle with
      decision := s.imp.rev.decision, live := s.imp.rev.live, ringSlot := s.imp.rev.ringSlot, pass := s.imp.rev.pass },
    s.imp.swath, s.imp.exposed, s.imp.endDecided, s.sct.fill.isSome, s.psch.armedState)

/-- The laws behind a change of the ring and of RU's claim that makes no slot EXPOSING. -/
theorem RingLaws.of_claims {s t : State} (hs : RingLaws s) (hview : sweepView t = sweepView s)
    (hclaims : RingClaims t.imp.ring t.ru.claimed t.ru.phase)
    (hexposing : ∀ k, ringState t k = .exposing → ringState s k = .exposing) : RingLaws t := by
  simp only [sweepView, Prod.mk.injEq, Revolution.mk.injEq, true_and, and_true] at hview
  obtain ⟨⟨hdecision, hslot, hpass, hlive⟩, hswath, hexposed, hended, hfill, harmed⟩ := hview
  refine ⟨hclaims, fun k hk => ?_, ?_, ?_, ?_, hended.trans hs.undecided⟩
  · rw [hdecision, hlive, hslot]
    exact hs.exposing k (hexposing k hk)
  · rw [hlive, harmed]
    exact hs.imaging
  · rw [hdecision, hlive, hslot, hpass, hswath, hexposed]
    exact hs.sweep
  · rw [hfill, harmed]
    exact hs.arming

/-- All that the laws read. -/
def ringView (s : State) :
    (Revolution × Swath × Nat × Bool × Bool × Option JobState) × List RingState × Option (Nat × Nat) × RuPhase :=
  (sweepView s, s.imp.ring, s.ru.claimed, s.ru.phase)

theorem RingLaws.congr {s t : State} (hs : RingLaws s) (h : ringView t = ringView s) : RingLaws t := by
  simp only [ringView, Prod.mk.injEq] at h
  obtain ⟨hview, hring, hclaimed, hphase⟩ := h
  refine hs.of_claims hview (by rw [hring, hclaimed, hphase]; exact hs.claims) fun k hk => ?_
  rwa [ringState, ← hring]

/-! ## The ring at rest -/

/-- No slot is exposed for a job, and no fill is in progress: the laws hold whatever the plate queue. -/
structure RingRests (s : State) : Prop where
  claims : RingClaims s.imp.ring s.ru.claimed s.ru.phase
  unexposed : ∀ k, ringState s k ≠ .exposing
  stopped : s.imp.rev.live = false
  unfilled : s.sct.fill = none
  undecided : s.imp.endDecided = false

theorem RingRests.laws {s : State} (hs : RingRests s) : RingLaws s := by
  obtain ⟨claims, unexposed, stopped, unfilled, undecided⟩ := hs
  exact ⟨claims, fun k hk => absurd hk (unexposed k), by simp [stopped], by simp [stopped], by simp [unfilled], undecided⟩

/-- With no job IMAGING, the ring rests but for a fill. -/
theorem RingLaws.rests_of_not_imaging {s t : State} (hs : RingLaws s) (hnot : s.psch.armedState ≠ some .imaging)
    (himp : t.imp = s.imp) (hru : t.ru = s.ru) (hfill : t.sct.fill = none) : RingRests t := by
  have hstopped : ¬ s.imp.rev.live = true := fun hlive => hnot (hs.imaging hlive)
  refine ⟨by rw [himp, hru]; exact hs.claims, fun k hk => hstopped (hs.exposing k ?_).2.1,
    by rw [himp]; simpa using hstopped, hfill, by rw [himp]; exact hs.undecided⟩
  rwa [ringState, ← himp]

/-- With no job armed, the ring rests. -/
theorem RingLaws.rests_of_unarmed {s : State} (hs : RingLaws s) (hnone : s.psch.armedState = none) : RingRests s := by
  refine hs.rests_of_not_imaging (by simp [hnone]) rfl rfl ?_
  have hfill := hs.arming
  rw [hnone] at hfill
  simpa using hfill

/-- What the ring at rest reads. -/
def restView (s : State) : List RingState × Option (Nat × Nat) × RuPhase × Bool × Option Fill × Bool :=
  (s.imp.ring, s.ru.claimed, s.ru.phase, s.imp.rev.live, s.sct.fill, s.imp.endDecided)

theorem RingRests.congr {s t : State} (hs : RingRests s) (h : restView t = restView s) : RingRests t := by
  simp only [restView, Prod.mk.injEq] at h
  obtain ⟨hring, hclaimed, hphase, hlive, hfill, hended⟩ := h
  refine ⟨by rw [hring, hclaimed, hphase]; exact hs.claims, fun k hk => hs.unexposed k ?_, hlive.trans hs.stopped,
    hfill.trans hs.unfilled, hended.trans hs.undecided⟩
  rwa [ringState, ← hring]

/-! ## RU's claims (R102, R119) -/

/-- R102: RU's look at the ring claims two slots while RU is WAITING, or changes nothing. -/
theorem ruLook_cases (s : State) : ruLook s = s ∨
    s.ru.phase = .waiting ∧ ∃ k0 k1, (ruLook s).imp.ring = (s.imp.ring.set k0 .filling).set k1 .filling ∧
      (ruLook s).ru.claimed = some (k0, k1) ∧ (ruLook s).ru.phase = .building := by
  by_cases hphase : s.ru.phase = .waiting
  · cases hjob : s.ru.job with
    | none => exact .inl (by unfold ruLook; simp [hphase, hjob])
    | some j =>
      rw [ruLook_eq hphase hjob]
      split
      · exact .inr ⟨hphase, _, _, by simp; rfl, by simp [Ru.began], by simp [Ru.began]⟩
      · exact .inl rfl
  · exact .inl (ruLook_of_not_waiting hphase)

section
variable {s : State}

theorem ruLook_keeps_ringClaims (hs : RingClaims s.imp.ring s.ru.claimed s.ru.phase) :
    RingClaims (ruLook s).imp.ring (ruLook s).ru.claimed (ruLook s).ru.phase := by
  rcases ruLook_cases s with h | ⟨hwaiting, k0, k1, hring, hclaimed, hphase⟩
  · rwa [h]
  · refine ⟨fun k hk => ?_, fun _ => hphase⟩
    rw [hring] at hk
    rcases getD_set_set hk with ⟨-, hslot⟩ | hbefore
    · exact ⟨k0, k1, hclaimed, hslot⟩
    · obtain ⟨i0, i1, hsome, -⟩ := hs.filling k hbefore
      have hbuilding := hs.building (by rw [hsome]; rfl)
      simp [hwaiting] at hbuilding

theorem ruLook_exposing {k : Nat} (h : ringState (ruLook s) k = .exposing) : ringState s k = .exposing := by
  rcases ruLook_cases s with heq | ⟨-, k0, k1, hring, -, -⟩
  · rwa [heq] at h
  · rw [ringState, hring] at h
    rcases getD_set_set h with ⟨hx, -⟩ | hbefore
    · cases hx
    · exact hbefore

theorem ruLook_keeps_sweepView : sweepView (ruLook s) = sweepView s := by
  simp [sweepView]

theorem ruLook_keeps_ringRests (hs : RingRests s) : RingRests (ruLook s) := by
  refine ⟨ruLook_keeps_ringClaims hs.claims, fun k hk => hs.unexposed k (ruLook_exposing hk), ?_, ?_, ?_⟩
  · simpa using hs.stopped
  · simpa using hs.unfilled
  · simpa using hs.undecided

/-- R119: both claimed slots of a written band are READY, and nothing is claimed behind them. -/
theorem ringClaims_written {ring : List RingState} {k0 k1 : Nat} {phase phase' : RuPhase}
    (hs : RingClaims ring (some (k0, k1)) phase) :
    RingClaims ((ring.set k0 .ready).set k1 .ready) none phase' := by
  refine ⟨fun k hk => ?_, by simp⟩
  rcases getD_set_set hk with ⟨hx, -⟩ | hbefore
  · cases hx
  · obtain ⟨i0, i1, hsome, hik⟩ := hs.filling k hbefore
    obtain ⟨rfl, rfl⟩ : k0 = i0 ∧ k1 = i1 := by simpa using hsome
    rw [List.getD_eq_getElem?_getD, List.getElem?_set, List.getElem?_set] at hk
    rw [List.getD_eq_getElem?_getD] at hbefore
    grind

theorem ruWriteDone_keeps_ringLaws (hs : RingLaws s) (stale : Bool) : RingLaws (ruWriteDone stale s) := by
  have hpump (t : State) (ht : ringView t = ringView s) : RingLaws (ruPump t) :=
    hs.congr (by rw [← ht]; simp [ringView, sweepView])
  cases stale with
  | true => exact hpump s rfl
  | false =>
    by_cases hwork : ∃ j h g k0 k1, s.ru.job = some j ∧ s.ru.write = some (h, g) ∧ s.ru.claimed = some (k0, k1)
    · obtain ⟨j, h, g, k0, k1, hjob, hwrite, hclaimed⟩ := hwork
      rw [ruWriteDone_eq hjob hwrite hclaimed]
      split
      · exact hpump _ rfl
      · split
        · exact hpump _ rfl
        · refine hs.of_claims (ruLook_keeps_sweepView.trans rfl) (ruLook_keeps_ringClaims ?_) fun k hk => ?_
          · exact ringClaims_written (hclaimed ▸ hs.claims)
          · rcases getD_set_set (ruLook_exposing hk) with ⟨hx, -⟩ | hbefore
            · cases hx
            · exact hbefore
    · unfold ruWriteDone
      simp only [Bool.false_eq_true, if_false]
      split
      · exact absurd ⟨_, _, _, _, _, ‹_›, ‹_›, ‹_›⟩ hwork
      · exact hs

theorem decodeBytes_claimed (t : ScreenSet) (cache : List Nat) (top : Nat) (bs : List Byte) :
    ∀ (ru : Ru) (c : DecodeContext), (decodeBytes t cache top bs ru c).1.claimed = ru.claimed := by
  have hevent (slot : RuSlot) (ev : ScanEvent) (ru : Ru) :
      (applyEvent t cache slot top ev ru).claimed = ru.claimed := by
    cases ev with
    | run line start len black => cases black <;> rfl
    | _ => rfl
  induction bs with
  | nil => exact fun ru c => rfl
  | cons b bs ih =>
    intro ru c
    unfold decodeBytes
    split
    · rfl
    · split
      · rfl
      · rw [ih, hevent]

theorem ruReadDone_keeps_ringView (stale : Bool) (bs : List Byte) : ringView (ruReadDone stale bs s) = ringView s := by
  have hru : (ruReadDone stale bs s).ru.claimed = s.ru.claimed ∧ (ruReadDone stale bs s).ru.phase = s.ru.phase := by
    unfold ruReadDone
    split
    · simp
    · split
      · rename_i c j _ _
        have hclaimed := decodeBytes_claimed (screenSet s j.setIndex) s.sct.cache (64 * s.ru.cursor) bs s.ru c
        have hphase := (decodeBytes_keeps (screenSet s j.setIndex) s.sct.cache (64 * s.ru.cursor) bs s.ru c).1.1
        generalize decodeBytes (screenSet s j.setIndex) s.sct.cache (64 * s.ru.cursor) bs s.ru c = d
          at hclaimed hphase ⊢
        obtain ⟨ru, c', fault⟩ := d
        dsimp only at hclaimed hphase ⊢
        (repeat' split) <;> simp [hclaimed, hphase]
      · exact ⟨rfl, rfl⟩
  simp [ringView, sweepView, hru]

end

end Sys2Proof.Machine

/-! The schedule's operations keep the ring's laws (R129 to R135, R152): arming, the start of imaging and the end of a job. -/

namespace Sys2Proof.Machine

/-! ## The armed job behind changes of the plate queue -/

theorem armedJob_updateJob (s : State) (id : Nat) {f : Job → Job} (hid : ∀ j, (f j).id = j.id) :
    armedJob (updateJob id f s) = (armedJob s).map fun j => if j.id == id then f j else j := by
  have hids : ∀ j : Job, (if j.id == id then f j else j).id = j.id := fun j => by split <;> simp [hid]
  unfold armedJob
  rw [Option.map_bind]
  refine congrArg _ (funext fun i => ?_)
  simp only [jobOf, updateJob, List.find?_map, Function.comp_def, hids]

/-- A rewrite of a job that keeps its id and its state keeps the armed job's state. -/
theorem armedState_updateJob (s : State) (id : Nat) {f : Job → Job} (hid : ∀ j, (f j).id = j.id)
    (hstate : ∀ j, (f j).state = j.state) : (updateJob id f s).psch.armedState = s.psch.armedState := by
  rw [armedState_eq, armedState_eq, armedJob_updateJob s id hid, Option.map_map]
  refine congrFun (congrArg _ (funext fun j => ?_)) _
  simp only [Function.comp_apply]
  split <;> simp [hstate]

/-- R130: a job of the queue that begins ARMING is the armed job. -/
theorem armedState_beginArming {s : State} {j : Job} (hj : j ∈ s.psch.queue) :
    (beginArming j s).psch.armedState = some .arming := by
  obtain ⟨k, hk⟩ := Option.isSome_iff_exists.1 ((jobOf_isSome_iff s j.id).2 ⟨j, hj, rfl⟩)
  have harmed : armedJob { s with psch := { s.psch with armed := some j.id } } = some k := hk
  have hid : (k.id == j.id) = true := by simpa using (jobOf_eq_some hk).2
  have hupdated := armedJob_updateJob { s with psch := { s.psch with armed := some j.id } } j.id
    (f := fun q => { q with state := .arming }) fun _ => rfl
  rw [harmed, Option.map_some, if_pos hid] at hupdated
  exact congrArg (Option.map Job.state) hupdated

section
variable {s : State}

theorem bindJob_armedState (j : Job) : (bindJob j s).psch.armedState = s.psch.armedState := by
  have hbind := armedState_updateJob ((j.slots.map (fun t => (resolvedPage s t).1)).dedup.foldl bindEntry s) j.id
    (f := fun q => { q with slots := j.slots.map (bindSlot s) }) (fun _ => rfl) fun _ => rfl
  refine hbind.trans ?_
  simp

/-! ## The start of imaging (R132) -/

theorem plateStart_rests (hs : RingRests s) (j : RuJob) (note : Report) :
    RingRests (report note (ruStart j (plateStart s))) := by
  have hfree (k : Nat) : (s.imp.ring.map fun _ => RingState.free).getD k .free = .free :=
    List.getD_map (f := fun _ => RingState.free) (d := .free) ..
  have hstarted : RingRests (ruStart j (plateStart s)) := by
    refine ruLook_keeps_ringRests ⟨⟨fun k hk => ?_, by simp⟩, fun k hk => ?_, hs.stopped, hs.unfilled, rfl⟩
    · exact absurd ((hfree k).symm.trans hk) (by simp)
    · exact absurd ((hfree k).symm.trans hk) (by simp)
  exact hstarted.congr rfl

theorem startImaging_keeps_ringRests (hs : RingRests s) : RingRests (startImaging s) := by
  unfold startImaging
  split
  · exact hs
  · refine plateStart_rests ?_ _ _
    exact hs.congr rfl

/-! ## The end of the armed job (R135) -/

/-- R120, R160: every slot is free at the end of imaging, as RU has claimed those it was filling. -/
theorem imagingStopped_rests (d : Drec) (hclaims : RingClaims s.imp.ring s.ru.claimed s.ru.phase)
    (hfill : s.sct.fill = none) : RingRests (imagingStopped s d) := by
  have hfree (k : Nat) : ringState (imagingStopped s d) k = .free := by
    refine (imagingStopped_ring s d k).2 fun ⟨hfilling, hother⟩ => ?_
    obtain ⟨k0, k1, hclaimed, hk⟩ := hclaims.filling k hfilling
    exact hk.elim (hother k0 k1 hclaimed).1 (hother k0 k1 hclaimed).2
  have hru : (imagingStopped s d).ru.claimed = none := by rw [imagingStopped_eq]
  refine ⟨⟨fun k hk => ?_, by simp [hru]⟩, fun k => by simp [hfree], ?_, ?_, ?_⟩
  · exact absurd ((hfree k).symm.trans hk) (by simp)
  · rw [(imagingStopped_revolution s d rfl).1]
  · rw [imagingStopped_eq]
    exact hfill
  · exact congrArg Imp.endDecided (imagingStopped_imp s d)

theorem RingRests.archived (hs : RingRests s) (j k : Job) (l : List Defect) :
    RingRests (archiveJob j l (unbindJob k s)) := hs.congr (by simp [restView])

/-- R135: the job in IMAGING ends, END decided or not. -/
theorem endArmedJob_of_imaging {j : Job} (hj : imagingJob s = some j)
    (hclaims : RingClaims s.imp.ring s.ru.claimed s.ru.phase) (hfill : s.sct.fill = none) (r : JobResult)
    (f : Option FitFault) : RingRests (endArmedJob r f s) := by
  obtain ⟨harmed, hstate⟩ := imagingJob_eq_some hj
  rw [endArmedJob_eq j r f s harmed, partAtEnd, if_pos hstate]
  exact (imagingStopped_rests _ hclaims hfill).archived ..

theorem endArmedJob_rests (hs : RingLaws s) (r : JobResult) (f : Option FitFault) : RingRests (endArmedJob r f s) := by
  cases hj : armedJob s with
  | none =>
    have hnone : s.psch.armedState = none := by rw [armedState_eq, hj]; rfl
    unfold endArmedJob
    rw [hj]
    exact hs.rests_of_unarmed hnone
  | some j =>
    have harmed : s.psch.armedState = some j.state := by rw [armedState_eq, hj]; rfl
    by_cases hstate : j.state = .imaging
    · have himaging : imagingJob s = some j := by rw [imagingJob, hj]; simp [hstate]
      have hfill : s.sct.fill = none := by simpa [harmed, hstate] using hs.arming
      exact endArmedJob_of_imaging himaging hs.claims hfill r f
    · rw [endArmedJob_eq j r f s hj, partAtEnd, if_neg hstate, armingStopped_eq]
      refine RingRests.archived ?_ ..
      exact hs.rests_of_not_imaging (by simpa [harmed] using hstate) rfl rfl rfl

/-! ## The schedule test (R129 to R132) -/

theorem tileCheck_keeps_ringLaws (hs : RingRests s) (harmed : s.psch.armedState = some .arming) (j : Job) :
    RingLaws (tileCheck j s) := by
  have hrecorded := armedState_updateJob s j.id
    (f := fun q => { q with generation := (screenSet s j.setIndex).generation }) (fun _ => rfl) fun _ => rfl
  unfold tileCheck
  dsimp only
  split
  · exact (startImaging_keeps_ringRests (s := updateJob ..) (hs.congr rfl)).laws
  · obtain ⟨claims, unexposed, stopped, unfilled, undecided⟩ := hs
    refine ⟨by simpa using claims, fun k hk => absurd ?_ (unexposed k), by simp [stopped], by simp [stopped], ?_,
      by simpa using undecided⟩
    · simpa [ringState] using hk
    · simp [hrecorded, harmed]

theorem scheduleFrom_keeps_ringLaws (n : Nat) : ∀ {s : State}, RingLaws s → RingLaws (scheduleFrom n s) := by
  induction n with
  | zero => exact fun hs => hs
  | succ n ih =>
    intro s hs
    unfold scheduleFrom
    split
    · exact hs
    · rename_i hnone
      have hrests : RingRests s := hs.rests_of_unarmed (by
        have hnone : s.psch.armed = none := by simpa using hnone
        simp [Psch.armedState, hnone])
      split
      · exact hs
      · rename_i j hj
        have hbegun : RingRests (beginArming j s) := hrests.congr (by simp [restView])
        split
        · exact ih (endArmedJob_rests hbegun.laws _ _).laws
        · refine tileCheck_keeps_ringLaws (hbegun.congr (by simp [restView])) ?_ j
          rw [bindJob_armedState, armedState_beginArming (List.mem_of_find?_eq_some hj)]

theorem scheduleTest_keeps_ringLaws (hs : RingLaws s) : RingLaws (scheduleTest s) :=
  scheduleFrom_keeps_ringLaws _ hs

theorem testIfEntriesChanged_keeps_ringLaws (hs : RingLaws s) (before : State) :
    RingLaws (testIfEntriesChanged before s) :=
  holds_ite hs (scheduleTest_keeps_ringLaws hs)

theorem endArmed_keeps_ringLaws (hs : RingLaws s) (r : JobResult) (f : Option FitFault) : RingLaws (endArmed r f s) := by
  unfold endArmed
  split
  · exact hs
  · exact scheduleTest_keeps_ringLaws (endArmedJob_rests hs r f).laws

/-- R134, R135: a report that ends the job in IMAGING. -/
theorem endImaging_eq {j : Job} (h : imagingJob s = some j) (r : JobResult) :
    endImaging r s = scheduleTest (endArmedJob r none s) := by
  unfold endImaging
  rw [h]
  exact endArmed_eq (imagingJob_eq_some h).1

/-- R134, R135: the report that ends the job in IMAGING leaves the ring at rest before the schedule test, END decided or
not. -/
theorem endImaging_of_imaging {j : Job} (hj : imagingJob s = some j)
    (hclaims : RingClaims s.imp.ring s.ru.claimed s.ru.phase) (hfill : s.sct.fill = none) (r : JobResult) :
    RingLaws (endImaging r s) := by
  rw [endImaging_eq hj]
  exact scheduleTest_keeps_ringLaws (endArmedJob_of_imaging hj hclaims hfill r none).laws

theorem endImaging_keeps_ringLaws (hs : RingLaws s) (r : JobResult) : RingLaws (endImaging r s) := by
  unfold endImaging
  split
  · exact hs
  · exact endArmed_keeps_ringLaws hs r none

end

end Sys2Proof.Machine

/-! The index, the slot clock and the fill keep the ring's laws (R97, R148 to R154, R173, R174). -/

namespace Sys2Proof.Machine

/-! ## Between two revolutions (R151, R152) -/

/-- The laws once the revolution that ends is closed: a slot EXPOSING waits for its second pass (R150, R151). -/
structure RingBetween (s : State) : Prop where
  claims : RingClaims s.imp.ring s.ru.claimed s.ru.phase
  exposing : ∀ k, ringState s k = .exposing →
    (s.imp.swath = .half ∧ s.imp.exposed % 2 = 1) ∧ k = ringSlotOf s.imp.swath s.imp.exposed ∧
      s.psch.armedState = some .imaging
  arming : s.sct.fill.isSome = true → s.psch.armedState = some .arming
  undecided : s.imp.endDecided = false

theorem RingBetween.congr {s t : State} (hs : RingBetween s) (h : ringView t = ringView s) : RingBetween t := by
  simp only [ringView, sweepView, Prod.mk.injEq] at h
  obtain ⟨⟨-, hswath, hexposed, hended, hfill, harmed⟩, hring, hclaimed, hphase⟩ := h
  refine ⟨by rw [hring, hclaimed, hphase]; exact hs.claims, fun k hk => ?_, by rw [hfill, harmed]; exact hs.arming,
    hended.trans hs.undecided⟩
  rw [hswath, hexposed, harmed]
  exact hs.exposing k (by rwa [ringState, ← hring])

/-- R150: after the first of two passes, the same slot is due for its second. -/
theorem second_pass_of_first {swath : Swath} {e : Nat} (hfull : swath ≠ .full) (hpass : passOf swath e ≠ 1) :
    (swath = .half ∧ (e + 1) % 2 = 1) ∧ ringSlotOf swath (e + 1) = ringSlotOf swath e := by
  cases swath with
  | full => exact absurd rfl hfull
  | half =>
    simp only [passOf, ringSlotOf] at hpass ⊢
    exact ⟨⟨trivial, by omega⟩, by omega⟩

section
variable {s : State}

/-- R151: the sweep exposed is counted, and its slot freed behind its last pass. -/
theorem releaseSweep_between (hs : RingLaws s) (hexpose : s.imp.rev.decision = .expose ∧ s.imp.rev.live = true) :
    RingBetween (releaseSweep s) := by
  obtain ⟨claims, exposing, imaging, sweep, arming, undecided⟩ := hs
  obtain ⟨hslot, hpass⟩ := sweep hexpose.1 hexpose.2
  unfold releaseSweep
  dsimp only
  split
  · have hfreed {x : RingState} (hx : x ≠ .free) {k : Nat}
        (hk : (s.imp.ring.set s.imp.rev.ringSlot .free).getD k .free = x) :
        s.imp.ring.getD k .free = x ∧ k ≠ s.imp.rev.ringSlot := by
      simp only [List.getD_eq_getElem?_getD, List.getElem?_set] at hk ⊢
      grind
    refine ⟨ruLook_keeps_ringClaims ⟨fun k hk => claims.filling k (hfreed (x := .filling) nofun hk).1, claims.building⟩,
      fun k hk => ?_, by simpa using arming, by simpa using undecided⟩
    obtain ⟨hbefore, hother⟩ := hfreed (x := .exposing) nofun (ruLook_exposing hk)
    exact absurd (exposing k hbefore).2.2 hother
  · rename_i hkept
    rw [not_or] at hkept
    obtain ⟨hdue, hsame⟩ := second_pass_of_first (e := s.imp.exposed) hkept.1 (by rw [← hpass]; exact hkept.2)
    refine ⟨claims, fun k hk => ⟨hdue, ?_, imaging hexpose.2⟩, arming, undecided⟩
    exact ((exposing k hk).2.2.trans hslot).trans hsame.symm

theorem closeRevolution_between (hs : RingLaws s) : RingBetween (hmonIndex (closeRevolution s)) := by
  unfold closeRevolution
  dsimp only
  split
  · rename_i hexpose
    have hreleased (t : State) (ht : ringView t = ringView s) : RingBetween (releaseSweep t) := by
      have hview := ht
      simp only [ringView, sweepView, Prod.mk.injEq, Revolution.mk.injEq, true_and, and_true] at hview
      obtain ⟨⟨⟨hdecision, -, -, hlive⟩, -⟩, -⟩ := hview
      exact releaseSweep_between (hs.congr ht) (by rw [hdecision, hlive]; exact hexpose)
    unfold closeExpose
    refine (hreleased (if shortRevolution (handUnderrun s) then handDrumSpeed (handUnderrun s) else handUnderrun s) ?_).congr
      (by simp [ringView, sweepView, hmonIndex])
    split <;> simp [ringView, sweepView]
  · rename_i hidle
    refine RingBetween.congr (s := s) ⟨hs.claims, fun k hk => ?_, hs.arming, hs.undecided⟩ rfl
    obtain ⟨hdecision, hlive, -⟩ := hs.exposing k hk
    exact absurd ⟨hdecision, hlive⟩ hidle

/-! ## The decision (R152 to R154) -/

theorem RingBetween.unfilled {j : Job} (hs : RingBetween s) (hj : imagingJob s = some j) : s.sct.fill = none := by
  have himaging := (imagingJob_isSome_iff s).1 ⟨j, hj⟩
  simpa [himaging] using hs.arming

theorem decideEnd_keeps_ringLaws {j : Job} (hs : RingBetween s) (hj : imagingJob s = some j) (r : JobResult) :
    RingLaws (decideEnd r s) :=
  endImaging_of_imaging (s := { beginRevolution .endPlate s.imp.exposed true s with
    imp := { (beginRevolution .endPlate s.imp.exposed true s).imp with endDecided := true } }) hj hs.claims
    (hs.unfilled hj) r

/-- A revolution that exposes nothing, with no slot EXPOSING. -/
theorem beginRevolution_laws {d : Decision} {live : Bool} (hs : RingBetween s) (hd : d ≠ .expose)
    (hunexposed : ∀ k, ringState s k ≠ .exposing) (hlive : live = true → s.psch.armedState = some .imaging) (e : Nat) :
    RingLaws (beginRevolution d e live s) :=
  ⟨hs.claims, fun k hk => absurd hk (hunexposed k), hlive, fun h => absurd h hd, hs.arming, hs.undecided⟩

/-- R150, R152: an EXPOSE revolution, with no slot EXPOSING but its own. -/
theorem beginExpose_laws {j : Job} (hj : imagingJob s = some j) (hfill : s.sct.fill = none)
    (hclaims : RingClaims s.imp.ring s.ru.claimed s.ru.phase)
    (hexposing : ∀ k, ringState s k = .exposing → k = ringSlotOf s.imp.swath s.imp.exposed)
    (hundecided : s.imp.endDecided = false) : RingLaws (beginExpose s) := by
  have himaging := (imagingJob_isSome_iff s).1 ⟨j, hj⟩
  have hpumped (t : State) (ht : RingLaws t) : RingLaws (impPump t) := ht.congr (by simp [ringView, sweepView])
  refine hpumped _ ⟨hclaims, fun k hk => ⟨rfl, rfl, hexposing k hk⟩, fun _ => himaging, fun _ _ => ⟨rfl, rfl⟩, ?_,
    hundecided⟩
  simp [hfill]

/-- With no second pass due, no slot is EXPOSING. -/
theorem RingBetween.unexposed (hs : RingBetween s) (hfirst : ¬(s.imp.swath = .half ∧ s.imp.exposed % 2 = 1)) (k : Nat) :
    ringState s k ≠ .exposing := fun hk => hfirst (hs.exposing k hk).1

theorem decideDwell_keeps_ringLaws {j : Job} (hs : RingBetween s) (hj : imagingJob s = some j)
    (hunexposed : ∀ k, ringState s k ≠ .exposing) : RingLaws (decideDwell s) := by
  have himaging := (imagingJob_isSome_iff s).1 ⟨j, hj⟩
  have hcounted : RingBetween { s with imp := { s.imp with dwellCount := s.imp.dwellCount + 1 } } := hs.congr rfl
  refine holds_ite (holds_ite ?_ (decideEnd_keeps_ringLaws hcounted hj _)) ?_
  · exact beginRevolution_laws (d := .dwell) hcounted nofun hunexposed (fun _ => himaging) _
  · exact beginRevolution_laws (d := .dwell) hs nofun hunexposed (fun _ => himaging) _

theorem decideImaging_keeps_ringLaws {j : Job} (hs : RingBetween s) (hj : imagingJob s = some j) :
    RingLaws (decideImaging j s) := by
  have hfill := hs.unfilled hj
  unfold decideImaging
  dsimp only
  rw [if_neg (by simp [hs.undecided])]
  refine holds_ite (decideEnd_keeps_ringLaws hs hj _) (holds_ite (decideEnd_keeps_ringLaws hs hj _) ?_)
  split
  · exact beginExpose_laws hj hfill hs.claims (fun k hk => (hs.exposing k hk).2.1) hs.undecided
  · rename_i hfirst
    have hunexposed := hs.unexposed hfirst
    refine holds_ite ?_ (decideDwell_keeps_ringLaws hs hj hunexposed)
    have hset {k : Nat} {x : RingState}
        (hk : (s.imp.ring.set (ringSlotOf s.imp.swath s.imp.exposed) .exposing).getD k .free = x) :
        (x = .exposing ∧ k = ringSlotOf s.imp.swath s.imp.exposed) ∨ s.imp.ring.getD k .free = x := by
      simp only [List.getD_eq_getElem?_getD, List.getElem?_set] at hk ⊢
      grind
    refine beginExpose_laws (s := setRing (ringSlotOf s.imp.swath s.imp.exposed) .exposing s) hj hfill
      ⟨fun k hk => ?_, hs.claims.building⟩ (fun k hk => ?_) hs.undecided
    · exact hs.claims.filling k ((hset hk).resolve_left nofun)
    · exact ((hset hk).resolve_right (hunexposed k)).2

theorem decideIdle_keeps_ringLaws (hs : RingBetween s) (hj : imagingJob s = none) : RingLaws (decideIdle s) := by
  have hunexposed (k : Nat) : ringState s k ≠ .exposing := fun hk => by
    obtain ⟨j, hsome⟩ := (imagingJob_isSome_iff s).2 (hs.exposing k hk).2.2
    rw [hj] at hsome
    cases hsome
  unfold decideIdle
  split
  · exact (beginRevolution_laws (d := .endPlate) (live := false) hs nofun hunexposed nofun _).congr rfl
  · exact beginRevolution_laws (d := .idle) (live := false) hs nofun hunexposed nofun _

theorem decideRevolution_keeps_ringLaws (hs : RingBetween s) : RingLaws (decideRevolution s) := by
  unfold decideRevolution
  split
  · exact decideImaging_keeps_ringLaws hs ‹_›
  · exact decideIdle_keeps_ringLaws hs ‹_›

section
variable (hs : RingLaws s)
include hs

theorem finishTest_keeps_ringLaws (code : Byte) (fields : List Byte) : RingLaws (finishTest code fields s) := by
  unfold finishTest
  split
  · exact hs
  · exact scheduleTest_keeps_ringLaws (hs.congr rfl)

theorem abandonIfFourth_keeps_ringLaws : RingLaws (abandonIfFourth s) := by
  unfold abandonIfFourth
  split
  · exact holds_ite (finishTest_keeps_ringLaws hs _ _) hs
  · exact hs

theorem indexEvent_keeps_ringLaws : RingLaws (indexEvent s) :=
  abandonIfFourth_keeps_ringLaws (decideRevolution_keeps_ringLaws (closeRevolution_between hs))

/-! ## The slot clock and the clock-loss timer (R148, R173, R174) -/

theorem reportClockLoss_keeps_ringLaws (clock : ClockName) : RingLaws (reportClockLoss clock s) := by
  unfold reportClockLoss
  split
  · exact hs
  · exact (endImaging_keeps_ringLaws hs _).congr rfl

theorem slotEvent_keeps_ringLaws : RingLaws (slotEvent s) := by
  have hslot : RingLaws (impSlot s) := by
    refine hs.congr ?_
    unfold impSlot
    dsimp only
    split <;> simp [ringView, sweepView]
  have hmarked {t : State} (ht : RingLaws t) : RingLaws (markOverdue t) :=
    ht.congr (by simp [ringView, sweepView])
  have hlost {t : State} (ht : RingLaws t) : RingLaws (markLost t) :=
    reportClockLoss_keeps_ringLaws (s := { t with hmon := { t.hmon with indexLost := true } }) (ht.congr rfl) _
  unfold slotEvent hmonSlot
  dsimp only
  have hcounted : RingLaws { impSlot s with hmon := { (impSlot s).hmon with
    slotCount := countSlot (impSlot s).hmon.slotCount } } := hslot.congr rfl
  refine holds_ite hslot (holds_ite (hlost ?_) ?_) <;> exact holds_ite (hmarked hcounted) hcounted

/-! ## Head return records (R161 to R171, R177) -/

theorem takeRecord_keeps_ringLaws (r : HeadRecord) : RingLaws (takeRecord r s) := by
  have htaken : RingLaws { s with imp := { s.imp with recordTaken := true } } := hs.congr rfl
  have hchecked : RingLaws (checkHead r { s with imp := { s.imp with recordTaken := true } }) :=
    holds_ite (endImaging_keeps_ringLaws htaken _) htaken
  have hstate {t : State} (ht : RingLaws t) : RingLaws (takeHeadState r t) := by
    unfold takeHeadState
    dsimp only
    refine holds_ite ht (scheduleTest_keeps_ringLaws ?_)
    split <;> exact ht.congr rfl
  exact holds_ite (finishTest_keeps_ringLaws (hstate hchecked) _ _)
    ((hstate hchecked).congr (by simp [ringView, sweepView]))

/-! ## The judgement of a fill (R97) -/

/-- R97: a fill is in progress only for a job in ARMING, and its judgement ends it. -/
theorem judgeFill_keeps_ringLaws (hfill : s.sct.fill.isSome = true) (f : Fill) : RingLaws (judgeFill f s) := by
  have hnot : s.psch.armedState ≠ some .imaging := by rw [hs.arming hfill]; nofun
  refine holds_ite (startImaging_keeps_ringRests ?_).laws (endArmed_keeps_ringLaws (RingRests.laws ?_) _ _)
  · exact hs.rests_of_not_imaging hnot rfl rfl rfl
  · exact hs.rests_of_not_imaging hnot rfl rfl rfl

theorem fillDone_keeps_ringLaws (stale : Bool) (bs : List Byte) : RingLaws (fillDone stale bs s) := by
  have hpump {t : State} (ht : RingLaws t) : RingLaws (fillPump t) := ht.congr (by simp [ringView, sweepView])
  unfold fillDone
  dsimp only
  split
  · exact hpump hs
  · split
    · exact hs
    · rename_i f hf
      have htaken : RingLaws (takeFill f bs s) := by
        refine hs.congr ?_
        simp [ringView, sweepView, hf, takeFill]
      split
      · exact htaken
      · rename_i g hg
        exact holds_ite (judgeFill_keeps_ringLaws htaken (by simp [hg]) _) (hpump htaken)

end

end

end Sys2Proof.Machine

/-! Every command keeps the ring's laws (R102, R119, R120, R147, R151, R152). -/

namespace Sys2Proof.Machine

/-! ## Bytes of the link (R4 to R8) -/

theorem receiveByte_keeps_ringLaws {s : State} (hs : RingLaws s) (b : Byte) : RingLaws (receiveByte b s) := by
  have haccept {t : State} (ht : RingLaws t) (f : Frame) : RingLaws (acceptFrame f t) := by
    unfold acceptFrame
    dsimp only
    exact holds_ite (scheduleTest_keeps_ringLaws (ht.congr rfl)) (ht.congr rfl)
  unfold receiveByte
  dsimp only
  split
  · exact holds_ite (hs.congr rfl) hs
  · exact holds_ite (hs.congr rfl) (holds_ite (holds_ite (haccept (hs.congr rfl) _) (hs.congr rfl)) (hs.congr rfl))

/-! ## Commands of the link -/

/-- The meaning of a command that keeps the ring's laws, with the schedule sound. -/
def KeepsRing (run : Frame → State → State) : Prop := ∀ f s, scheduleSound s → RingLaws s → RingLaws (run f s)

theorem KeepsRing.serve {p : Frame → Bool} {run : Frame → State → State} (hrun : KeepsRing run) {s : State}
    (hp : scheduleSound s) (hs : RingLaws s) : leadsTo RingLaws (serve p run s) := by
  intro t ht
  rcases serve_cases ht with rfl | ⟨f, rest, -, -, rfl⟩
  · exact hs
  · exact hrun f _ hp (hs.congr rfl)

theorem KeepsRing.whenReady {run : Frame → State → State} (hrun : KeepsRing run) : KeepsRing (whenReady run) := by
  intro f s hp hs
  unfold Machine.whenReady
  split
  · exact hs.congr rfl
  · exact hrun f s hp hs

/-- A command that leaves alone all that the laws read. -/
theorem keepsRing_of_view {run : Frame → State → State} (hrun : ∀ f s, ringView (run f s) = ringView s) :
    KeepsRing run := fun f s _ hs => hs.congr (hrun f s)

theorem runPageOpen_keepsRing : KeepsRing runPageOpen := by
  intro f s _ hs
  unfold runPageOpen
  split
  · exact hs.congr rfl
  · split
    · exact hs.congr rfl
    · split
      · exact hs.congr rfl
      · dsimp only
        split
        · split
          · rename_i hcreated
            refine scheduleTest_keeps_ringLaws (hs.congr ?_)
            simp [ringView, sweepView, createEntry_keeps hcreated]
          · exact hs.congr rfl
        · exact hs.congr rfl

theorem runPageClose_keepsRing : KeepsRing runPageClose := by
  intro f s _ hs
  unfold runPageClose
  split
  · exact hs.congr rfl
  · refine holds_ite (testIfEntriesChanged_keeps_ringLaws (hs.congr ?_) _) (hs.congr rfl)
    simp [ringView, sweepView]

theorem runPageDrop_keepsRing : KeepsRing runPageDrop := by
  intro f s _ hs
  unfold runPageDrop
  split
  · exact hs.congr rfl
  · refine holds_ite (hs.congr rfl) (holds_ite (hs.congr rfl) (testIfEntriesChanged_keeps_ringLaws (hs.congr ?_) _))
    simp [ringView, sweepView]

theorem runScreenBegin_keepsRing : KeepsRing runScreenBegin := by
  intro f s _ hs
  unfold runScreenBegin
  split
  · exact hs.congr rfl
  · refine holds_ite (hs.congr rfl) (holds_ite (scheduleTest_keeps_ringLaws (hs.congr ?_)) (hs.congr rfl))
    simp [ringView, sweepView]

theorem runScreenEnd_keepsRing : KeepsRing runScreenEnd := by
  intro f s _ hs
  unfold runScreenEnd
  split
  · exact hs.congr rfl
  · refine holds_ite (hs.congr rfl) (scheduleTest_keeps_ringLaws (hs.congr ?_))
    simp [ringView, sweepView]

/-- R125: a job appended to the queue is not the armed one, which the queue holds. -/
theorem appendJob_armedState {s : State} (hp : scheduleSound s) (j : Job) :
    (appendJob j s).psch.armedState = s.psch.armedState := by
  have hheld := ((scheduleSound_iff s).1 hp).held
  unfold appendJob Psch.armedState
  cases harmed : s.psch.armed with
  | none => rfl
  | some id =>
    obtain ⟨k, hk, hid⟩ := List.mem_map.1 (hheld id harmed)
    obtain ⟨found, hfound⟩ := Option.isSome_iff_exists.1 ((jobOf_isSome_iff s id).2 ⟨k, hk, hid⟩)
    unfold jobOf at hfound
    simp [List.find?_append, hfound]

theorem runPlateQueue_keepsRing : KeepsRing runPlateQueue := by
  intro f s hp hs
  unfold runPlateQueue
  split
  · exact hs.congr rfl
  · rename_i j _
    refine holds_ite (hs.congr rfl) (holds_ite (hs.congr rfl) (holds_ite (hs.congr rfl) (holds_ite (hs.congr rfl)
      (scheduleTest_keeps_ringLaws (hs.congr ?_)))))
    have harmed := appendJob_armedState hp j
    simp only [ringView, sweepView, Prod.mk.injEq]
    exact ⟨⟨rfl, rfl, rfl, rfl, rfl, harmed⟩, rfl, rfl, rfl⟩

/-- R139: a job that is not the armed one leaves the queue. -/
theorem archiveJob_armedState {s : State} {j : Job} (h : s.psch.armed ≠ some j.id) (l : List Defect) :
    (archiveJob j l s).psch.armedState = s.psch.armedState := by
  rw [archiveJob_unarmed h]
  unfold Psch.armedState
  cases harmed : s.psch.armed with
  | none => rfl
  | some id =>
    have hid : id ≠ j.id := fun hid => h (by rw [harmed, hid])
    dsimp only [Option.bind_some]
    rw [List.find?_filter]
    refine congrArg (Option.map Job.state) (congrArg (List.find? · s.psch.queue) (funext fun k => ?_))
    by_cases hk : k.id = id
    · simp [hk, hid]
    · simp [hk]

theorem cancelJob_keeps_ringLaws {s : State} {j : Job} (hp : scheduleSound s) (hs : RingLaws s)
    (hj : jobOf s j.id = some j) : RingLaws (cancelJob j s) := by
  have hstate := ((scheduleSound_iff s).1 hp).states j (jobOf_eq_some hj).1
  by_cases harmed : s.psch.armed = some j.id
  · rcases (queueStateSound_armed harmed).1 hstate with harming | himaging
    · rw [cancelJob_arming harming]
      exact endArmed_keeps_ringLaws hs _ _
    · rw [cancelJob_imaging himaging]
      have hmarked := armedState_updateJob s j.id (f := fun q => { q with cancelRequested := true }) (fun _ => rfl)
        fun _ => rfl
      refine hs.congr ?_
      simp only [ringView, sweepView, Prod.mk.injEq]
      exact ⟨⟨rfl, rfl, rfl, rfl, rfl, hmarked⟩, rfl, rfl, rfl⟩
  · rw [cancelJob_queued ((queueStateSound_other harmed).1 hstate)]
    refine scheduleTest_keeps_ringLaws (hs.congr ?_)
    have hkept := archiveJob_armedState (s := s) (j := unimagedRecord j .cancelled none) harmed []
    simp only [ringView, sweepView, Prod.mk.injEq]
    exact ⟨⟨rfl, rfl, rfl, rfl, rfl, hkept⟩, rfl, rfl, rfl⟩

theorem runPlateCancel_keepsRing : KeepsRing runPlateCancel := by
  intro f s hp hs
  unfold runPlateCancel
  split
  · exact hs.congr rfl
  · rename_i j hj
    obtain ⟨id, -, hid⟩ := Option.bind_eq_some_iff.1 hj
    have hfound : jobOf s id = some j := by
      split at hid
      · cases hid
      · exact hid
    rw [← (jobOf_eq_some hfound).2] at hfound
    exact cancelJob_keeps_ringLaws (s := answer f rOk _ s) hp (hs.congr rfl) hfound

/-- R145: HEAD.SETUP is accepted with no job armed, so that no revolution exposes for one. -/
theorem runHeadSetup_keepsRing : KeepsRing runHeadSetup := by
  intro f s _ hs
  unfold runHeadSetup
  split
  · exact hs.congr rfl
  · split
    · exact hs.congr rfl
    · rename_i hidle
      refine holds_ite ?_ (hs.congr rfl)
      have hnone : s.psch.armed = none := by
        simpa using (Bool.or_eq_false_iff.1 (Bool.eq_false_iff.2 hidle)).1
      have hrests : RingRests s := hs.rests_of_unarmed (by simp [Psch.armedState, hnone])
      refine RingRests.laws ?_
      exact hrests.congr rfl

/-- R197: RESTART frees every slot, cuts a plate in IMAGING and drops a fill. -/
theorem restartPart_rests {s : State} (hs : RingLaws s) : RingRests (restartPart s) := by
  have hfree (l : List RingState) (k : Nat) : (l.map fun _ => RingState.free).getD k .free = .free :=
    List.getD_map (f := fun _ => RingState.free) (d := .free) ..
  have hring (k : Nat) : ringState (restartPart s) k = .free := hfree _ k
  have hfill : (restartPart s).sct.fill = none := by
    unfold restartPart dropFill
    dsimp only
    split
    · rfl
    · assumption
  have hstate : ((restartPart s).ru.claimed.isSome = true → (restartPart s).ru.phase = .building) ∧
      (restartPart s).imp.rev.live = false ∧ (restartPart s).imp.endDecided = false := by
    unfold restartPart
    cases himaging : imagingJob s with
    | some j => simp [leavePlate, ruStop_eq]
    | none =>
      have hnot : ¬ s.imp.rev.live = true := fun hlive => by
        obtain ⟨j, hj⟩ := (imagingJob_isSome_iff s).2 (hs.imaging hlive)
        rw [himaging] at hj
        cases hj
      simpa using ⟨hs.claims.building, by simpa using hnot, hs.undecided⟩
  obtain ⟨hbuilding, hlive, hended⟩ := hstate
  refine ⟨⟨fun k hk => ?_, hbuilding⟩, fun k hk => ?_, hlive, hfill, hended⟩
  · exact absurd ((hring k).symm.trans hk) (by simp)
  · exact absurd ((hring k).symm.trans hk) (by simp)

theorem runRestart_keepsRing : KeepsRing runRestart := by
  intro f s _ hs
  unfold runRestart
  split
  · split
    · exact hs.congr rfl
    · exact (restartPart_rests hs).laws.congr rfl
  · exact hs.congr rfl

/-! ## Completions of the store's operations (R77) -/

theorem completion_keeps_ringLaws {client : State → State} (hclient : ∀ s, RingLaws s → RingLaws (client s))
    (o : EndOrder) {s : State} (hs : RingLaws s) : RingLaws (completion o client s) := by
  cases o with
  | endFirst => exact hclient _ (hs.congr (by simp [ringView, sweepView]))
  | askFirst =>
    exact (hclient { s with psc := { s.psc with inFlight := .ending } } (hs.congr rfl)).congr rfl

theorem mergeRefresh_keeps_ringLaws {s : State} (hs : RingLaws s) : RingLaws (mergeRefresh s) :=
  testIfEntriesChanged_keeps_ringLaws (hs.congr (by simp [ringView, sweepView])) s

/-! ## Every command -/

theorem exec_keeps_ringLaws {s : State} (hp : scheduleSound s) (hs : RingLaws s) (c : Instr) :
    leadsTo RingLaws (exec c s) := by
  have hstays : leadsTo RingLaws (.next s) := leadsTo_next hs
  have hview {t : State} (ht : ringView t = ringView s) : leadsTo RingLaws (.next t) := leadsTo_next (hs.congr ht)
  have hread {client : List Byte → State → State} (hclient : ∀ bs s, RingLaws s → RingLaws (client bs s))
      (o : EndOrder) (addr len : Nat) : leadsTo RingLaws (finishRead o addr len client s) :=
    leadsTo_next (completion_keeps_ringLaws (hclient _) o hs)
  have hwrite {client : State → State} (hclient : ∀ s, RingLaws s → RingLaws (client s)) (o : EndOrder)
      (addr : Nat) (bs : List Byte) : leadsTo RingLaws (finishWrite o addr bs client s) :=
    leadsTo_next (completion_keeps_ringLaws hclient o (s := writeBytes addr bs s) (hs.congr rfl))
  have hif {p : Prop} [Decidable p] {a b : Host.Outcome State Fault Refusal} (ha : leadsTo RingLaws a)
      (hb : leadsTo RingLaws b) : leadsTo RingLaws (if p then a else b) := by
    split
    · exact ha
    · exact hb
  cases c with
  | hardwareReset => exact leadsTo_next ((ringSound_iff _).1 ringSound_reset)
  | resetRelease => exact hview rfl
  | tagZero => exact (keepsRing_of_view (run := fun f t => answer f rBadField [] t) fun _ _ => rfl).serve hp hs
  | unknownKind => exact (keepsRing_of_view (run := fun f t => answer f rUnknownKind [] t) fun _ _ => rfl).serve hp hs
  | status | configure => exact (keepsRing_of_view fun f s => by simp [ringView, sweepView]).serve hp hs
  | headSetup => exact runHeadSetup_keepsRing.serve hp hs
  | restart => exact runRestart_keepsRing.serve hp hs
  | pageOpen => exact runPageOpen_keepsRing.whenReady.serve hp hs
  | pageClose => exact runPageClose_keepsRing.whenReady.serve hp hs
  | pageDrop => exact runPageDrop_keepsRing.whenReady.serve hp hs
  | screenBegin => exact runScreenBegin_keepsRing.whenReady.serve hp hs
  | screenEnd => exact runScreenEnd_keepsRing.whenReady.serve hp hs
  | plateQueue => exact runPlateQueue_keepsRing.whenReady.serve hp hs
  | plateCancel => exact runPlateCancel_keepsRing.whenReady.serve hp hs
  | pageBand | pageQuery | screenTile | screenQuery | plateQuery | plateList | channelClear | monitorTest =>
    exact (keepsRing_of_view fun f s => by simp [ringView, sweepView]).whenReady.serve hp hs
  | frameReceived b | byteReceived b => exact hif hstays (leadsTo_next (receiveByte_keeps_ringLaws hs b))
  | frameTimerExpiry =>
    simp only [exec, execFrameTimerExpiry]
    split
    · exact hstays
    · exact hif hstays (hview rfl)
  | watchdogExpiry | frameSent => exact hif hstays (hview rfl)
  | beginTransmission =>
    simp only [exec, execBeginTransmission]
    (repeat' split) <;> exact hview rfl
  | linkWriteBurstDone o =>
    simp only [exec, execLinkWriteBurstDone]
    split
    · exact hwrite (fun t ht => testIfEntriesChanged_keeps_ringLaws (ht.congr (by simp [ringView, sweepView])) t) o _ _
    · exact hstays
  | tileWriteBurstDone o =>
    simp only [exec, execTileWriteBurstDone]
    split
    · exact hwrite (fun t ht => ht.congr (by simp [ringView, sweepView])) o _ _
    · exact hstays
  | ruWriteBurstDone o =>
    simp only [exec, execRuWriteBurstDone]
    split
    · exact hwrite (fun t ht => ruWriteDone_keeps_ringLaws ht _) o _ _
    · exact hstays
  | fillBurstDone o =>
    simp only [exec, execFillBurstDone]
    split
    · exact hread (fun bs t ht => fillDone_keeps_ringLaws ht _ bs) o _ _
    · exact hstays
  | ruReadBurstDone o =>
    simp only [exec, execRuReadBurstDone]
    split
    · exact hread (fun bs t ht => ht.congr (ruReadDone_keeps_ringView ..)) o _ _
    · exact hstays
  | fetchArrival o =>
    simp only [exec, execFetchArrival]
    split
    · exact hread (fun bs t ht => ht.congr (by simp [ringView, sweepView])) o _ _
    · exact hstays
  | receptionTimeout ctx =>
    refine hif hstays ?_
    split
    · exact hif (leadsTo_next (testIfEntriesChanged_keeps_ringLaws (hs.congr (by simp [ringView, sweepView])) s)) hstays
    · exact hstays
  | refreshDue =>
    simp only [exec, execRefreshDue]
    split
    · exact hstays
    · exact hif (hif (leadsTo_next (mergeRefresh_keeps_ringLaws hs)) hstays) (hview (by simp [ringView, sweepView]))
  | refreshOperationDone =>
    simp only [exec, execRefreshOperationDone]
    split
    · exact hview (by simp [ringView, sweepView])
    · exact hstays
  | slotClk => exact hif hstays (leadsTo_next (slotEvent_keeps_ringLaws hs))
  | indexOverdue | indexLost => exact hif (leadsTo_next (slotEvent_keeps_ringLaws hs)) hstays
  | drumIndex => exact hif hstays (leadsTo_next (indexEvent_keeps_ringLaws hs))
  | monitorTestAbandon => exact hif (leadsTo_next (indexEvent_keeps_ringLaws hs)) hstays
  | clockLossExpiry =>
    exact hif hstays (leadsTo_next (finishTest_keeps_ringLaws (reportClockLoss_keeps_ringLaws hs _) _ _))
  | headReturnRecord r => exact hif hstays (leadsTo_next (takeRecord_keeps_ringLaws hs r))

/-- Settles O57: the ring's laws slot by slot, which every command keeps where the schedule is sound. -/
theorem stepKeepsTheRingSound : Obligations.StepKeepsTheRingSound := by
  intro s t hp hs hstep
  rw [ringSound_iff] at hs ⊢
  unfold step at hstep
  split at hstep
  · rwa [← Host.Outcome.next.inj hstep]
  · rename_i rest _
    exact exec_keeps_ringLaws (s := { s with pending := rest }) hp (hs.congr rfl) _ t hstep

end Sys2Proof.Machine

/-! HEAD.SETUP and CHANNEL.CLEAR (R145, R146, R165, R170). -/

namespace Sys2Proof.Machine

/-! ## Channel masks (R12, R167) -/

theorem maskOf_cons (b : Bool) (bs : List Bool) :
    maskOf (b :: bs) = (maskOf bs <<< 1) ||| (if b then 1#32 else 0#32) := by
  simp [maskOf]

/-- R12: bit k of a channel mask is the k-th truth value. -/
theorem maskOf_getLsbD (bits : List Bool) : ∀ k, (maskOf bits).getLsbD k = (decide (k < 32) && bits.getD k false) := by
  induction bits with
  | nil => intro k; simp [maskOf]
  | cons b bs ih =>
    intro k
    rw [maskOf_cons, BitVec.getLsbD_or, BitVec.getLsbD_shiftLeft]
    cases k with
    | zero => cases b <;> rfl
    | succ k =>
      have hlow : (if b then 1#32 else 0#32).getLsbD (k + 1) = false := by cases b <;> simp
      rw [hlow, ih]
      by_cases hk : k + 1 < 32
      · simp [hk, Nat.lt_of_succ_lt hk]
      · simp [hk]

/-- Bit k of a mask of at most 32 channels is the truth value listed for channel k. -/
theorem maskOf_bit {bits : List Bool} (hl : bits.length ≤ 32) {k : Nat} {b : Bool} (hk : bits[k]? = some b) :
    (maskOf bits).getLsbD k = b := by
  obtain ⟨hlt, -⟩ := List.getElem?_eq_some_iff.1 hk
  rw [maskOf_getLsbD, decide_eq_true (by omega), Bool.true_and, List.getD_eq_getElem?_getD, hk]
  rfl

/-! ## HEAD.SETUP (R145, R146) -/

theorem clampDwell_eq (n : Nat) : clampDwell n = max 1 (min 15 n) := by
  unfold clampDwell
  (repeat' split) <;> omega

theorem clampWatermark_eq (n : Nat) : clampWatermark n = max 64 (min 1984 n) / 64 * 64 := by
  unfold clampWatermark
  dsimp only
  (repeat' split) <;> omega

theorem headBusy_iff (s : State) : headBusy s = true ↔ s.psch.armed ≠ none ∨ s.hmon.test ≠ none := by
  simp [headBusy, Option.isSome_iff_ne_none]

theorem HeadSettings.sound_iff (x : HeadSettings) : x.sound = true ↔
    1024 ≤ x.nrev ∧ 1 ≤ x.lead ∧ x.lead ≤ 255 ∧ x.swath ≤ 1 ∧ x.half ≤ 1 ∧
      ∀ w ∈ x.windows, w.1 ≤ 1023 ∧ w.2 ≤ 1023 ∧ w.1 ≤ w.2 := by
  simp [HeadSettings.sound, and_assoc]

theorem parseHeadSetup_eq_none {p : List Byte} (h : p.length ≠ 140) : parseHeadSetup p = none := if_neg h

/-! ## CHANNEL.CLEAR (R170) -/

theorem parseMask_eq_none {p : List Byte} (h : p.length ≠ 4) : parseMask p = none := if_neg h

theorem parseMask_u32 (m : Word) : parseMask (u32 m.toNat) = some m := by
  have hword : wordAt (u32 m.toNat) 0 = m.toNat := by
    rw [← List.append_nil (u32 m.toNat)]
    exact wordAt_u32_append m.isLt []
  rw [parseMask, if_pos (u32_length _), hword, BitVec.ofNat_toNat, BitVec.setWidth_eq]

theorem channelState_ne_ok_iff (x : ChannelState) : x ≠ .ok ↔ x = .suspect ∨ x = .faulted := by
  cases x <;> simp

theorem clearChannel_eq (m : Word) (k : Nat) (c : Channel) : clearChannel m k c =
    if m.getLsbD k = true ∧ (c.state = .suspect ∨ c.state = .faulted) then { c with state := .ok, suspect := 0 }
    else c := by
  simp only [clearChannel, channelState_ne_ok_iff]

/-- A channel is FAULTED behind a CHANNEL.CLEAR that does not name it. -/
theorem clearChannel_faulted (m : Word) (k : Nat) (c : Channel) :
    (clearChannel m k c).state = .faulted ↔ c.state = .faulted ∧ m.getLsbD k = false := by
  unfold clearChannel
  split
  · rename_i h
    simp [h.1]
  · rename_i h
    rw [not_and, not_not] at h
    cases hm : m.getLsbD k <;> simp [hm] at h ⊢
    simp [h]

section
variable {s : State} (hl : s.hmon.channels.length = 32) {k : Nat} {c : Channel} (hk : s.hmon.channels[k]? = some c)
  (m : Word)
include hl hk

theorem clearedMask_getLsbD : (clearedMask m s).getLsbD k = true ↔
    m.getLsbD k = true ∧ (c.state = .suspect ∨ c.state = .faulted) := by
  have hbit : (clearedMask m s).getLsbD k = (m.getLsbD k && c.state != .ok) :=
    maskOf_bit (by simp [hl]) (by simp [hk])
  rw [hbit, Bool.and_eq_true, bne_iff_ne, channelState_ne_ok_iff]

theorem faultMask_clearChannels_getLsbD : (faultMask (clearChannels m s)).getLsbD k = true ↔
    c.state = .faulted ∧ m.getLsbD k = false := by
  have hbit : (faultMask (clearChannels m s)).getLsbD k = ((clearChannel m k c).state == .faulted) :=
    maskOf_bit (by simp [clearChannels, hl]) (by simp [clearChannels, hk])
  rw [hbit, beq_iff_eq, clearChannel_faulted]

end

/-- Settles O38: each answer of the two commands by its check, the clamps and the masks bit by bit. -/
theorem headSetupAndChannelClear : Obligations.HeadSetupAndChannelClear := by
  refine ⟨fun s f rest htakes hkind => ?_, fun s f rest htakes hkind hready => ?_⟩
  · have hexec : exec .headSetup s = .next (runHeadSetup f (taken s rest)) := serve_kind htakes hkind _
    rw [hexec]
    refine ⟨fun hlength => ?_, fun x hx => ?_⟩
    · rw [runHeadSetup, parseHeadSetup_eq_none hlength]
      rfl
    · intro busy sound dwell mark
      have hbusy : headBusy (taken s rest) = true ↔ busy := headBusy_iff _
      rw [runHeadSetup, hx]
      dsimp only
      refine ⟨fun h => ?_, fun hfree hunsound => ?_, fun hfree hsound => ?_⟩
      · rw [if_pos (hbusy.2 h)]
        rfl
      · rw [if_neg (mt hbusy.1 hfree), if_neg (mt x.sound_iff.1 hunsound)]
        rfl
      · rw [if_neg (mt hbusy.1 hfree), if_pos (x.sound_iff.2 hsound), storeHead, clampDwell_eq, clampWatermark_eq]
        rfl
  · have hexec : exec .channelClear s = .next (runChannelClear f (taken s rest)) :=
      serve_ready htakes hkind hready _
    rw [hexec]
    refine ⟨fun hlength => ?_, fun m hm hl => ?_⟩
    · rw [runChannelClear, parseMask_eq_none hlength]
      rfl
    · intro cleared
      refine ⟨clearedMask m s, faultMask (clearChannels m s), fun k c hk =>
        ⟨clearedMask_getLsbD hl hk m, faultMask_clearChannels_getLsbD hl hk m⟩, ?_⟩
      have hchannels : (fun k c => if m.getLsbD k = true ∧ (c.state = .suspect ∨ c.state = .faulted) then
          { c with state := .ok, suspect := 0 } else c) = clearChannel m :=
        funext fun k => funext fun c => (clearChannel_eq m k c).symm
      rw [hchannels, runChannelClear, hm, parseMask_u32]
      rfl

end Sys2Proof.Machine

/-! The head return record (R162, R163, R171, R177). -/

namespace Sys2Proof.Machine

/-! ## The check for the loss of the head (R163) -/

theorem carriageWrong_iff (count steps : Nat) :
    carriageWrong count steps = true ↔ count ≠ steps ∧ ¬(1 ≤ steps ∧ count = steps - 1) := by
  simp [carriageWrong]
  omega

theorem showsLoss_iff (r : HeadRecord) (steps : Nat) : showsLoss r steps = true ↔
    r.drumReady = false ∨ r.plateLoaded = false ∨
      (r.carriage.toNat ≠ steps ∧ ¬(1 ≤ steps ∧ r.carriage.toNat = steps - 1)) := by
  simp only [showsLoss, Bool.or_eq_true, Bool.not_eq_true', carriageWrong_iff, or_assoc]

/-- R163: the record ends the job in IMAGING without END decided. -/
def headLost (r : HeadRecord) (s : State) : Prop :=
  (∃ j, imagingJob s = some j) ∧ s.imp.endDecided = false ∧
    (r.drumReady = false ∨ r.plateLoaded = false ∨
      (r.carriage.toNat ≠ s.imp.steps ∧ ¬(1 ≤ s.imp.steps ∧ r.carriage.toNat = s.imp.steps - 1)))

theorem checkHead_of_lost {r : HeadRecord} {s : State} (h : headLost r s) :
    checkHead r s = scheduleTest (endArmedJob .headLost none s) := by
  obtain ⟨⟨j, hj⟩, hundecided, hloss⟩ := h
  rw [checkHead, if_pos ⟨by rw [hj]; rfl, hundecided, (showsLoss_iff ..).2 hloss⟩, endImaging_eq hj]

theorem checkHead_of_not_lost {r : HeadRecord} {s : State} (h : ¬headLost r s) : checkHead r s = s := by
  refine if_neg fun ⟨hj, hundecided, hloss⟩ => h ⟨Option.isSome_iff_exists.1 hj, hundecided, (showsLoss_iff ..).1 hloss⟩

/-! ## The head's state (R171) -/

theorem takeHeadState_unchanged {r : HeadRecord} {t : State} (hplate : r.plateLoaded = t.hmon.plateLoaded)
    (hdrum : r.drumReady = t.hmon.drumReady) : takeHeadState r t = t := if_pos ⟨hplate, hdrum⟩

/-- R171: a change is stored and told, and a rise of plate loaded lowers the lines and makes the plate fresh. -/
theorem takeHeadState_changed {r : HeadRecord} {t : State}
    (hchange : r.plateLoaded ≠ t.hmon.plateLoaded ∨ r.drumReady ≠ t.hmon.drumReady) :
    takeHeadState r t = scheduleTest { t with
      hmon := { t.hmon with plateLoaded := r.plateLoaded, drumReady := r.drumReady }
      lp := t.lp.queueReport (.head (.headState r.plateLoaded r.drumReady t.hmon.plateLoaded t.hmon.drumReady
        r.carriage.toNat) (faultMask t))
      drec := if r.plateLoaded = true ∧ t.hmon.plateLoaded = false then { t.drec with mark := false, reject := false }
        else t.drec
      psch := if r.plateLoaded = true ∧ t.hmon.plateLoaded = false then { t.psch with fresh := true } else t.psch } := by
  have hrise : (r.plateLoaded && !t.hmon.plateLoaded) = true ↔ r.plateLoaded = true ∧ t.hmon.plateLoaded = false := by
    simp
  unfold takeHeadState
  rw [if_neg (not_and_or.2 hchange)]
  dsimp only
  by_cases h : r.plateLoaded = true ∧ t.hmon.plateLoaded = false
  · simp only [if_pos h, if_pos (hrise.2 h)]
    rfl
  · simp only [if_neg h, if_neg (mt hrise.1 h)]
    rfl

/-! ## A pending test completes (R177) -/

section
variable {u : State} (hl : u.hmon.channels.length = 32) {k : Nat} {c : Channel} (hk : u.hmon.channels[k]? = some c)
include hl hk

theorem enabledMask_getLsbD (p : Nat → Channel → Bool) :
    (enabledMask u p).getLsbD k = true ↔ c.enabled = true ∧ p k c = true := by
  have hbit : (enabledMask u p).getLsbD k = (c.enabled && p k c) := maskOf_bit (by simp [hl]) (by simp [hk])
  rw [hbit, Bool.and_eq_true]

end

theorem finishTest_pending {u : State} {tag : Byte} {n : Nat} (h : u.hmon.test = some (tag, n)) (code : Byte)
    (fields : List Byte) : finishTest code fields u = scheduleTest { u with
      lp := { u.lp with
        replyReserved := u.lp.replyReserved.erase tag
        replyFinished := u.lp.replyFinished ++ [⟨0xC2, tag, code :: fields⟩] }
      hmon := { u.hmon with test := none } } := by
  unfold finishTest
  rw [h]
  rfl

/-- Settles O40: the check for the head's loss, the head's state, and then the test's completion or the judging. -/
theorem headReturnRecordIsTaken : Obligations.HeadReturnRecordIsTaken := by
  refine ⟨fun s r htaken => if_pos (.inr htaken), fun s r hrun hfirst => ?_⟩
  intro noted lost
  have hexec : exec (.headReturnRecord r) s = .next (takeRecord r s) := if_neg (by simp [hrun, hfirst])
  rw [hexec]
  refine ⟨checkHead r noted, takeHeadState r (checkHead r noted), fun h => checkHead_of_lost (s := noted) h,
    fun h => checkHead_of_not_lost (s := noted) h, takeHeadState_unchanged, takeHeadState_changed, fun hnone => ?_,
    fun tag n htest hl => ?_⟩
  · refine congrArg Host.Outcome.next (if_neg ?_)
    rw [hnone]
    nofun
  · set u := takeHeadState r (checkHead r noted)
    refine ⟨enabledMask u fun _ _ => true, enabledMask u fun k c => c.high != 1023 && u.hmon.highFailed.getLsbD k,
      enabledMask u fun k c => c.low != 0 && u.hmon.lowFailed.getLsbD k, enabledMask u fun _ c => c.high == 1023,
      enabledMask u fun _ c => c.low == 0, fun k c hk => ?_, ?_⟩
    · simp [enabledMask_getLsbD hl hk]
    · have hdone : takeRecord r s = finishTest rOk (testFields u) u := if_pos (by rw [htest]; rfl)
      rw [hdone, finishTest_pending htest]
      rfl

end Sys2Proof.Machine

/-! The slot clock (R148, R155, R157): the slot's word, and the bytes of the head link. -/

namespace Sys2Proof.Machine

/-! ## The head link (R148) -/

/-- R148: the word of a slot leaves least significant byte first. -/
theorem headLink_raster {s : State} {w : Word} (hw : s.imp.headWord = .raster w) {i k : Nat} (hi : i < 4) (hk : k < 8) :
    ∃ b, (headLink s)[i]? = some b ∧ b.getLsbD k = w.getLsbD (8 * i + k) := by
  refine ⟨w.extractLsb' (8 * i) 8, ?_, ?_⟩
  · rw [headLink, hw]
    exact wordBytes_getElem? w hi
  · rw [BitVec.getLsbD_extractLsb', decide_eq_true hk, Bool.true_and]

/-! ## The slot's place in the sweep (R148) -/

/-- The revolution under way exposes for a job in IMAGING, of the width given. -/
theorem exposingWidth_eq_some_iff (s : State) (wp : Nat) : exposingWidth s = some wp ↔
    s.imp.rev.decision = .expose ∧ s.imp.rev.live = true ∧ ∃ j, imagingJob s = some j ∧ j.wp = wp := by
  unfold exposingWidth
  split
  · rename_i h
    simp [h.1, h.2]
  · rename_i h
    simp only [reduceCtorEq, false_iff]
    exact fun ⟨hdecision, hlive, _⟩ => h ⟨hdecision, hlive⟩

/-- R148, R155: slot L + x of an EXPOSE revolution, not cut and below Nrev. -/
theorem rasterSlot_eq_some_iff (s : State) (slot x : Nat) : rasterSlot s slot = some x ↔
    s.imp.rev.decision = .expose ∧ s.imp.rev.live = true ∧ s.imp.rev.dark = false ∧
      (∃ j, imagingJob s = some j ∧ x < j.wp) ∧ slot = s.imp.lead + x ∧ s.imp.lead + x < s.imp.nrev := by
  have hwidth := exposingWidth_eq_some_iff s
  unfold rasterSlot
  cases hw : exposingWidth s with
  | none =>
    simp only [reduceCtorEq, false_iff]
    rintro ⟨hdecision, hlive, -, ⟨j, hj, -⟩, -⟩
    have hsome := (hwidth j.wp).2 ⟨hdecision, hlive, j, hj, rfl⟩
    rw [hw] at hsome
    cases hsome
  | some wp =>
    obtain ⟨hdecision, hlive, j, hj, rfl⟩ := (hwidth wp).1 hw
    simp only [hdecision, hlive, hj, true_and, Option.some.injEq, exists_eq_left', Option.ite_none_right_eq_some]
    constructor
    · rintro ⟨⟨hdark, hlow, hhigh, hbound⟩, rfl⟩
      exact ⟨hdark, by omega, by omega, by omega⟩
    · rintro ⟨hdark, hx, rfl, hbound⟩
      exact ⟨⟨hdark, by omega, by omega, hbound⟩, by omega⟩

/-! ## The word of a raster slot (R157) -/

theorem sendRaster_head {s : State} {x : Nat} {w : Word} {fifo : List (Nat × Word)} (h : s.imp.fifo = (x, w) :: fifo) :
    sendRaster x s = impPump { s with imp := { s.imp with
      fifo := fifo
      nextSend := x + 1
      headWord := .raster (rasterWord s.imp.swath s.imp.half s.imp.rev.pass w) } } := by
  unfold sendRaster
  rw [h]
  exact if_pos rfl

theorem sendRaster_underrun {s : State} {x : Nat} (h : ∀ w fifo, s.imp.fifo ≠ (x, w) :: fifo) :
    sendRaster x s = impPump { s with imp := { s.imp with
      underrun := noteUnderrun x s.imp.underrun
      nextSend := x + 1
      headWord := .raster 0 } } := by
  unfold sendRaster
  split
  · rename_i y w fifo hfifo
    refine if_neg fun hyx => h w fifo ?_
    rw [hfifo, hyx]
  · rfl

/-! ## The slot (R148) -/

theorem countSlot_eq {n : Nat} (h : n ≤ 131071) : countSlot n = if n < 131071 then n + 1 else 131071 := by
  unfold countSlot
  split
  · rfl
  · omega

/-- The state with the next slot begun. -/
def slotBegun (s : State) : State :=
  { s with imp := { s.imp with rev := { s.imp.rev with slot := countSlot s.imp.rev.slot } } }

theorem impSlot_eq (s : State) : impSlot s =
    match rasterSlot (slotBegun s) (s.imp.rev.slot + 1) with
    | some x => sendRaster x (slotBegun s)
    | none => { slotBegun s with imp := { (slotBegun s).imp with headWord := .raster 0 } } := rfl

/-- Settles O42: the bytes of the link, and the slot's word by its place in the sweep and the head of the FIFO. -/
theorem slotSendsOneWord : Obligations.SlotSendsOneWord := by
  refine ⟨fun s => ⟨rfl, fun w hw i k hi hk => headLink_raster hw hi hk⟩, fun s hrun => ?_⟩
  intro slot rev raster hslot
  have hexec : exec .slotClk s = .next (hmonSlot (impSlot s)) := if_neg (by simp [hrun])
  have hplace (x : Nat) : rasterSlot (slotBegun s) (s.imp.rev.slot + 1) = some x ↔ raster x :=
    rasterSlot_eq_some_iff (slotBegun s) (s.imp.rev.slot + 1) x
  have hcount : countSlot s.imp.rev.slot = slot := countSlot_eq hslot
  have hbegun : slotBegun s = { s with imp := { s.imp with rev := rev } } := by rw [slotBegun, hcount]
  rw [hexec, impSlot_eq]
  refine ⟨fun hdark => ?_, fun x w fifo hraster hfifo => ?_, fun x hraster hfifo => ?_⟩
  · rw [Option.eq_none_iff_forall_ne_some.2 fun x => mt (hplace x).1 (hdark x), hbegun]
  · rw [(hplace x).2 hraster, hbegun]
    exact congrArg (fun t => Host.Outcome.next (hmonSlot t)) (sendRaster_head hfifo)
  · rw [(hplace x).2 hraster, hbegun]
    have hsent := sendRaster_underrun (s := { s with imp := { s.imp with rev := rev } }) hfifo
    refine (congrArg (fun t => Host.Outcome.next (hmonSlot t)) hsent).trans ?_
    cases hunder : s.imp.underrun <;> rfl

end Sys2Proof.Machine

/-! The index closes the revolution that ends (R150, R151, R158, R172). -/

namespace Sys2Proof.Machine

section
variable {s : State}

/-! ## The closing of an EXPOSE revolution (R151, R158, R172) -/

/-- A defect over the lines of the revolution that ends. -/
def revolutionDefect (s : State) (kind : DefectKind) (xs : Option (Nat × Nat)) : Defect :=
  Defect.handed kind s.imp.rev.firstLine s.imp.rev.lastLine xs none none none none

theorem handUnderrun_eq {d : Drec} (hd : (handUnderrun s).drec = d) : handUnderrun s = { s with drec := d } := by
  subst hd
  unfold handUnderrun
  split <;> rfl

/-- R158: an underrun of the sweep is one defect. -/
theorem handUnderrun_drec (s : State) : (handUnderrun s).drec =
    match s.imp.underrun with
    | some x => s.drec.take (revolutionDefect s .underrun (some x))
    | none => s.drec := by
  unfold handUnderrun
  cases s.imp.underrun <;> rfl

/-- The state with the sweep of the revolution that ends counted, DREC as given, and its ring slot freed behind its last
pass. -/
def sweepCounted (s : State) (d : Drec) (frees : Bool) : State :=
  { s with
    drec := d
    imp := { s.imp with
      exposed := s.imp.exposed + 1
      steps := s.imp.steps + 1
      ring := if frees then s.imp.ring.set s.imp.rev.ringSlot .free else s.imp.ring } }

/-- R151, steps 2 and 3. -/
theorem releaseSweep_eq (s : State) {frees : Bool}
    (hfrees : frees = true ↔ s.imp.swath = .full ∨ s.imp.rev.pass = 1) : releaseSweep s =
      if frees then ruLook (sweepCounted s s.drec frees) else sweepCounted s s.drec frees := by
  unfold releaseSweep
  dsimp only
  cases frees with
  | true => exact if_pos (hfrees.1 rfl)
  | false => exact if_neg (mt hfrees.2 nofun)

/-- R158, R172: DREC behind the defects of the revolution that ends. -/
def drecAtClose (s : State) : Drec :=
  if s.hmon.slotCount < s.hmon.nrev - s.hmon.tolerance then
    (handUnderrun s).drec.take (revolutionDefect s .drumSpeed none)
  else (handUnderrun s).drec

/-- R151: the defects, the sweep, and the FIFO with its fetch. -/
theorem closeExpose_eq (s : State) {frees : Bool}
    (hfrees : frees = true ↔ s.imp.swath = .full ∨ s.imp.rev.pass = 1) : closeExpose s =
      emptyFifo (if frees then ruLook (sweepCounted s (drecAtClose s) frees)
        else sweepCounted s (drecAtClose s) frees) := by
  have hdefects : (if shortRevolution (handUnderrun s) then handDrumSpeed (handUnderrun s) else handUnderrun s) =
      { s with drec := drecAtClose s } := by
    unfold drecAtClose
    rw [handUnderrun_eq rfl]
    by_cases hshort : s.hmon.slotCount < s.hmon.nrev - s.hmon.tolerance
    · rw [if_pos hshort]
      exact if_pos (decide_eq_true hshort)
    · rw [if_neg hshort]
      exact if_neg (by simpa [shortRevolution] using hshort)
  unfold closeExpose
  dsimp only
  rw [hdefects, releaseSweep_eq (s := { s with drec := drecAtClose s }) hfrees]
  rfl

/-! ## The index event (R150, R172, R178) -/

/-- R178: no test is abandoned before its fourth index. -/
theorem indexEvent_early (h : ∀ tag n, s.hmon.test = some (tag, n) → n < 3) :
    indexEvent s = decideRevolution (hmonIndex (closeRevolution s)) := by
  have htest : (decideRevolution (hmonIndex (closeRevolution s))).hmon.test =
      s.hmon.test.map fun p => (p.1, p.2 + 1) := by
    simp [hmonIndex]
  unfold indexEvent abandonIfFourth
  rw [htest]
  cases hs : s.hmon.test with
  | none => rfl
  | some p => exact if_neg (Nat.not_le.2 (Nat.succ_lt_succ (h p.1 p.2 hs)))

end

/-- Settles O44: an EXPOSE revolution of a job still IMAGING is closed by `closeExpose_eq`, any other without it. -/
theorem indexClosesTheRevolution : Obligations.IndexClosesTheRevolution := by
  intro s hrun htest defect counted
  have hexec : exec .drumIndex s = .next (indexEvent s) := if_neg (by simp [hrun])
  rw [hexec, indexEvent_early htest]
  refine ⟨fun hother => ?_, fun hexpose hlive => ?_⟩
  · rw [closeRevolution, if_neg hother]
    rfl
  · intro d frees m n
    have hd : (handUnderrun s).drec = d := handUnderrun_drec s
    have hclosed := closeExpose_eq s (frees := decide frees) decide_eq_true_iff
    have hm : sweepCounted s (drecAtClose s) (decide frees) = m := by
      unfold sweepCounted drecAtClose
      rw [hd]
      simp only [decide_eq_true_eq]
      rfl
    have hn : (if decide frees = true then ruLook m else m) = n := by simp only [decide_eq_true_eq]; rfl
    rw [hm, hn] at hclosed
    have hkept : n.imp.nrev = s.imp.nrev ∧ n.hmon = s.hmon := by
      simp only [n]
      split <;> simp [m]
    rw [closeRevolution, if_pos ⟨hexpose, hlive⟩, hclosed, hmonIndex]
    dsimp only [emptyFifo, dropRequests]
    rw [hkept.1, hkept.2]

end Sys2Proof.Machine

/-! The decision at an index (R149, R150, R152 to R154). -/

namespace Sys2Proof.Machine

/-! ## The sweep next to be exposed (R150) -/

theorem sweepCount_eq (swath : Swath) (bp : Nat) : sweepCount swath bp = if swath = .full then 2 * bp else 4 * bp := by
  cases swath <;> rfl

theorem ringSlotOf_eq (swath : Swath) (e : Nat) : ringSlotOf swath e = if swath = .full then e % 8 else e / 2 % 8 := by
  cases swath <;> rfl

theorem passOf_eq (swath : Swath) (e : Nat) : passOf swath e = if swath = .full then 0 else e % 2 := by
  cases swath <;> rfl

theorem firstLineOf_eq (swath : Swath) (e : Nat) :
    firstLineOf swath e = if swath = .full then 32 * e else 32 * (e / 2) + 16 * (e % 2) := by
  cases swath <;> rfl

theorem sweepLines_eq (swath : Swath) : sweepLines swath = if swath = .full then 32 else 16 := by
  cases swath <;> rfl

theorem drivenOf_eq (swath : Swath) (half : Nat) :
    drivenOf swath half = if swath = .full then 0xFFFFFFFF#32 else 0xFFFF#32 <<< (16 * half) := by
  cases swath <;> rfl

theorem lowChannelOf_eq (swath : Swath) (half : Nat) : lowChannelOf swath half = if swath = .full then 0 else 16 * half := by
  cases swath <;> rfl

theorem half_iff (swath : Swath) : swath = .half ↔ swath ≠ .full := by
  cases swath <;> simp

/-! ## The decisions (R152 to R154) -/

/-- R154: with no job IMAGING, the closing END that is owed. -/
theorem decideRevolution_owed {s : State} (hj : imagingJob s = none) {e : Nat} (h : s.imp.closing = some e) :
    decideRevolution s = { beginRevolution .endPlate e false s with
      imp := { (beginRevolution .endPlate e false s).imp with closing := none } } := by
  unfold decideRevolution decideIdle
  rw [hj, h]

theorem decideRevolution_idle {s : State} (hj : imagingJob s = none) (h : s.imp.closing = none) :
    decideRevolution s = beginRevolution .idle 0 false s := by
  unfold decideRevolution decideIdle
  rw [hj, h]

theorem decideRevolution_imaging {s : State} {j : Job} (hj : imagingJob s = some j) :
    decideRevolution s = decideImaging j s := by
  unfold decideRevolution
  rw [hj]

/-- R152: the first END decided ends the job, and a schedule test follows. -/
theorem decideEnd_eq {s : State} {j : Job} (hj : imagingJob s = some j) (r : JobResult) :
    decideEnd r s = scheduleTest (endArmedJob r none { beginRevolution .endPlate s.imp.exposed true s with
      imp := { (beginRevolution .endPlate s.imp.exposed true s).imp with endDecided := true } }) :=
  endImaging_eq (s := { beginRevolution .endPlate s.imp.exposed true s with
    imp := { (beginRevolution .endPlate s.imp.exposed true s).imp with endDecided := true } }) hj r

/-- R149, R150: an EXPOSE revolution, in FULL and in HALF. -/
theorem beginExpose_eq (s : State) :
    let full := s.imp.swath = .full
    let e := s.imp.exposed
    let first := if full then 32 * e else 32 * (e / 2) + 16 * (e % 2)
    let lines := if full then 32 else 16
    beginExpose s = impPump { s with imp := { s.imp with
      prev := s.imp.rev
      rev := ⟨.expose, e, if full then e % 8 else e / 2 % 8, if full then 0 else e % 2, first, first + lines - 1,
        if full then 0xFFFFFFFF#32 else 0xFFFF#32 <<< (16 * s.imp.half), if full then 0 else 16 * s.imp.half,
        true, false, 0⟩
      headWord := .frame .expose e lines
      firstExpose := true
      dwellCount := 0
      nextSend := 0
      nextFetch := 0
      refill := true } } := by
  intro full e first lines
  unfold beginExpose
  dsimp only
  rw [ringSlotOf_eq, passOf_eq, firstLineOf_eq, sweepLines_eq, drivenOf_eq, lowChannelOf_eq]

section
variable {s : State} {j : Job} (hundecided : s.imp.endDecided = false) (hgoes : s.imp.cancelPending = false)
include hundecided hgoes

/-- R152: every sweep is exposed. -/
theorem decideImaging_complete (h : s.imp.exposed = sweepCount s.imp.swath j.bp) :
    decideImaging j s = decideEnd (if j.cancelRequested then .cancelled else .completed) s := by
  simp [decideImaging, hundecided, hgoes, ← h]

section
variable (hmore : s.imp.exposed ≠ sweepCount s.imp.swath j.bp)
include hmore

theorem decideImaging_second (hhalf : s.imp.swath = .half) (hodd : s.imp.exposed % 2 = 1) :
    decideImaging j s = beginExpose s := by
  unfold decideImaging
  dsimp only
  rw [hundecided, hgoes, if_neg nofun, if_neg nofun, if_neg hmore, if_pos ⟨hhalf, hodd⟩]

theorem decideImaging_first (hfirst : ¬(s.imp.swath = .half ∧ s.imp.exposed % 2 = 1)) :
    decideImaging j s =
      if ringState s (ringSlotOf s.imp.swath s.imp.exposed) = .ready then
        beginExpose (setRing (ringSlotOf s.imp.swath s.imp.exposed) .exposing s)
      else decideDwell s := by
  unfold decideImaging
  dsimp only
  rw [hundecided, hgoes, if_neg nofun, if_neg nofun, if_neg hmore, if_neg hfirst]

end

end

/-- Settles O45: each case of the decision, by the first that holds. -/
theorem indexDecidesTheRevolution : Obligations.IndexDecidesTheRevolution := by
  intro s begins
  refine ⟨fun hj => ⟨fun e he => decideRevolution_owed hj he, fun hnone => decideRevolution_idle hj hnone⟩,
    fun j hj => ?_⟩
  intro e full sweeps k first lines ends exposes
  rw [decideRevolution_imaging hj]
  have hends (r : JobResult) : decideEnd r s = ends r s.imp := decideEnd_eq hj r
  have hk : ringSlotOf s.imp.swath s.imp.exposed = k := ringSlotOf_eq ..
  have hsweeps : sweepCount s.imp.swath j.bp = sweeps := sweepCount_eq ..
  refine ⟨fun hended => if_pos hended, fun hundecided => ⟨fun hcancel => ?_, fun hgoes => ⟨fun hall => ?_, fun hmore => ?_⟩⟩⟩
  · unfold decideImaging
    dsimp only
    rw [hundecided, if_neg nofun, if_pos hcancel, hends]
  · rw [decideImaging_complete hundecided hgoes (hall.trans hsweeps.symm), hends]
  · rw [← hsweeps] at hmore
    refine ⟨fun hhalf hodd => ?_, fun hfirst => ?_⟩
    · rw [decideImaging_second hundecided hgoes hmore ((half_iff _).2 hhalf) hodd]
      exact beginExpose_eq s
    · have hpass : ¬(s.imp.swath = .half ∧ s.imp.exposed % 2 = 1) := by
        rw [half_iff]
        rintro ⟨hhalf, hodd⟩
        exact hfirst.elim hhalf (fun heven : s.imp.exposed % 2 = 0 => by omega)
      rw [decideImaging_first hundecided hgoes hmore hpass, hk]
      refine ⟨fun hready => ?_, fun hnot => ?_⟩
      · rw [if_pos hready]
        exact beginExpose_eq (setRing k .exposing s)
      · rw [if_neg hnot]
        refine ⟨fun hbefore => if_neg (by simp [hbefore]), fun hafter => ?_⟩
        intro m
        refine ⟨fun hwithin => ?_, fun hpast => ?_⟩
        · exact (if_pos hafter).trans (if_pos hwithin)
        · refine ((if_pos hafter).trans (if_neg (Nat.not_le.2 hpast))).trans ?_
          exact decideEnd_eq (s := { s with imp := m }) hj .stalled

end Sys2Proof.Machine

/-! Fetch bursts, refill runs and raster words (R155 to R157). -/

namespace Sys2Proof.Machine

/-! ## The arrival of a burst (R156, R157) -/

/-- R157: the words of an arrival that join the FIFO. -/
theorem arrivingWords_eq (next a : Nat) (bs : List Byte) : arrivingWords next a bs =
    (((wordsOf bs).zipIdx (a % 131072 / 4)).filter (fun p => next ≤ p.2)).map Prod.swap := by
  unfold arrivingWords wordIndexAt
  rw [← List.filterMap_eq_map, ← List.filterMap_eq_filter, List.filterMap_filterMap]
  refine congrArg (List.filterMap · _) (funext fun p => ?_)
  by_cases h : next ≤ p.2
  · simp [h, Option.guard, Prod.swap]
  · simp [h, Option.guard]

theorem fetchDone_eq (stale : Bool) (a : Nat) (bs : List Byte) (s : State) : fetchDone stale a bs s =
    impPump { s with imp := { s.imp with
      fifo := if stale then s.imp.fifo else s.imp.fifo ++ arrivingWords s.imp.nextSend a bs } } := by
  cases stale <;> rfl

theorem fetchArrival_eq {s : State} {a n : Nat} {stale : Bool} (o : EndOrder)
    (h : s.psc.inFlight = .busy ⟨.impFetch, .read a n, stale⟩) : exec (.fetchArrival o) s =
      .next (atEnd o s fun psc => fetchDone stale a (readBytes s a n) { s with psc := psc }) := by
  show execFetchArrival o s = _
  simp only [execFetchArrival, h, finishRead, completion_eq_atEnd]

/-! ## The refill run (R156) -/

theorem impPump_of_not_exposing {s : State}
    (h : ¬(s.imp.rev.decision = .expose ∧ s.imp.rev.live = true ∧ ∃ j, imagingJob s = some j)) : impPump s = s := by
  have hwidth : exposingWidth s = none := by
    refine Option.eq_none_iff_forall_ne_some.2 fun wp hwp => h ?_
    obtain ⟨hdecision, hlive, j, hj, -⟩ := (exposingWidth_eq_some_iff s wp).1 hwp
    exact ⟨hdecision, hlive, j, hj⟩
  unfold impPump
  rw [hwidth]

section
variable {s : State} {j : Job} (hj : imagingJob s = some j) (hdecision : s.imp.rev.decision = .expose)
  (hlive : s.imp.rev.live = true)
include hj hdecision hlive

/-- The refill run of an EXPOSE revolution of a job in IMAGING. -/
theorem impPump_eq : impPump s =
    if j.wp ≤ s.imp.nextFetch then { s with imp := { s.imp with refill := false } }
    else if ¬(s.imp.refill = true ∨ s.imp.fifo.length ≤ s.imp.watermark) then s
    else if s.psc.engaged .impFetch then { s with imp := { s.imp with refill := true } }
    else if 2048 < s.imp.fifo.length + min 16 (j.wp - s.imp.nextFetch) then
      { s with imp := { s.imp with refill := false } }
    else { s with
      imp := { s.imp with
        nextFetch := s.imp.nextFetch + min 16 (j.wp - s.imp.nextFetch)
        refill := decide (s.imp.nextFetch + min 16 (j.wp - s.imp.nextFetch) < j.wp) }
      psc := s.psc.request ⟨.impFetch, .read (1048576 + s.imp.rev.ringSlot * 131072 + 4 * s.imp.nextFetch)
        (4 * min 16 (j.wp - s.imp.nextFetch)), false⟩ } := by
  have hwidth := (exposingWidth_eq_some_iff s j.wp).2 ⟨hdecision, hlive, j, hj, rfl⟩
  have hactive : (!(s.imp.refill || decide (s.imp.fifo.length ≤ s.imp.watermark))) = true ↔
      ¬(s.imp.refill = true ∨ s.imp.fifo.length ≤ s.imp.watermark) := by simp
  unfold impPump
  simp only [hwidth, hactive]
  rfl

end

/-! ## Raster words (R155) -/

theorem sixteenBits_getLsbD (i : Nat) : (0xFFFF#32).getLsbD i = decide (i < 16) := by
  have hmask : (0xFFFF#32).getLsbD i = (decide (i < 32) && Nat.testBit (2 ^ 16 - 1) i) :=
    BitVec.getLsbD_ofNat 32 (2 ^ 16 - 1) i
  rw [hmask, Nat.testBit_two_pow_sub_one]
  by_cases hi : i < 16
  · simp [hi, show i < 32 by omega]
  · simp [hi]

/-- R155: in HALF the 16 bits of the pass go to the channels of the half. -/
theorem rasterWord_half_getLsbD (h p : Nat) (w : Word) {k : Nat} (hk : k < 32) :
    (rasterWord .half h p w).getLsbD k =
      (decide (16 * h ≤ k ∧ k < 16 * h + 16) && w.getLsbD (16 * p + k - 16 * h)) := by
  simp only [rasterWord, BitVec.getLsbD_shiftLeft, BitVec.getLsbD_and, BitVec.getLsbD_ushiftRight,
    sixteenBits_getLsbD, decide_eq_true hk, Bool.true_and]
  by_cases hlow : 16 * h ≤ k
  · have hindex : 16 * p + (k - 16 * h) = 16 * p + k - 16 * h := by omega
    have hbound : (k - 16 * h < 16) ↔ k < 16 * h + 16 := by omega
    simp only [hindex, hbound, hlow, true_and, Nat.not_lt.2 hlow, decide_false, Bool.not_false, Bool.true_and,
      Bool.and_comm]
  · simp [hlow, Nat.not_le.1 hlow]

/-- Settles O46: the arrival in both orders of R77, the refill run case by case, and the raster word bit by bit. -/
theorem fetchesFillTheFifo : Obligations.FetchesFillTheFifo := by
  refine ⟨fun s o a n stale hflight => ?_, fun s => ⟨impPump_of_not_exposing, fun j hj hdecision hlive => ?_⟩,
    fun h p w _ _ => ⟨rfl, fun k hk => rasterWord_half_getLsbD h p w hk⟩⟩
  · intro words
    have hwords : arrivingWords s.imp.nextSend a (readBytes s a n) = words.map Prod.swap := arrivingWords_eq ..
    rw [fetchArrival_eq o hflight, ← hwords]
    simp only [fetchDone_eq]
  · intro next count active
    have hpump := impPump_eq hj hdecision hlive
    refine ⟨fun hall => hpump.trans (if_pos hall), fun hmore hidle => ?_, fun hmore hactive hengaged => ?_,
      fun hmore hactive hfree hfull => ?_, fun hmore hactive hfree hfits => ?_⟩
    · rw [hpump, if_neg (Nat.not_le.2 hmore), if_pos hidle]
    · rw [hpump, if_neg (Nat.not_le.2 hmore), if_neg (not_not.2 hactive), if_pos hengaged]
    · rw [hpump, if_neg (Nat.not_le.2 hmore), if_neg (not_not.2 hactive), if_neg (by simp [hfree]), if_pos hfull]
    · rw [hpump, if_neg (Nat.not_le.2 hmore), if_neg (not_not.2 hactive), if_neg (by simp [hfree]),
        if_neg (Nat.not_lt.2 hfits)]

end Sys2Proof.Machine

/-! MONITOR.TEST, and its abandonment at the fourth index (R176, R178). -/

namespace Sys2Proof.Machine

/-! ## MONITOR.TEST as it is taken (R176) -/

theorem runMonitorTest_of_payload {f : Frame} (h : f.payload ≠ []) (t : State) :
    runMonitorTest f t = answer f rBadField [] t := if_pos (by simp [h])

theorem runMonitorTest_of_empty {f : Frame} (h : f.payload = []) (t : State) : runMonitorTest f t =
    if headBusy t then answer f rBusy [] t
    else { t with
      lp := { t.lp with replyReserved := t.lp.replyReserved ++ [f.tag] }
      hmon := { t.hmon with test := some (f.tag, 0) } } := if_neg (by simp [h])

/-! ## The fourth index of a pending test (R178) -/

/-- An index event is one more for a pending test. -/
theorem pendingTest_at_index (s : State) : (decideRevolution (hmonIndex (closeRevolution s))).hmon.test =
    s.hmon.test.map fun p => (p.1, p.2 + 1) := by
  simp [hmonIndex]

theorem indexEvent_fourth {s : State} {tag : Byte} (h : s.hmon.test = some (tag, 3)) :
    indexEvent s = abandonTest (decideRevolution (hmonIndex (closeRevolution s))) := by
  unfold indexEvent abandonIfFourth
  rw [pendingTest_at_index, h]
  exact if_pos (le_refl 4)

/-- Settles O39: the checks of the command in order, and the abandonment by the DRUM_INDEX event that is the fourth. -/
theorem monitorTestWaitsForARecord : Obligations.MonitorTestWaitsForARecord := by
  refine ⟨fun s f rest htakes hkind hready => ?_, fun s tag hrun htest => ?_, fun s hother => ?_⟩
  · intro busy
    have hexec : exec .monitorTest s = .next (runMonitorTest f (taken s rest)) := serve_ready htakes hkind hready _
    have hbusy : headBusy (taken s rest) = true ↔ busy := headBusy_iff _
    rw [hexec]
    refine ⟨fun hpayload => ?_, fun hempty hb => ?_, fun hempty hfree => ?_⟩
    · rw [runMonitorTest_of_payload hpayload]
      rfl
    · rw [runMonitorTest_of_empty hempty, if_pos (hbusy.2 hb)]
      rfl
    · rw [runMonitorTest_of_empty hempty, if_neg (mt hbusy.1 hfree)]
      rfl
  · intro u
    have hfour : u.hmon.test = some (tag, 4) := by rw [pendingTest_at_index, htest]; rfl
    have hindex : exec .drumIndex s = .next (indexEvent s) := if_neg (by simp [hrun])
    have habandon : exec .monitorTestAbandon s = .next (indexEvent s) := if_pos ⟨hrun, by rw [htest]; rfl⟩
    refine ⟨hfour, habandon.trans hindex.symm, habandon.trans ?_⟩
    rw [indexEvent_fourth htest, abandonTest, finishTest_pending hfour]
    rfl
  · refine if_neg fun ⟨_, hthree⟩ => ?_
    obtain ⟨⟨tag, n⟩, htest, rfl⟩ := Option.map_eq_some_iff.1 hthree
    exact hother tag htest

end Sys2Proof.Machine

/-! The judging of a record's readings (R165 to R169). -/

namespace Sys2Proof.Machine

/-! ## One channel's reading (R166 to R168) -/

/-- The channel of number k behind its reading x, with no comparator failed. -/
def judgedChannel (v : Revolution) (k : Nat) (c : Channel) (x : Nat) : Channel :=
  if v.driven.getLsbD k = true ∧ c.enabled = true then
    match c.state with
    | .ok => if x < c.low ∨ c.high < x then { c with state := .suspect, suspect := x } else c
    | .suspect => { c with state := if x < c.low ∨ c.high < x then .faulted else .ok }
    | .faulted => c
  else c

/-- The reading makes the channel FAULTED. -/
def confirms (v : Revolution) (k : Nat) (c : Channel) (x : Nat) : Bool :=
  c.state == .suspect && (judgedChannel v k c x).state == .faulted

/-- R168: the note of a channel that becomes FAULTED. -/
def faultNote (v : Revolution) (job k : Nat) (c : Channel) (x : Nat) (mask : Word) : Report :=
  .head (.channelFaulted k c.low c.high c.suspect x job (if v.live then v.firstLine + k - v.lowChannel else 65535)) mask

section
variable {v : Revolution} {k : Nat} {c : Channel} {x : Nat}

theorem judgedChannel_kept (h : ¬(v.driven.getLsbD k = true ∧ c.enabled = true) ∨ c.state = .faulted) :
    judgedChannel v k c x = c := by
  rcases h with hnot | hfaulted
  · exact if_neg hnot
  · simp [judgedChannel, hfaulted]

section
variable (h : v.driven.getLsbD k = true ∧ c.enabled = true)
include h

theorem judgedChannel_of_ok (hok : c.state = .ok) : judgedChannel v k c x =
    if x < c.low ∨ c.high < x then { c with state := .suspect, suspect := x } else c := by
  rw [judgedChannel, if_pos h, hok]

theorem judgedChannel_of_suspect (hsuspect : c.state = .suspect) : judgedChannel v k c x =
    { c with state := if x < c.low ∨ c.high < x then .faulted else .ok } := by
  rw [judgedChannel, if_pos h, hsuspect]

end

theorem outOfWindow_iff {m : Hmon} (hhigh : m.highFailed = 0) (hlow : m.lowFailed = 0) :
    outOfWindow m k c x = true ↔ x < c.low ∨ c.high < x := by
  simp [outOfWindow, hhigh, hlow, or_comm]

/-- A channel that stays as it is: nothing is written, and no note follows. -/
theorem confirms_of_kept (h : judgedChannel v k c x = c) : confirms v k c x = false := by
  cases hstate : c.state <;> simp [confirms, h, hstate]

end

theorem setChannel_self {k : Nat} {c : Channel} {s : State} (h : s.hmon.channels[k]? = some c) :
    setChannel k c s = s := by
  obtain ⟨hk, rfl⟩ := List.getElem?_eq_some_iff.1 h
  rw [setChannel, List.set_getElem_self]

theorem channelAt_eq {k : Nat} {c : Channel} {s : State} (h : s.hmon.channels[k]? = some c) : channelAt s k = c := by
  rw [channelAt, List.getD_eq_getElem?_getD, h]
  rfl

/-- R166 to R168: a reading moves its channel, and a channel that becomes FAULTED has its note. -/
theorem judgeReading_eq {r : HeadRecord} {s : State} {k : Nat} {c : Channel} {x : BitVec 10}
    (hc : s.hmon.channels[k]? = some c) (hx : r.readings[k]? = some x) (hhigh : s.hmon.highFailed = 0)
    (hlow : s.hmon.lowFailed = 0) (v : Revolution) (job : Nat) : judgeReading r v job s k =
      let t := setChannel k (judgedChannel v k c x.toNat) s
      if confirms v k c x.toNat then report (faultNote v job k c x.toNat (faultMask t)) t else t := by
  have hout := outOfWindow_iff (k := k) (c := c) (x := x.toNat) hhigh hlow
  have hkept (h : judgedChannel v k c x.toNat = c) : (let t := setChannel k (judgedChannel v k c x.toNat) s
      if confirms v k c x.toNat then report (faultNote v job k c x.toNat (faultMask t)) t else t) = s := by
    rw [confirms_of_kept h, h, setChannel_self hc]
    rfl
  unfold judgeReading
  rw [hx]
  dsimp only
  rw [channelAt_eq hc]
  by_cases hjudged : v.driven.getLsbD k = true ∧ c.enabled = true
  · rw [if_pos hjudged]
    cases hstate : c.state with
    | ok =>
      have hmoves := judgedChannel_of_ok (x := x.toNat) hjudged hstate
      by_cases hwindow : x.toNat < c.low ∨ c.high < x.toNat
      · have hquiet : confirms v k c x.toNat = false := by simp [confirms, hstate]
        rw [hquiet, hmoves, if_pos hwindow]
        exact if_pos (hout.2 hwindow)
      · rw [if_neg hwindow] at hmoves
        exact (if_neg (mt hout.1 hwindow)).trans (hkept hmoves).symm
    | suspect =>
      have hmoves := judgedChannel_of_suspect (x := x.toNat) hjudged hstate
      by_cases hwindow : x.toNat < c.low ∨ c.high < x.toNat
      · rw [if_pos hwindow] at hmoves
        have hconfirms : confirms v k c x.toNat = true := by simp [confirms, hmoves, hstate]
        rw [hconfirms, hmoves]
        exact if_pos (hout.2 hwindow)
      · rw [if_neg hwindow] at hmoves
        have hquiet : confirms v k c x.toNat = false := by simp [confirms, hmoves]
        rw [hquiet, hmoves]
        exact if_neg (mt hout.1 hwindow)
    | faulted => exact (hkept (judgedChannel_kept (.inr hstate))).symm
  · rw [if_neg hjudged]
    exact (hkept (judgedChannel_kept (.inl hjudged))).symm

/-! ## The readings in channel order (R166 to R168) -/

/-- The channels behind the readings of those below n. -/
def channelsJudged (r : HeadRecord) (v : Revolution) (n : Nat) (l : List Channel) : List Channel :=
  l.mapIdx fun k c => if k < n then judgedChannel v k c (r.readings.getD k 0).toNat else c

/-- LP behind the note of channel k, if it becomes FAULTED, with the mask as it then stands. -/
def noteIfFaulted (r : HeadRecord) (v : Revolution) (job : Nat) (channels : List Channel) (l : Lp) (k : Nat) : Lp :=
  let c := channels.getD k Channel.reset
  let x := (r.readings.getD k 0).toNat
  if confirms v k c x then
    l.queueReport (faultNote v job k c x (maskOf ((channelsJudged r v (k + 1) channels).map (·.state == .faulted))))
  else l

/-- The state with the readings of the channels below n judged. -/
def judgedBelow (r : HeadRecord) (v : Revolution) (job n : Nat) (s : State) : State :=
  { s with
    hmon := { s.hmon with channels := channelsJudged r v n s.hmon.channels }
    lp := (List.range n).foldl (noteIfFaulted r v job s.hmon.channels) s.lp }

theorem channelsJudged_getElem? (r : HeadRecord) (v : Revolution) (n : Nat) (l : List Channel) (k : Nat) :
    (channelsJudged r v n l)[k]? =
      l[k]?.map fun c => if k < n then judgedChannel v k c (r.readings.getD k 0).toNat else c := List.getElem?_mapIdx

theorem channelsJudged_zero (r : HeadRecord) (v : Revolution) (l : List Channel) : channelsJudged r v 0 l = l := by
  exact List.ext_getElem? fun k => by simp [channelsJudged_getElem?]

theorem channelsJudged_succ (r : HeadRecord) (v : Revolution) {n : Nat} {l : List Channel} {c : Channel}
    (h : l[n]? = some c) : (channelsJudged r v n l).set n (judgedChannel v n c (r.readings.getD n 0).toNat) =
      channelsJudged r v (n + 1) l := by
  refine List.ext_getElem? fun k => ?_
  rw [List.getElem?_set, channelsJudged_getElem?, channelsJudged_getElem?]
  by_cases hk : n = k
  · subst hk
    obtain ⟨hn, hc⟩ := List.getElem?_eq_some_iff.1 h
    simp [channelsJudged, hn, hc]
  · have hbelow : k < n + 1 ↔ k < n := by omega
    simp only [if_neg hk, hbelow]

theorem judgedBelow_zero (r : HeadRecord) (v : Revolution) (job : Nat) (s : State) : judgedBelow r v job 0 s = s := by
  rw [judgedBelow, channelsJudged_zero]
  rfl

section
variable {s : State} {r : HeadRecord} (hreadings : r.readings.length = 32) (hchannels : s.hmon.channels.length = 32)
  (hhigh : s.hmon.highFailed = 0) (hlow : s.hmon.lowFailed = 0) (v : Revolution) (job : Nat)
include hreadings hchannels hhigh hlow

/-- The reading of the next channel. -/
theorem judgeReading_judgedBelow {n : Nat} (hn : n < 32) :
    judgeReading r v job (judgedBelow r v job n s) n = judgedBelow r v job (n + 1) s := by
  obtain ⟨c, hc⟩ : ∃ c, s.hmon.channels[n]? = some c := ⟨_, List.getElem?_eq_getElem (by omega)⟩
  obtain ⟨x, hx⟩ : ∃ x, r.readings[n]? = some x := ⟨_, List.getElem?_eq_getElem (by omega)⟩
  have hcurrent : (judgedBelow r v job n s).hmon.channels[n]? = some c :=
    (channelsJudged_getElem? ..).trans (by simp [hc])
  have hreading : r.readings.getD n 0 = x := by rw [List.getD_eq_getElem?_getD, hx]; rfl
  have hchannel : s.hmon.channels.getD n Channel.reset = c := channelAt_eq hc
  have hset := channelsJudged_succ r v hc
  rw [hreading] at hset
  rw [judgeReading_eq hcurrent hx hhigh hlow, judgedBelow, judgedBelow, List.range_succ, List.foldl_append,
    ← hset]
  simp only [List.foldl_cons, List.foldl_nil, noteIfFaulted, hchannel, hreading, ← hset]
  cases confirms v n c x.toNat <;> rfl

theorem judgeReadings_eq : ∀ {n : Nat}, n ≤ 32 →
    (List.range n).foldl (judgeReading r v job) s = judgedBelow r v job n s
  | 0, _ => (judgedBelow_zero r v job s).symm
  | n + 1, hn => by
    rw [List.range_succ, List.foldl_append, judgeReadings_eq (Nat.le_of_succ_le hn)]
    exact judgeReading_judgedBelow hreadings hchannels hhigh hlow v job hn

end

/-! ## The CHANNEL defects (R169) -/

/-- R169: the CHANNEL defect of channel k, on the line that it exposed. -/
def channelDefect (v : Revolution) (k : Nat) : Defect :=
  Defect.handed .channel (v.firstLine + k - v.lowChannel) (v.firstLine + k - v.lowChannel) none (some k) none none none

/-- Channel k was driven and is FAULTED. -/
def drivenFaulted (v : Revolution) (s : State) (k : Nat) : Bool :=
  v.driven.getLsbD k && (s.hmon.channels[k]?).map Channel.state == some .faulted

theorem channelAt_faulted_iff (s : State) (k : Nat) :
    (channelAt s k).state = .faulted ↔ (s.hmon.channels[k]?).map Channel.state = some .faulted := by
  rw [channelAt, List.getD_eq_getElem?_getD]
  cases s.hmon.channels[k]? <;> simp [Channel.reset]

theorem handChannel_eq (v : Revolution) (s : State) (k : Nat) : handChannel v s k =
    if drivenFaulted v s k then { s with drec := s.drec.take (channelDefect v k) } else s := by
  have hiff : drivenFaulted v s k = true ↔ v.driven.getLsbD k = true ∧ (channelAt s k).state = .faulted := by
    rw [channelAt_faulted_iff, drivenFaulted, Bool.and_eq_true, beq_iff_eq]
  simp only [hiff]
  rfl

/-- R169: the defects are handed in the order of the channels listed. -/
theorem handChannels_eq (v : Revolution) (s : State) : ∀ (l : List Nat) (d : Drec),
    l.foldl (handChannel v) { s with drec := d } =
      { s with drec := (l.filter (drivenFaulted v s)).foldl (fun d k => d.take (channelDefect v k)) d }
  | [], _ => rfl
  | k :: l, d => by
    have hsame : drivenFaulted v { s with drec := d } k = drivenFaulted v s k := rfl
    rw [List.foldl_cons, handChannel_eq, hsame, List.filter_cons]
    cases drivenFaulted v s k with
    | true => exact handChannels_eq v s l _
    | false => exact handChannels_eq v s l d

/-! ## The record as a whole (R165 to R169) -/

section
variable {s : State} {r : HeadRecord} (hreadings : r.readings.length = 32) (hchannels : s.hmon.channels.length = 32)
  (hhigh : s.hmon.highFailed = 0) (hlow : s.hmon.lowFailed = 0) (v : Revolution) (job : Nat)
include hreadings hchannels hhigh hlow

/-- R165 to R169: the readings in channel order, and then the defects. -/
theorem judgeRecord_eq (hexpose : v.decision = .expose) : judgeRecord r v job s =
    { judgedBelow r v job 32 s with
      drec := if v.live then
          ((List.range 32).filter (drivenFaulted v (judgedBelow r v job 32 s))).foldl
            (fun d k => d.take (channelDefect v k)) s.drec
        else s.drec } := by
  rw [judgeRecord, if_pos hexpose, judgeReadings_eq hreadings hchannels hhigh hlow v job (le_refl 32)]
  dsimp only
  cases v.live with
  | true => exact handChannels_eq v (judgedBelow r v job 32 s) (List.range 32) s.drec
  | false => rfl

end

/-- R167: the fault mask in the note of channel k, bit by bit: the channels up to k are judged, the others not yet. -/
theorem maskOf_channelsJudged {r : HeadRecord} {v : Revolution} {l : List Channel} (hl : l.length = 32) {k : Nat}
    {mask : Word} (hmask : ∀ k', k' < 32 → (mask.getLsbD k' = true ↔
      ((if k' ≤ k then channelsJudged r v 32 l else l)[k']?).map Channel.state = some .faulted)) :
    maskOf ((channelsJudged r v (k + 1) l).map (·.state == .faulted)) = mask := by
  refine BitVec.eq_of_getLsbD_eq fun k' hk' => ?_
  obtain ⟨c, hc⟩ : ∃ c, l[k']? = some c := ⟨_, List.getElem?_eq_getElem (by omega)⟩
  have hat (n : Nat) := (channelsJudged_getElem? r v n l k').trans (congrArg _ hc)
  have hbit := maskOf_bit (k := k') (bits := (channelsJudged r v (k + 1) l).map (·.state == .faulted))
    (by simp [channelsJudged, hl]) (by rw [List.getElem?_map, hat]; rfl)
  rw [hbit, Bool.eq_iff_iff, hmask k' hk', beq_iff_eq]
  by_cases hle : k' ≤ k
  · simp [hle, Nat.lt_succ_of_le hle, hat, hk']
  · simp [hle, hc]

/-- A channel becomes FAULTED exactly if it was SUSPECT before the record and is FAULTED behind it. -/
theorem confirms_eq {r : HeadRecord} {v : Revolution} {l : List Channel} (hl : l.length = 32) {k : Nat} (hk : k < 32) :
    confirms v k (l.getD k Channel.reset) (r.readings.getD k 0).toNat =
      ((l[k]?).map Channel.state == some .suspect &&
        ((channelsJudged r v 32 l)[k]?).map Channel.state == some .faulted) := by
  obtain ⟨c, hc⟩ : ∃ c, l[k]? = some c := ⟨_, List.getElem?_eq_getElem (by omega)⟩
  rw [channelsJudged_getElem?, List.getD_eq_getElem?_getD, hc]
  simp [confirms, hk]

/-- Settles O41: `judgeRecord_eq` gives the channels, the notes and the defects. -/
theorem readingsMoveTheChannels : Obligations.ReadingsMoveTheChannels := by
  intro s r v job
  refine ⟨fun hother => if_neg hother, fun hexpose hreadings hchannels hhigh hlow => ?_⟩
  intro t stateOf
  have ht : t = _ := judgeRecord_eq hreadings hchannels hhigh hlow v job hexpose
  have hlp : t.lp = (judgedBelow r v job 32 s).lp := (congrArg State.lp ht).trans rfl
  have hhmon : t.hmon = (judgedBelow r v job 32 s).hmon := (congrArg State.hmon ht).trans rfl
  have hdrec := congrArg State.drec ht
  refine ⟨fun k c x hc hx => ?_, fun hdead => ?_, fun hlive => ?_, fun mask hmask => ?_, ?_, ?_⟩
  · intro judged out
    have hk : k < 32 := hchannels ▸ (List.getElem?_eq_some_iff.1 hc).1
    have hreading : r.readings.getD k 0 = x := by rw [List.getD_eq_getElem?_getD, hx]; rfl
    have hjudged : t.hmon.channels[k]? = some (judgedChannel v k c x.toNat) := by
      rw [hhmon]
      refine (channelsJudged_getElem? ..).trans ?_
      rw [hc, Option.map_some, if_pos hk, hreading]
    rw [hjudged]
    refine ⟨fun hkept => ?_, fun h hok hout => ?_, fun h hok hin => ?_, fun h hsuspect hout => ?_,
      fun h hsuspect hin => ?_⟩
    · rw [judgedChannel_kept hkept]
    · rw [judgedChannel_of_ok h hok, if_pos hout]
    · rw [judgedChannel_of_ok h hok, if_neg hin]
    · rw [judgedChannel_of_suspect h hsuspect, if_pos hout]
    · rw [judgedChannel_of_suspect h hsuspect, if_neg hin]
  · exact hdrec.trans (if_neg (by simp [hdead]))
  · intro faulted
    have hfaulted : faulted = (List.range 32).filter (drivenFaulted v (judgedBelow r v job 32 s)) := by
      simp only [faulted, stateOf, hhmon]
      rfl
    rw [hfaulted]
    exact hdrec.trans (if_pos hlive)
  · intro confirmed
    have hchannel : t.hmon.channels = channelsJudged r v 32 s.hmon.channels := congrArg Hmon.channels hhmon
    rw [hlp, List.foldl_filter]
    refine List.foldl_ext _ _ _ fun l k hk => ?_
    have hk := List.mem_range.1 hk
    have hfaulted (k' : Nat) (hk' : k' < 32) : (mask k).getLsbD k' = true ↔
        ((if k' ≤ k then channelsJudged r v 32 s.hmon.channels else s.hmon.channels)[k']?).map Channel.state =
          some .faulted := by
      rw [hmask k k' hk hk', ← hchannel]
      by_cases hle : k' ≤ k <;> simp [hle, stateOf]
    simp only [noteIfFaulted, confirms_eq hchannels hk, maskOf_channelsJudged hchannels hfaulted, stateOf, hchannel]
    rfl
  · rw [hhmon]
    rfl
  · rw [ht]
    rfl

end Sys2Proof.Machine

/-! HMON's slot count with its bounds, and the clock-loss timer (R172 to R174, R178). -/

namespace Sys2Proof.Machine

/-! ## The loss of a clock (R173, R174) -/

theorem reportClockLoss_of_no_job {s : State} (h : imagingJob s = none) (clock : ClockName) :
    reportClockLoss clock s = s := by
  rw [reportClockLoss, h]

/-- R173, R174: the job ends CLOCK_LOST, and HMON's note follows. -/
theorem reportClockLoss_of_imaging {s : State} {j : Job} (h : imagingJob s = some j) (clock : ClockName) :
    reportClockLoss clock s = report (.head (.clockLost clock j.id
      (scheduleTest (endArmedJob .clockLost none s)).hmon.slotCount)
      (faultMask (scheduleTest (endArmedJob .clockLost none s)))) (scheduleTest (endArmedJob .clockLost none s)) := by
  rw [reportClockLoss, h]
  dsimp only
  rw [endImaging_eq h]

/-! ## The slot count and its bounds (R172, R173) -/

/-- A bound whose mark is set when it is reached calls for nothing more. -/
theorem not_reached_clear {reached : Prop} {mark : Bool} (h : reached → mark = true) : ¬(reached ∧ mark = false) :=
  fun ⟨hreached, hclear⟩ => by simp [h hreached] at hclear

/-- HMON with one more slot counted. -/
def slotCounted (s : State) : State :=
  { s with hmon := { s.hmon with slotCount := countSlot s.hmon.slotCount } }

/-- R173: the first bound of a slot counted. -/
def overdueChecked (t : State) : State :=
  if t.hmon.slotCount = overdueBound t ∧ t.hmon.overdue = false then markOverdue t else t

/-- R173: the second bound of a slot counted. -/
def lostChecked (t : State) : State :=
  if t.hmon.slotCount = 2 * t.hmon.nrev ∧ t.hmon.indexLost = false then markLost t else t

theorem countSlot_of_lt {n : Nat} (h : n < 131071) : countSlot n = n + 1 := if_pos h

section
variable {s : State}

theorem hmonSlot_uncounted (h : s.hmon.slotCount = 0) : hmonSlot s = s := if_pos h

/-- A counted slot meets the overdue bound first and the lost bound then. -/
theorem hmonSlot_eq (h : 0 < s.hmon.slotCount) : hmonSlot s = lostChecked (overdueChecked (slotCounted s)) :=
  if_neg (Nat.ne_of_gt h)

/-- A slot below the overdue bound or past it, or at it with the mark already set. -/
theorem hmonSlot_not_overdue (h : 0 < s.hmon.slotCount)
    (hoverdue : ¬(countSlot s.hmon.slotCount = overdueBound s ∧ s.hmon.overdue = false)) :
    hmonSlot s = lostChecked (slotCounted s) :=
  (hmonSlot_eq h).trans (congrArg lostChecked (if_neg hoverdue))

theorem hmonSlot_within (h : 0 < s.hmon.slotCount)
    (hoverdue : ¬(countSlot s.hmon.slotCount = overdueBound s ∧ s.hmon.overdue = false))
    (hlost : ¬(countSlot s.hmon.slotCount = 2 * s.hmon.nrev ∧ s.hmon.indexLost = false)) :
    hmonSlot s = slotCounted s :=
  (hmonSlot_not_overdue h hoverdue).trans (if_neg hlost)

theorem hmonSlot_at_lost (h : 0 < s.hmon.slotCount) (hearly : countSlot s.hmon.slotCount ≠ overdueBound s)
    (hlost : countSlot s.hmon.slotCount = 2 * s.hmon.nrev) (hclear : s.hmon.indexLost = false) :
    hmonSlot s = markLost (slotCounted s) :=
  (hmonSlot_not_overdue h fun hoverdue => hearly hoverdue.1).trans (if_pos ⟨hlost, hclear⟩)

theorem hmonSlot_at_overdue (h : 0 < s.hmon.slotCount) (hoverdue : countSlot s.hmon.slotCount = overdueBound s)
    (hclear : s.hmon.overdue = false) (hearly : countSlot s.hmon.slotCount ≠ 2 * s.hmon.nrev) :
    hmonSlot s = markOverdue (slotCounted s) := by
  have hmarked : overdueChecked (slotCounted s) = markOverdue (slotCounted s) := if_pos ⟨hoverdue, hclear⟩
  rw [hmonSlot_eq h, hmarked]
  exact if_neg fun ⟨hlost, _⟩ => hearly (by simpa [slotCounted] using hlost)

end

/-- R173: the mark and, in an EXPOSE revolution of a job still IMAGING, the DRUM_SPEED defect. -/
theorem markOverdue_eq (s : State) : markOverdue s = { s with
    hmon := { s.hmon with overdue := true }
    drec := if s.imp.rev.decision = .expose ∧ s.imp.rev.live = true then
        s.drec.take (revolutionDefect s .drumSpeed none)
      else s.drec } := by
  have hexposing : exposingNow s = true ↔ s.imp.rev.decision = .expose ∧ s.imp.rev.live = true := by
    simp [exposingNow]
  by_cases h : s.imp.rev.decision = .expose ∧ s.imp.rev.live = true
  · rw [if_pos h]
    exact if_pos (hexposing.2 h)
  · rw [if_neg h]
    exact if_neg (mt hexposing.1 h)

/-- The next slot is of the same revolution: IMP counts it and changes neither its decision nor its lines. -/
theorem impSlot_rev (s : State) :
    (impSlot s).imp.rev = { s.imp.rev with slot := countSlot s.imp.rev.slot } := by
  rw [impSlot_eq]
  split <;> simp [slotBegun]

/-- Settles O43: the count, and then each bound by the slot that reaches it. -/
theorem slotBoundsAndClockLoss : Obligations.SlotBoundsAndClockLoss := by
  unfold Obligations.SlotBoundsAndClockLoss
  intro lose
  have hlose (clock : ClockName) (u : State) : reportClockLoss clock u = lose clock u := by
    cases h : imagingJob u with
    | none =>
      rw [reportClockLoss_of_no_job h]
      simp only [lose, h]
    | some j =>
      rw [reportClockLoss_of_imaging h]
      simp only [lose, h]
      rfl
  have hslot {s : State} (hrun : s.resetHeld = false) : exec .slotClk s = .next (hmonSlot (impSlot s)) :=
    if_neg (by simp [hrun])
  refine ⟨fun s => hmonSlot_uncounted, fun s hfull hnrev htolerance => ?_,
    fun s hpos hbelow hoverdue hlost => ?_, fun s hrun hpos hclear hbound hlow hhigh htolerance => ?_,
    fun s hrun hpos hclear hbound hlow hhigh htolerance => ?_, fun s hother => ?_, fun s hother => ?_,
    fun s hstopped => if_pos (.inr hstopped), fun s hrun hrunning => ?_⟩
  · have hcount : countSlot s.hmon.slotCount = s.hmon.slotCount := by rw [hfull]; rfl
    rw [hmonSlot_within (by omega) (by rw [hcount, overdueBound]; omega) (by rw [hcount]; omega), slotCounted, hcount]
  · have hcount := countSlot_of_lt hbelow
    rw [hmonSlot_within hpos (hcount ▸ not_reached_clear hoverdue) (hcount ▸ not_reached_clear hlost), slotCounted,
      hcount]
  · intro t
    have hcount : countSlot s.hmon.slotCount = s.hmon.slotCount + 1 := countSlot_of_lt (by omega)
    have hoverdue : exec .indexOverdue s = .next (hmonSlot t) :=
      if_pos ⟨hrun, by omega, by rw [overdueBound]; omega, hclear⟩
    have hhmon : t.hmon = s.hmon := by simp [t]
    have hmark : hmonSlot t = markOverdue (slotCounted t) :=
      hmonSlot_at_overdue (by rw [hhmon]; exact hpos) (by rw [overdueBound, hhmon, hcount]; omega)
        (by rw [hhmon]; exact hclear) (by rw [hhmon, hcount]; omega)
    refine ⟨hoverdue.trans (hslot hrun).symm, hoverdue.trans ?_⟩
    have hdrec : t.drec = s.drec := by simp [t]
    have hrev : t.imp.rev = { s.imp.rev with slot := countSlot s.imp.rev.slot } := impSlot_rev s
    rw [hmark, markOverdue_eq, ← hcount]
    simp only [slotCounted, revolutionDefect, hhmon, hdrec, hrev]
    rfl
  · have hcount : countSlot s.hmon.slotCount = s.hmon.slotCount + 1 := countSlot_of_lt (by omega)
    have hlost : exec .indexLost s = .next (hmonSlot (impSlot s)) := if_pos ⟨hrun, by omega, hbound, hclear⟩
    have hhmon : (impSlot s).hmon = s.hmon := by simp
    have hmark : hmonSlot (impSlot s) = markLost (slotCounted (impSlot s)) :=
      hmonSlot_at_lost (by rw [hhmon]; exact hpos) (by rw [overdueBound, hhmon, hcount]; omega)
        (by rw [hhmon, hcount]; exact hbound) (by rw [hhmon]; exact hclear)
    refine ⟨hlost.trans (hslot hrun).symm, hlost.trans ?_⟩
    rw [hmark, markLost, hlose, ← hcount]
    dsimp only [slotCounted]
    rw [hhmon]
  · exact if_neg fun ⟨_, _, hreached⟩ => not_reached_clear (fun hn => hother.resolve_left (not_not.2 hn)) hreached
  · exact if_neg fun ⟨_, _, hreached⟩ => not_reached_clear (fun hn => hother.resolve_left (not_not.2 hn)) hreached
  · intro u
    have hexpiry : exec .clockLossExpiry s = .next (abandonTest u) := by
      simp only [u, ← hlose]
      exact if_neg (by simp [hrun, hrunning])
    rw [hexpiry]
    refine ⟨fun hnone => ?_, fun tag n htest => ?_⟩
    · rw [abandonTest, finishTest, hnone]
    · rw [abandonTest, finishTest_pending htest]
      rfl

end Sys2Proof.Machine

/-! The defect list and the verdict accumulator (R182 to R186): where a defect goes, and the laws of the list and the
accumulator, which a defect's taking keeps. -/

namespace Sys2Proof.Machine

/-! ## Severities and verdicts (R182, R184, R186) -/

theorem Severity.worse_eq (a b : Severity) :
    a.worse b = if a = .reject ∨ b = .reject then .reject else .marked := by
  cases a <;> cases b <;> rfl

theorem Severity.rank_worse (a b : Severity) : (a.worse b).rank = max a.rank b.rank := by
  cases a <;> cases b <;> rfl

theorem Verdict.raise_eq (v : Verdict) (t : Severity) :
    v.raise t = if v = .reject ∨ t = .reject then .reject else .marked := by
  cases v <;> cases t <;> rfl

theorem Verdict.rank_raise (v : Verdict) (t : Severity) : (v.raise t).rank = max v.rank t.rank := by
  cases v <;> cases t <;> rfl

theorem Verdict.raise_ne_good (v : Verdict) (t : Severity) : v.raise t ≠ .good := by
  rw [Verdict.raise_eq]
  split <;> simp

theorem underrunTouchesPage_iff (geometry : List SlotGeometry) (d : Defect) :
    underrunTouchesPage geometry d = true ↔ ∃ x0 x1, d.xRange = some (x0, x1) ∧ ∃ g ∈ geometry,
      g.firstBand ≤ d.firstLine / 64 ∧ d.firstLine / 64 ≤ g.lastBand ∧ g.firstX ≤ x1 ∧ x0 ≤ g.lastX := by
  unfold underrunTouchesPage
  cases hx : d.xRange with
  | none => simp
  | some x =>
    obtain ⟨x0, x1⟩ := x
    simp only [List.any_eq_true, decide_eq_true_eq, Option.some.injEq, Prod.mk.injEq]
    exact ⟨fun h => ⟨x0, x1, ⟨rfl, rfl⟩, h⟩, fun ⟨_, _, ⟨h0, h1⟩, h⟩ => h0 ▸ h1 ▸ h⟩

/-- R182: of the kinds that are handed, BLANK_BAND is MARKED, and UNDERRUN where it meets no page. -/
theorem severityOf_eq_marked_iff {geometry : List SlotGeometry} {d : Defect} (hkind : d.kind ≠ .overflow) :
    severityOf geometry d = .marked ↔
      d.kind = .blankBand ∨ (d.kind = .underrun ∧ ¬underrunTouchesPage geometry d = true) := by
  unfold severityOf
  cases h : d.kind with
  | overflow => exact absurd h hkind
  | underrun => cases underrunTouchesPage geometry d <;> simp
  | blankBand | decode | channel | drumSpeed | abort => simp

/-! ## The place of a defect (R183 to R185) -/

theorem merges_iff {sweep : Nat} {d r : Defect} : merges sweep d r = true ↔
    r.kind = d.kind ∧ r.channel = d.channel ∧ r.slot = d.slot ∧ d.firstLine ≤ r.lastLine + sweep := by
  simp [merges, and_assoc]

theorem mapLast_concat (f : Defect → Defect) (pre : List Defect) (r : Defect) :
    mapLast f (pre ++ [r]) = pre ++ [f r] := by
  simp [mapLast]

theorem mergesLast_concat (sweep : Nat) (d : Defect) (pre : List Defect) (r : Defect) :
    mergesLast sweep d (pre ++ [r]) = merges sweep d r := by
  simp [mergesLast]

section
variable {sweep : Nat} {d r : Defect} {pre : List Defect}

/-- R184: the defect merges with the last record. -/
theorem placeDefect_merged (hmerges : merges sweep d r = true) :
    placeDefect sweep d (pre ++ [r]) = pre ++ [absorb d r] := by
  rw [placeDefect, mergesLast_concat, if_pos hmerges, mapLast_concat]

/-- R185: the defect is counted by the record in the last place. -/
theorem placeDefect_counted (hmerges : ¬merges sweep d r = true) (hfull : 24 ≤ (pre ++ [r]).length) :
    placeDefect sweep d (pre ++ [r]) = pre ++ [absorbOverflow d r] := by
  rw [placeDefect, mergesLast_concat, if_neg hmerges, if_pos hfull, mapLast_concat]

variable {l : List Defect} (hmerges : ¬mergesLast sweep d l = true)
include hmerges

/-- R185: the OVERFLOW record takes the 24th place. -/
theorem placeDefect_overflows (hlast : l.length = 23) : placeDefect sweep d l = l ++ [overflowRecord d] := by
  rw [placeDefect, if_neg hmerges, if_neg (by omega), if_pos hlast]

/-- R183: the defect is appended. -/
theorem placeDefect_appended (hroom : l.length < 23) : placeDefect sweep d l = l ++ [d] := by
  rw [placeDefect, if_neg hmerges, if_neg (by omega), if_neg (by omega)]

end

/-- What the taking of a defect can do to the list (R183 to R185). -/
theorem placeDefect_cases (sweep : Nat) (d : Defect) (l : List Defect) :
    (∃ pre r, l = pre ++ [r] ∧ r.kind = d.kind ∧ placeDefect sweep d l = pre ++ [absorb d r]) ∨
    (∃ pre r, l = pre ++ [r] ∧ placeDefect sweep d l = pre ++ [absorbOverflow d r] ∧ 24 ≤ l.length) ∨
    (l.length = 23 ∧ placeDefect sweep d l = l ++ [overflowRecord d]) ∨
    (l.length < 23 ∧ placeDefect sweep d l = l ++ [d]) := by
  by_cases hmerges : mergesLast sweep d l = true
  · obtain rfl | ⟨pre, r, rfl⟩ := l.eq_nil_or_concat'
    · cases hmerges
    · rw [mergesLast_concat] at hmerges
      exact .inl ⟨pre, r, rfl, (merges_iff.1 hmerges).1, placeDefect_merged hmerges⟩
  · rcases Nat.lt_trichotomy l.length 23 with hroom | hlast | hfull
    · exact .inr (.inr (.inr ⟨hroom, placeDefect_appended hmerges hroom⟩))
    · exact .inr (.inr (.inl ⟨hlast, placeDefect_overflows hmerges hlast⟩))
    · obtain rfl | ⟨pre, r, rfl⟩ := l.eq_nil_or_concat'
      · simp at hfull
      · rw [mergesLast_concat] at hmerges
        exact .inr (.inl ⟨pre, r, rfl, placeDefect_counted hmerges hfull, hfull⟩)

/-! ## The taking of a defect (R181, R183, R186) -/

theorem Drec.take_closed {r : Drec} (hclosed : r.plateOpen = false) (d : Defect) : r.take d = r := by
  simp [Drec.take, hclosed]

theorem Drec.take_open {r : Drec} (hopen : r.plateOpen = true) (d : Defect) : r.take d = { r with
    list := placeDefect r.sweepHeight { d with severity := severityOf r.geometry d } r.list
    verdict := r.verdict.raise (severityOf r.geometry d) } := by
  simp [Drec.take, hopen]

/-- Settles O51: the four cases of the place, and the taking with the severity that R182 gives. -/
theorem defectIsPlacedAndRaisesTheVerdict : Obligations.DefectIsPlacedAndRaisesTheVerdict := by
  refine ⟨fun sweep d l => ⟨?_, rfl⟩, fun r d => ⟨fun hclosed => Drec.take_closed hclosed d, fun hopen hkind => ?_⟩⟩
  · rintro pre r rfl same worse count
    have hsame : merges sweep d r = true ↔ same := merges_iff
    have hlast : mergesLast sweep d (pre ++ [r]) = true ↔ same := by rw [mergesLast_concat, hsame]
    have hworse : r.severity.worse d.severity = worse := Severity.worse_eq ..
    refine ⟨fun h => ?_, fun h hfull => ?_, fun h => placeDefect_overflows (mt hlast.1 h),
      fun h => placeDefect_appended (mt hlast.1 h)⟩
    · rw [placeDefect_merged (hsame.2 h), absorb, hworse]
      generalize r.xRange = x, d.xRange = y
      cases x <;> cases y <;> rfl
    · rw [placeDefect_counted (mt hsame.1 h) hfull, absorbOverflow, hworse]
      rfl
  · intro touches mild
    refine ⟨severityOf r.geometry d, ?_, ?_⟩
    · rw [severityOf_eq_marked_iff hkind, underrunTouchesPage_iff]
    · rw [Drec.take_open hopen, Verdict.raise_eq]

end Sys2Proof.Machine

/-! Every step keeps the laws of the defect list and the verdict (R183, R185, R186, R189): the taking of a defect, the
operations that write DREC, and every command through them. -/

namespace Sys2Proof.Machine

/-! ## The records of the list (R183, R185, R186) -/

/-- What `recorderSound` says of the records, under an accumulator. -/
def recordsFit (v : Verdict) (l : List Defect) : Prop :=
  l.length ≤ 24 ∧ (∀ i d, l[i]? = some d → (d.kind = .overflow ↔ i = 23)) ∧ ∀ d ∈ l, d.severity.rank ≤ v.rank

theorem recorderSound_iff (r : Drec) : recorderSound r ↔
    recordsFit r.verdict r.list ∧ (r.verdict = .good ↔ r.list = []) ∧ ¬(r.mark = true ∧ r.reject = true) := by
  simp only [recorderSound, recordsFit, and_assoc]

theorem recordsFit_nil (v : Verdict) : recordsFit v [] := by
  simp [recordsFit]

theorem recordsFit_concat (v : Verdict) (pre : List Defect) (r : Defect) : recordsFit v (pre ++ [r]) ↔
    recordsFit v pre ∧ pre.length < 24 ∧ (r.kind = .overflow ↔ pre.length = 23) ∧ r.severity.rank ≤ v.rank := by
  have hkinds : (∀ i d, (pre ++ [r])[i]? = some d → (d.kind = .overflow ↔ i = 23)) ↔
      (∀ i d, pre[i]? = some d → (d.kind = .overflow ↔ i = 23)) ∧ (r.kind = .overflow ↔ pre.length = 23) := by
    refine ⟨fun h => ⟨fun i d hi => h i d ?_, h _ _ List.getElem?_concat_length⟩, ?_⟩
    · rwa [List.getElem?_append_left (List.getElem?_eq_some_iff.1 hi).1]
    · rintro ⟨hpre, hr⟩ i d hi
      rcases Nat.lt_or_ge i pre.length with hlt | hge
      · exact hpre i d (by rwa [List.getElem?_append_left hlt] at hi)
      · rw [List.getElem?_append_right hge, List.getElem?_singleton] at hi
        split at hi
        · obtain rfl : i = pre.length := by omega
          obtain rfl := Option.some.inj hi
          exact hr
        · cases hi
  simp only [recordsFit, hkinds, List.length_append, List.length_singleton, List.forall_mem_append,
    List.forall_mem_singleton]
  constructor
  · rintro ⟨hlength, ⟨hpre, hr⟩, hseverities, hseverity⟩
    exact ⟨⟨by omega, hpre, hseverities⟩, hlength, hr, hseverity⟩
  · rintro ⟨⟨-, hpre, hseverities⟩, hlength, hr, hseverity⟩
    exact ⟨hlength, ⟨hpre, hr⟩, hseverities, hseverity⟩

theorem recordsFit.mono {v w : Verdict} {l : List Defect} (h : recordsFit v l) (hvw : v.rank ≤ w.rank) :
    recordsFit w l := by
  obtain ⟨hlength, hkinds, hseverities⟩ := h
  exact ⟨hlength, hkinds, fun d hd => (hseverities d hd).trans hvw⟩

/-- R183, R185: a defect of a kind that is handed keeps its list's laws, under the raised accumulator. -/
theorem placeDefect_keeps_recordsFit {v : Verdict} {l : List Defect} (h : recordsFit v l) {d : Defect}
    (hkind : d.kind ≠ .overflow) (sweep : Nat) : recordsFit (v.raise d.severity) (placeDefect sweep d l) := by
  have hraised : recordsFit (v.raise d.severity) l := h.mono (by rw [Verdict.rank_raise]; exact le_max_left ..)
  have hd : d.severity.rank ≤ (v.raise d.severity).rank := by rw [Verdict.rank_raise]; exact le_max_right ..
  have hrewritten {pre : List Defect} {r q : Defect} (hpre : recordsFit (v.raise d.severity) (pre ++ [r]))
      (hsame : q.kind = r.kind) (hworse : q.severity = r.severity.worse d.severity) :
      recordsFit (v.raise d.severity) (pre ++ [q]) := by
    obtain ⟨hpre, hlength, hkinds, hr⟩ := (recordsFit_concat ..).1 hpre
    refine (recordsFit_concat ..).2 ⟨hpre, hlength, hsame ▸ hkinds, ?_⟩
    rw [hworse, Severity.rank_worse]
    exact max_le hr hd
  rcases placeDefect_cases sweep d l with ⟨pre, r, rfl, -, hl⟩ | ⟨pre, r, rfl, hl, -⟩ | ⟨hlast, hl⟩ | ⟨hroom, hl⟩
  · rw [hl]
    exact hrewritten hraised rfl rfl
  · rw [hl]
    exact hrewritten hraised rfl rfl
  · rw [hl]
    exact (recordsFit_concat ..).2 ⟨hraised, by omega, iff_of_true rfl hlast, hd⟩
  · rw [hl]
    exact (recordsFit_concat ..).2 ⟨hraised, by omega, iff_of_false hkind (by omega), hd⟩

theorem placeDefect_ne_nil (sweep : Nat) (d : Defect) (l : List Defect) : placeDefect sweep d l ≠ [] := by
  rcases placeDefect_cases sweep d l with ⟨_, _, -, -, hl⟩ | ⟨_, _, -, hl, -⟩ | ⟨-, hl⟩ | ⟨-, hl⟩ <;> simp [hl]

/-- R183, R186: DREC takes a defect. -/
theorem take_keeps_recorderSound {r : Drec} (hr : recorderSound r) {d : Defect} (hkind : d.kind ≠ .overflow) :
    recorderSound (r.take d) := by
  cases hopen : r.plateOpen with
  | false => rwa [Drec.take_closed hopen]
  | true =>
    obtain ⟨hfit, -, hlines⟩ := (recorderSound_iff r).1 hr
    rw [Drec.take_open hopen, recorderSound_iff]
    exact ⟨placeDefect_keeps_recordsFit (d := { d with severity := severityOf r.geometry d }) hfit hkind _,
      iff_of_false (Verdict.raise_ne_good _ _) (placeDefect_ne_nil _ _ _), hlines⟩

/-- R189: the list and the accumulator are as before, and at most one line is high. -/
theorem recorderSound_lines {r q : Drec} (hr : recorderSound r) (hlist : q.list = r.list)
    (hverdict : q.verdict = r.verdict) (hlines : ¬(q.mark = true ∧ q.reject = true)) : recorderSound q := by
  obtain ⟨hfit, hgood, -⟩ := (recorderSound_iff r).1 hr
  exact (recorderSound_iff q).2 ⟨hlist ▸ hverdict ▸ hfit, hlist ▸ hverdict ▸ hgood, hlines⟩

/-- R181, R190: the list is emptied and the accumulator GOOD. -/
theorem recorderSound_of_empty {r : Drec} (hlist : r.list = []) (hverdict : r.verdict = .good)
    (hlines : ¬(r.mark = true ∧ r.reject = true)) : recorderSound r :=
  (recorderSound_iff r).2 ⟨hlist ▸ recordsFit_nil _, iff_of_true hverdict hlist, hlines⟩

/-! ## The operations that write DREC (R181, R188 to R190) -/

/-- DREC's laws, said of the state. -/
def recorderLaw (s : State) : Prop := recorderSound s.drec

theorem recorderLaw_of_drec_eq {s t : State} (ht : t.drec = s.drec) (hs : recorderLaw s) : recorderLaw t := by
  rwa [recorderLaw, ht]

theorem openPlate_keeps_recorderLaw {s : State} (hs : recorderLaw s) : recorderLaw (openPlate s) := by
  obtain ⟨-, -, hlines⟩ := (recorderSound_iff _).1 hs
  exact recorderSound_of_empty rfl rfl hlines

theorem restart_keeps_recorderSound {r : Drec} (hr : recorderSound r) (imaging : Bool) :
    recorderSound (r.restart imaging) := by
  obtain ⟨-, -, hlines⟩ := (recorderSound_iff r).1 hr
  refine recorderSound_of_empty rfl rfl ?_
  cases imaging with
  | true => exact fun h => nomatch h.1
  | false => exact hlines

section
variable {s : State} (hs : recorderLaw s)
include hs

theorem handDefect_keeps_recorderLaw {d : Defect} (hkind : d.kind ≠ .overflow) : recorderLaw (handDefect d s) :=
  take_keeps_recorderSound hs hkind

/-- R188, R189: of the two lines the verdict drives at most one high. -/
theorem fixVerdict_keeps_recorderLaw : recorderLaw (fixVerdict s) := by
  refine recorderSound_lines hs rfl rfl ?_
  rintro ⟨hmark, hreject⟩
  have hmarked : s.drec.verdict = .marked := beq_iff_eq.1 hmark
  have hrejected : s.drec.verdict = .reject := beq_iff_eq.1 hreject
  exact nomatch hmarked.symm.trans hrejected

theorem clearLines_keeps_recorderLaw : recorderLaw (clearLines s) :=
  recorderSound_lines hs rfl rfl fun h => nomatch h.1

/-! ## The raster unit (R102 to R111, R119) -/

/-- RU goes on to ask for a burst. -/
theorem ruPump_keeps_recorderLaw (ru : Ru) : recorderLaw (ruPump { s with ru := ru }) :=
  recorderLaw_of_drec_eq (by simp) hs

omit hs in
theorem ruPlace_keeps_recorderLaw (top : Nat) (l : List RuSlot) : ∀ {s : State}, recorderLaw s →
    recorderLaw (ruPlace top l s) := by
  induction l with
  | nil => exact fun hs => ruPump_keeps_recorderLaw hs _
  | cons slot rest ih =>
    intro s hs
    unfold ruPlace
    split
    · exact ih hs
    · split
      · exact ih hs
      · split
        · exact ruPump_keeps_recorderLaw hs _
        · exact ih (handDefect_keeps_recorderLaw hs nofun)

theorem ruLook_keeps_recorderLaw : recorderLaw (ruLook s) := by
  unfold ruLook
  dsimp only
  split
  · refine holds_ite (ruPlace_keeps_recorderLaw _ _ ?_) hs
    exact hs
  · exact hs

theorem ruFault_keeps_recorderLaw (top : Nat) (c : DecodeContext) : recorderLaw (ruFault top c s) := by
  rw [ruFault_eq]
  exact ruPlace_keeps_recorderLaw _ _
    (handDefect_keeps_recorderLaw (s := { s with ru := s.ru.faulted c }) (d := decodeDefect s.ru.cursor c) hs nofun)

theorem ruReadDone_keeps_recorderLaw (stale : Bool) (bs : List Byte) : recorderLaw (ruReadDone stale bs s) := by
  have hfault (ru : Ru) (top : Nat) (c : DecodeContext) : recorderLaw (ruFault top c { s with ru := ru }) :=
    ruFault_keeps_recorderLaw (s := { s with ru := ru }) hs top c
  have hplace (ru : Ru) (top : Nat) (l : List RuSlot) : recorderLaw (ruPlace top l { s with ru := ru }) :=
    ruPlace_keeps_recorderLaw top l (s := { s with ru := ru }) hs
  unfold ruReadDone
  refine holds_ite (ruPump_keeps_recorderLaw hs s.ru) ?_
  split
  · dsimp only
    split
    · exact hfault ..
    · exact holds_ite (holds_ite (hfault ..) (hplace ..)) (holds_ite (hfault ..) (ruPump_keeps_recorderLaw hs _))
  · exact hs

theorem ruWriteDone_keeps_recorderLaw (stale : Bool) : recorderLaw (ruWriteDone stale s) := by
  unfold ruWriteDone
  refine holds_ite (ruPump_keeps_recorderLaw hs s.ru) ?_
  split
  · refine holds_ite (ruPump_keeps_recorderLaw hs _) (holds_ite (ruPump_keeps_recorderLaw hs _) ?_)
    refine ruLook_keeps_recorderLaw ?_
    exact hs
  · exact hs

theorem ruStart_keeps_recorderLaw (j : RuJob) : recorderLaw (ruStart j s) := by
  refine ruLook_keeps_recorderLaw ?_
  exact hs

/-! ## The schedule (R129 to R135) -/

theorem handAbort_keeps_recorderLaw (j : Job) (r : JobResult) : recorderLaw (handAbort j r s) := by
  unfold handAbort
  split
  · exact handDefect_keeps_recorderLaw hs nofun
  · exact hs

theorem endArmedJob_keeps_recorderLaw (r : JobResult) (f : Option FitFault) : recorderLaw (endArmedJob r f s) := by
  unfold endArmedJob
  dsimp only
  split
  · exact hs
  · rename_i j _
    have himaged := fixVerdict_keeps_recorderLaw (handAbort_keeps_recorderLaw hs j r)
    have hunimaged : recorderLaw (closePlate s) := hs
    exact holds_ite (recorderLaw_of_drec_eq (by simp) himaged) (recorderLaw_of_drec_eq (by simp) hunimaged)

theorem beginArming_keeps_recorderLaw (j : Job) : recorderLaw (beginArming j s) :=
  openPlate_keeps_recorderLaw hs

theorem bindJob_keeps_recorderLaw (j : Job) : recorderLaw (bindJob j s) := by
  obtain ⟨-, -, hlines⟩ := (recorderSound_iff _).1 hs
  exact recorderSound_lines hs (by simp) (by simp) (by simpa using hlines)

theorem startImaging_keeps_recorderLaw : recorderLaw (startImaging s) := by
  unfold startImaging
  split
  · exact hs
  · have hplate (p : Psch) : recorderLaw (plateStart { s with psch := p }) := recorderLaw_of_drec_eq (by simp) hs
    exact ruStart_keeps_recorderLaw (hplate _) _

theorem tileCheck_keeps_recorderLaw (j : Job) : recorderLaw (tileCheck j s) := by
  have hrecorded (f : Job → Job) : recorderLaw (updateJob j.id f s) := hs
  exact holds_ite (startImaging_keeps_recorderLaw (hrecorded _)) (recorderLaw_of_drec_eq (by simp) hs)

omit hs in
theorem scheduleFrom_keeps_recorderLaw (n : Nat) : ∀ {s : State}, recorderLaw s → recorderLaw (scheduleFrom n s) := by
  induction n with
  | zero => exact fun hs => hs
  | succ n ih =>
    intro s hs
    unfold scheduleFrom
    refine holds_ite hs ?_
    split
    · exact hs
    · rename_i j _
      have harming := beginArming_keeps_recorderLaw hs j
      split
      · exact ih (endArmedJob_keeps_recorderLaw harming ..)
      · exact tileCheck_keeps_recorderLaw (bindJob_keeps_recorderLaw harming j) j

theorem scheduleTest_keeps_recorderLaw : recorderLaw (scheduleTest s) := scheduleFrom_keeps_recorderLaw _ hs

theorem testIfEntriesChanged_keeps_recorderLaw (before : State) : recorderLaw (testIfEntriesChanged before s) :=
  holds_ite hs (scheduleTest_keeps_recorderLaw hs)

theorem endArmed_keeps_recorderLaw (r : JobResult) (f : Option FitFault) : recorderLaw (endArmed r f s) := by
  unfold endArmed
  split
  · exact hs
  · exact scheduleTest_keeps_recorderLaw (endArmedJob_keeps_recorderLaw hs r f)

theorem endImaging_keeps_recorderLaw (r : JobResult) : recorderLaw (endImaging r s) := by
  unfold endImaging
  split
  · exact hs
  · exact endArmed_keeps_recorderLaw hs r none

end

end Sys2Proof.Machine

/-! Every command keeps the laws of the defect list and the verdict (R183, R185, R186, R189): the head's events, the
commands of the link and the completions. -/

namespace Sys2Proof.Machine

section
variable {s : State} (hs : recorderLaw s)
include hs

/-! ## The judgement of a fill (R97) -/

theorem judgeFill_keeps_recorderLaw (f : Fill) : recorderLaw (judgeFill f s) := by
  have hsct (x : Sct) : recorderLaw { s with sct := x } := hs
  exact holds_ite (startImaging_keeps_recorderLaw (hsct _)) (endArmed_keeps_recorderLaw (hsct _) ..)

theorem fillDone_keeps_recorderLaw (stale : Bool) (bs : List Byte) : recorderLaw (fillDone stale bs s) := by
  have hpump {t : State} (ht : t.drec = s.drec) : recorderLaw (fillPump t) :=
    recorderLaw_of_drec_eq (by simpa using ht) hs
  have htaken (f : Fill) : (takeFill f bs s).drec = s.drec := by simp
  unfold fillDone
  refine holds_ite (hpump rfl) ?_
  split
  · exact hs
  · dsimp only
    split
    · exact recorderLaw_of_drec_eq (htaken _) hs
    · exact holds_ite (judgeFill_keeps_recorderLaw (recorderLaw_of_drec_eq (htaken _) hs) _) (hpump (htaken _))

/-! ## Head return records (R161 to R171, R177) -/

theorem finishTest_keeps_recorderLaw (code : Byte) (fields : List Byte) : recorderLaw (finishTest code fields s) := by
  unfold finishTest
  split
  · exact hs
  · exact scheduleTest_keeps_recorderLaw hs

theorem checkHead_keeps_recorderLaw (r : HeadRecord) : recorderLaw (checkHead r s) :=
  holds_ite (endImaging_keeps_recorderLaw hs _) hs

/-- R171, R189: a plate loaded rise drives both lines low. -/
theorem takeHeadState_keeps_recorderLaw (r : HeadRecord) : recorderLaw (takeHeadState r s) := by
  have htold (note : Report) (m : Hmon) : recorderLaw (report note { s with hmon := m }) := hs
  have hcleared (note : Report) (m : Hmon) : recorderLaw (clearLines (report note { s with hmon := m })) :=
    clearLines_keeps_recorderLaw (htold note m)
  unfold takeHeadState
  dsimp only
  refine holds_ite hs (scheduleTest_keeps_recorderLaw ?_)
  split
  · exact hcleared ..
  · exact htold ..

theorem judgeRecord_keeps_recorderLaw (r : HeadRecord) (v : Revolution) (job : Nat) :
    recorderLaw (judgeRecord r v job s) := by
  have hjudged : recorderLaw ((List.range 32).foldl (judgeReading r v job) s) := recorderLaw_of_drec_eq (by simp) hs
  refine holds_ite (holds_ite (List.foldlRecOn _ _ hjudged fun t ht k _ => ?_) hjudged) hs
  exact holds_ite (handDefect_keeps_recorderLaw ht nofun) ht

theorem takeRecord_keeps_recorderLaw (r : HeadRecord) : recorderLaw (takeRecord r s) := by
  have htaken : recorderLaw { s with imp := { s.imp with recordTaken := true } } := hs
  have hstate := takeHeadState_keeps_recorderLaw (checkHead_keeps_recorderLaw htaken r) r
  exact holds_ite (finishTest_keeps_recorderLaw hstate ..) (judgeRecord_keeps_recorderLaw hstate ..)

/-! ## The index and the slot clock (R148, R150, R158, R172 to R174) -/

theorem handDrumSpeed_keeps_recorderLaw : recorderLaw (handDrumSpeed s) := handDefect_keeps_recorderLaw hs nofun

theorem handUnderrun_keeps_recorderLaw : recorderLaw (handUnderrun s) := by
  unfold handUnderrun
  split
  · exact handDefect_keeps_recorderLaw hs nofun
  · exact hs

theorem releaseSweep_keeps_recorderLaw : recorderLaw (releaseSweep s) := by
  have hcounted (m : Imp) : recorderLaw { s with imp := m } := hs
  exact holds_ite (ruLook_keeps_recorderLaw (hcounted _)) (hcounted _)

theorem closeRevolution_keeps_recorderLaw : recorderLaw (closeRevolution s) := by
  have hunderrun := handUnderrun_keeps_recorderLaw hs
  have hdefects := holds_ite (p := shortRevolution (handUnderrun s) = true)
    (handDrumSpeed_keeps_recorderLaw hunderrun) hunderrun
  have hclosed : recorderLaw (closeExpose s) :=
    recorderLaw_of_drec_eq (by simp [closeExpose]) (releaseSweep_keeps_recorderLaw hdefects)
  exact holds_ite (P := recorderLaw) hclosed hs

theorem decideEnd_keeps_recorderLaw (r : JobResult) : recorderLaw (decideEnd r s) := by
  refine endImaging_keeps_recorderLaw ?_ r
  exact hs

theorem decideDwell_keeps_recorderLaw : recorderLaw (decideDwell s) := by
  have hcounted (n : Nat) : recorderLaw { s with imp := { s.imp with dwellCount := n } } := hs
  exact holds_ite (holds_ite hs (decideEnd_keeps_recorderLaw (hcounted _) _)) hs

theorem decideImaging_keeps_recorderLaw (j : Job) : recorderLaw (decideImaging j s) := by
  refine holds_ite hs (holds_ite (decideEnd_keeps_recorderLaw hs _) (holds_ite (decideEnd_keeps_recorderLaw hs _) ?_))
  exact holds_ite (recorderLaw_of_drec_eq (by simp) hs)
    (holds_ite (recorderLaw_of_drec_eq (by simp) hs) (decideDwell_keeps_recorderLaw hs))

theorem decideRevolution_keeps_recorderLaw : recorderLaw (decideRevolution s) := by
  unfold decideRevolution
  split
  · exact decideImaging_keeps_recorderLaw hs _
  · exact recorderLaw_of_drec_eq (by simp) hs

theorem abandonIfFourth_keeps_recorderLaw : recorderLaw (abandonIfFourth s) := by
  unfold abandonIfFourth
  split
  · exact holds_ite (finishTest_keeps_recorderLaw hs ..) hs
  · exact hs

theorem indexEvent_keeps_recorderLaw : recorderLaw (indexEvent s) := by
  have hclosed : recorderLaw (hmonIndex (closeRevolution s)) := closeRevolution_keeps_recorderLaw hs
  exact abandonIfFourth_keeps_recorderLaw (decideRevolution_keeps_recorderLaw hclosed)

theorem reportClockLoss_keeps_recorderLaw (clock : ClockName) : recorderLaw (reportClockLoss clock s) := by
  unfold reportClockLoss
  split
  · exact hs
  · exact endImaging_keeps_recorderLaw hs _

theorem markOverdue_keeps_recorderLaw : recorderLaw (markOverdue s) := by
  have hmarked : recorderLaw { s with hmon := { s.hmon with overdue := true } } := hs
  exact holds_ite (handDrumSpeed_keeps_recorderLaw hmarked) hmarked

theorem hmonSlot_keeps_recorderLaw : recorderLaw (hmonSlot s) := by
  have hcounted : recorderLaw { s with hmon := { s.hmon with slotCount := countSlot s.hmon.slotCount } } := hs
  have hmarked := markOverdue_keeps_recorderLaw hcounted
  have hlost {t : State} (ht : recorderLaw t) : recorderLaw (markLost t) := by
    refine reportClockLoss_keeps_recorderLaw ?_ _
    exact ht
  exact holds_ite hs (holds_ite (hlost (holds_ite hmarked hcounted)) (holds_ite hmarked hcounted))

theorem slotEvent_keeps_recorderLaw : recorderLaw (slotEvent s) :=
  hmonSlot_keeps_recorderLaw (recorderLaw_of_drec_eq (by simp) hs)

/-! ## Bytes of the link (R4 to R8) -/

theorem acceptFrame_keeps_recorderLaw (f : Frame) : recorderLaw (acceptFrame f s) :=
  holds_ite (scheduleTest_keeps_recorderLaw hs) hs

theorem receiveByte_keeps_recorderLaw (b : Byte) : recorderLaw (receiveByte b s) := by
  unfold receiveByte
  dsimp only
  split
  · exact holds_ite hs hs
  · exact holds_ite hs (holds_ite (holds_ite (acceptFrame_keeps_recorderLaw hs _) hs) hs)

end

/-! ## Commands of the link -/

/-- The meaning of a command that keeps DREC's laws. -/
def KeepsRecorder (run : Frame → State → State) : Prop := ∀ f s, recorderLaw s → recorderLaw (run f s)

theorem KeepsRecorder.serve {p : Frame → Bool} {run : Frame → State → State} (hrun : KeepsRecorder run) {s : State}
    (hs : recorderLaw s) : leadsTo recorderLaw (serve p run s) := by
  intro t ht
  rcases serve_cases ht with rfl | ⟨f, rest, -, -, rfl⟩
  · exact hs
  · exact hrun f _ hs

theorem KeepsRecorder.whenReady {run : Frame → State → State} (hrun : KeepsRecorder run) :
    KeepsRecorder (whenReady run) := by
  intro f s hs
  unfold Machine.whenReady
  split
  · exact hs
  · exact hrun f s hs

/-- A command that leaves DREC alone. -/
theorem keepsRecorder_of_drec {run : Frame → State → State} (hrun : ∀ f s, (run f s).drec = s.drec) :
    KeepsRecorder run := fun f s hs => recorderLaw_of_drec_eq (hrun f s) hs

theorem runPageOpen_keepsRecorder : KeepsRecorder runPageOpen := by
  intro f s hs
  unfold runPageOpen
  split
  · exact hs
  · split
    · exact hs
    · split
      · exact hs
      · refine holds_ite ?_ hs
        split
        · rename_i hcreated
          refine scheduleTest_keeps_recorderLaw (recorderLaw_of_drec_eq (s := s) ?_ hs)
          simp [createEntry_keeps hcreated]
        · exact hs

theorem runPageClose_keepsRecorder : KeepsRecorder runPageClose := by
  intro f s hs
  unfold runPageClose
  split
  · exact hs
  · exact holds_ite (testIfEntriesChanged_keeps_recorderLaw (recorderLaw_of_drec_eq (by simp) hs) _) hs

theorem runPageDrop_keepsRecorder : KeepsRecorder runPageDrop := by
  intro f s hs
  unfold runPageDrop
  split
  · exact hs
  · exact holds_ite hs (holds_ite hs
      (testIfEntriesChanged_keeps_recorderLaw (recorderLaw_of_drec_eq (by simp) hs) _))

theorem runScreenBegin_keepsRecorder : KeepsRecorder runScreenBegin := by
  intro f s hs
  unfold runScreenBegin
  split
  · exact hs
  · exact holds_ite hs (holds_ite (scheduleTest_keeps_recorderLaw hs) hs)

theorem runScreenEnd_keepsRecorder : KeepsRecorder runScreenEnd := by
  intro f s hs
  unfold runScreenEnd
  split
  · exact hs
  · exact holds_ite hs (scheduleTest_keeps_recorderLaw hs)

theorem runPlateQueue_keepsRecorder : KeepsRecorder runPlateQueue := by
  intro f s hs
  unfold runPlateQueue
  split
  · exact hs
  · exact holds_ite hs (holds_ite hs (holds_ite hs (holds_ite hs (scheduleTest_keeps_recorderLaw hs))))

theorem cancelJob_keeps_recorderLaw {s : State} (hs : recorderLaw s) (j : Job) : recorderLaw (cancelJob j s) := by
  have hqueued : recorderLaw (cancelQueued j s) := scheduleTest_keeps_recorderLaw hs
  unfold cancelJob
  cases j.state with
  | imaging => exact hs
  | arming => exact endArmed_keeps_recorderLaw hs ..
  | queued | finished | failed | cancelled => exact hqueued

theorem runPlateCancel_keepsRecorder : KeepsRecorder runPlateCancel := by
  intro f s hs
  unfold runPlateCancel
  split
  · exact hs
  · refine cancelJob_keeps_recorderLaw ?_ _
    exact hs

/-- R190, R197: RESTART empties the list, and drives REJECT alone for a job in IMAGING. -/
theorem runRestart_keepsRecorder : KeepsRecorder runRestart := by
  intro f s hs
  have hdrec : (restartPart s).drec = s.drec.restart (imagingJob s).isSome := by
    unfold restartPart
    dsimp only
    split <;> simp
  unfold runRestart
  split
  · split
    · exact hs
    · refine recorderLaw_of_drec_eq (t := restartPart s) hdrec (s := { s with drec := _ }) ?_
      exact restart_keeps_recorderSound hs _
  · exact hs

/-! ## Every command -/

theorem completion_keeps_recorderLaw {client : State → State} (hclient : ∀ s, recorderLaw s → recorderLaw (client s))
    (o : EndOrder) {s : State} (hs : recorderLaw s) : recorderLaw (completion o client s) := by
  cases o with
  | endFirst => exact hclient _ hs
  | askFirst => exact hclient { s with psc := { s.psc with inFlight := .ending } } hs

theorem leadsTo_ite {P : State → Prop} {p : Prop} [Decidable p] {a b : Host.Outcome State Fault Refusal}
    (ha : leadsTo P a) (hb : leadsTo P b) : leadsTo P (if p then a else b) := by
  split
  · exact ha
  · exact hb

theorem exec_keeps_recorderLaw {s : State} (hs : recorderLaw s) (c : Instr) : leadsTo recorderLaw (exec c s) := by
  have hstays : leadsTo recorderLaw (.next s) := leadsTo_next hs
  have hread {client : List Byte → State → State} (hclient : ∀ bs s, recorderLaw s → recorderLaw (client bs s))
      (o : EndOrder) (addr len : Nat) : leadsTo recorderLaw (finishRead o addr len client s) :=
    leadsTo_next (completion_keeps_recorderLaw (hclient _) o hs)
  have hwrite {client : State → State} (hclient : ∀ s, recorderLaw s → recorderLaw (client s)) (o : EndOrder)
      (addr : Nat) (bs : List Byte) : leadsTo recorderLaw (finishWrite o addr bs client s) :=
    leadsTo_next (completion_keeps_recorderLaw hclient o (s := writeBytes addr bs s) hs)
  cases c with
  | hardwareReset => exact leadsTo_next recorderSound_reset
  | resetRelease => exact leadsTo_next hs
  | tagZero => exact (keepsRecorder_of_drec (run := fun f t => answer f rBadField [] t) fun _ _ => rfl).serve hs
  | unknownKind => exact (keepsRecorder_of_drec (run := fun f t => answer f rUnknownKind [] t) fun _ _ => rfl).serve hs
  | status | configure | headSetup => exact (keepsRecorder_of_drec fun f s => by simp).serve hs
  | restart => exact runRestart_keepsRecorder.serve hs
  | pageOpen => exact runPageOpen_keepsRecorder.whenReady.serve hs
  | pageClose => exact runPageClose_keepsRecorder.whenReady.serve hs
  | pageDrop => exact runPageDrop_keepsRecorder.whenReady.serve hs
  | screenBegin => exact runScreenBegin_keepsRecorder.whenReady.serve hs
  | screenEnd => exact runScreenEnd_keepsRecorder.whenReady.serve hs
  | plateQueue => exact runPlateQueue_keepsRecorder.whenReady.serve hs
  | plateCancel => exact runPlateCancel_keepsRecorder.whenReady.serve hs
  | pageBand | pageQuery | screenTile | screenQuery | plateQuery | plateList | channelClear | monitorTest =>
    exact (keepsRecorder_of_drec fun f s => by simp).whenReady.serve hs
  | frameReceived b | byteReceived b => exact leadsTo_ite hstays (leadsTo_next (receiveByte_keeps_recorderLaw hs b))
  | frameTimerExpiry =>
    simp only [exec, execFrameTimerExpiry]
    split
    · exact hstays
    · exact leadsTo_ite hstays (leadsTo_next hs)
  | watchdogExpiry | frameSent => exact leadsTo_ite hstays (leadsTo_next hs)
  | beginTransmission =>
    simp only [exec, execBeginTransmission]
    (repeat' split) <;> exact leadsTo_next hs
  | linkWriteBurstDone o =>
    simp only [exec, execLinkWriteBurstDone]
    split
    · exact hwrite (fun t ht => testIfEntriesChanged_keeps_recorderLaw (recorderLaw_of_drec_eq (by simp) ht) t) o _ _
    · exact hstays
  | tileWriteBurstDone o =>
    simp only [exec, execTileWriteBurstDone]
    split
    · exact hwrite (fun t ht => recorderLaw_of_drec_eq (by simp) ht) o _ _
    · exact hstays
  | ruWriteBurstDone o =>
    simp only [exec, execRuWriteBurstDone]
    split
    · exact hwrite (fun t ht => ruWriteDone_keeps_recorderLaw ht _) o _ _
    · exact hstays
  | fillBurstDone o =>
    simp only [exec, execFillBurstDone]
    split
    · exact hread (fun bs t ht => fillDone_keeps_recorderLaw ht _ bs) o _ _
    · exact hstays
  | ruReadBurstDone o =>
    simp only [exec, execRuReadBurstDone]
    split
    · exact hread (fun bs t ht => ruReadDone_keeps_recorderLaw ht _ bs) o _ _
    · exact hstays
  | fetchArrival o =>
    simp only [exec, execFetchArrival]
    split
    · exact hread (fun bs t ht => recorderLaw_of_drec_eq (by simp) ht) o _ _
    · exact hstays
  | receptionTimeout ctx =>
    refine leadsTo_ite hstays ?_
    split
    · exact leadsTo_ite
        (leadsTo_next (testIfEntriesChanged_keeps_recorderLaw (recorderLaw_of_drec_eq (by simp) hs) s)) hstays
    · exact hstays
  | refreshDue =>
    have hmerged : recorderLaw (mergeRefresh s) :=
      testIfEntriesChanged_keeps_recorderLaw (recorderLaw_of_drec_eq (by simp) hs) s
    simp only [exec, execRefreshDue]
    split
    · exact hstays
    · exact leadsTo_ite (leadsTo_ite (leadsTo_next hmerged) hstays) (leadsTo_next (recorderLaw_of_drec_eq (by simp) hs))
  | refreshOperationDone =>
    simp only [exec, execRefreshOperationDone]
    split
    · exact leadsTo_next hs
    · exact hstays
  | slotClk => exact leadsTo_ite hstays (leadsTo_next (slotEvent_keeps_recorderLaw hs))
  | indexOverdue | indexLost => exact leadsTo_ite (leadsTo_next (slotEvent_keeps_recorderLaw hs)) hstays
  | drumIndex => exact leadsTo_ite hstays (leadsTo_next (indexEvent_keeps_recorderLaw hs))
  | monitorTestAbandon => exact leadsTo_ite (leadsTo_next (indexEvent_keeps_recorderLaw hs)) hstays
  | clockLossExpiry =>
    exact leadsTo_ite hstays (leadsTo_next (finishTest_keeps_recorderLaw (reportClockLoss_keeps_recorderLaw hs _) _ _))
  | headReturnRecord r => exact leadsTo_ite hstays (leadsTo_next (takeRecord_keeps_recorderLaw hs r))

/-- Settles O58: a step runs one command on the state with the queue's rest, which has the same DREC, and every command
keeps DREC's laws. -/
theorem stepKeepsTheRecorderSound : Obligations.StepKeepsTheRecorderSound := by
  intro s t hs hstep
  unfold step at hstep
  split at hstep
  · rwa [← Host.Outcome.next.inj hstep]
  · rename_i rest _
    exact exec_keeps_recorderLaw (s := { s with pending := rest }) hs _ t hstep

end Sys2Proof.Machine
